-- ==== Sys2Proof/Word.lean ====
section
/-! DEFINITION. The plain words and index types of the HY1624 (spec 00_scope, 01_architecture, 11_host_ports). -/

namespace Sys2Proof

/-- One byte; every multi-byte field is little-endian (R6). -/
abbrev Byte := BitVec 8

/-- A channel number, CH0 to CH15 (R5). -/
abbrev Ch := Fin 16

/-- A bank or Holm: 0 is A, 1 is B (R5). -/
abbrev Bank := Fin 2

/-- A host port: 0 is A, 1 is B, 2 is C (R270). -/
abbrev Port := Fin 3

/-- The bank of a channel: CH0 to CH7 lie in bank A, CH8 to CH15 in bank B (R5). -/
def bankOf (c : Ch) : Bank := if c.val < 8 then 0 else 1

/-- A channel's position within its bank (R5). -/
def posOf (c : Ch) : Fin 8 := ⟨c.val % 8, Nat.mod_lt _ (by decide)⟩

/-- The channel at a bank position. -/
def chAt (b : Bank) (k : Fin 8) : Ch := ⟨8 * b.val + k.val, by omega⟩

/-- All channels, in ascending order. -/
def allCh : List Ch := List.finRange 16

/-- The channels of one bank, in ascending order. -/
def bankChs (b : Bank) : List Ch := allCh.filter (fun c => bankOf c == b)

/-- All ports. -/
def allPorts : List Port := [0, 1, 2]

end Sys2Proof
end

