-- ==== Sys2Proof/Syntax.lean ====
section
/-! DEFINITION. The commands of the HY1624: one constructor of Instr per row of spec/opcode_table.json, with the operands
the rules give the row. A mailbox row carries its request (R301, R302); a register or frame row carries what the host sent;
a happening carries the physical facts that the rules judge. -/

namespace Sys2Proof

/-- A mailbox request: the fields of the 16-byte header that execution needs (R301, R302) and the payload. -/
structure Req where
  port : Port
  tag : BitVec 16
  seq : BitVec 8
  prio : BitVec 2
  fence : Bool
  autorel : Bool
  deadline : BitVec 16
  obj : BitVec 16
  payload : List Byte
  deriving DecidableEq, Repr

/-- What the sequencer samples of one turn-off (R191, R193): the load current in 250 µA at every µs of the clamp interval, from the
turn-off on. -/
structure ClampMeas where
  currents : List Nat
  deriving DecidableEq, Repr

/-- What a Holm's monitors find of its field supply (R244, R250): VF, how far GNDF stands above the lowest N or IN terminal, both in
mV, and for how many ticks the condition of the row has held. -/
structure SupplyRead where
  vf : Int
  gnd : Int
  held : Nat
  deriving DecidableEq, Repr

/-- A voltage in mV, and for how many ticks it has stood on its side of the thresholds that judge it. -/
structure PinRead where
  mv : Int
  held : Nat
  deriving DecidableEq, Repr

/-- The level of a logic pin, and for how many ticks it has stood. -/
structure PinHeld where
  level : Bool
  held : Nat
  deriving DecidableEq, Repr

/-- What a Holm reads first when VF rises: VF in mV, its case temperature in 1/16 °C. -/
structure RestartRead where
  vf : Int
  case : Int
  deriving DecidableEq, Repr

/-- A raw frame as the device sees it at the rising edge of nCS (R274, R276): the host's bytes, the number of clock edges,
and whether RDY was set at the falling edge. -/
structure RawFrame where
  bytes : List Byte
  edges : Nat
  rdyAtFall : Bool
  deriving DecidableEq, Repr

/-- One 100 µs housekeeping frame of a Holm (R16), by bank position where a list is named. Temperatures in 1/16 °C,
voltages in mV, currents in the unit named. -/
structure HkFrame where
  /-- the eight current slots: switch current in 250 µA (R210), sink current in 10 µA for DI and CNT (R164) -/
  cur : List Nat
  /-- the mirror currents that the fine range's threshold compares, in 10 µA (R204) -/
  mirror : List Nat
  /-- the eight P-terminal voltages, mV -/
  vp : List Int
  /-- the eight N-terminal voltages, mV -/
  vn : List Int
  vf : Int
  vx : Int
  case : Int
  /-- the junction whose turn it is, the two internal rails whose turn it is (mV) -/
  jun : Int
  rails : List Int
  /-- the zero conversion in units of every conversion, and the reference conversion with 65536 for its nominal value (log entry
  102) -/
  zero : Int
  ref : Int
  /-- the voltage at the ISNS pad, mV -/
  isns : Int
  /-- excitation driver currents in µA (R217) -/
  iexc : List Nat
  /-- leakage currents in 0.1 µA (R80) -/
  leak : List Nat
  /-- loop readback in nA and the loop terminal voltage in mV (R139, R145) -/
  loopI : List Int
  loopV : List Nat
  /-- sensor supply currents in µA and IP-terminal voltages in mV, as the ledger counters take them (R217 to R219) -/
  ssup : List Nat
  vip : List Int
  /-- clamp energies of turn-offs measured since the last frame that no other command carried -/
  clamps : List (Fin 8 × ClampMeas)
  deriving DecidableEq, Repr

/-- What the modulator delivers for one of its ticks: in BRG V_sig and V_sen in one unit, from which R68 forms their ratio; in RES the
voltages at P, N, SP and SN and across R_ref from which R75 computes it, in one unit; else a word in which 1.0 is 2^31, the full scale
(R88, R133). -/
inductive ModIn where
  | word (x : Int)
  | bridge (sig sen : Int)
  | volts (p n sp sn ref : Int)
  deriving DecidableEq, Repr

/-- Modulator words that enter the front of a chain (R86, R87): in carrier excitation those of a positive and of the following negative
half-period, each from its reversal on, where words left out repeat the last one; otherwise one list after the other. -/
structure ChainIn where
  pos : List ModIn
  neg : List ModIn
  deriving DecidableEq, Repr

/-- The facts of one sample instant (R107): what entered the chain for it, how many ticks ago its last modulator
bit came, and V_sen and V(P) − V(N) in µV, as the sense-line break diagnostic takes them (Table 9 of 03_bridge_measurement,
R466). -/
structure SampleIn where
  inputs : List ChainIn
  age : Nat
  vsen : Int
  vpn : Int
  deriving DecidableEq, Repr

/-- The 26 programmable engines (Table 4 of 01_architecture). -/
inductive Engine where
  | core (n : Fin 8)
  | seqr (c : Ch)
  | datapath (b : Bank)
  deriving DecidableEq, Repr

/-- Where a double-bit error occurred (R11): in core C(n + 1), or in shared structures, with the SEQ of the record of the Den
buffer that it destroyed, if any (R374). -/
inductive DbePlace where
  | engine (n : Fin 7)
  | shared (hit : Option Nat)
  deriving DecidableEq, Repr

/-- The diagnostics of R78: sense-line break, signal-line break, impedance, leakage. -/
inductive BrgDiag where
  | sense | signal | impedance | leakage
  deriving DecidableEq, Repr

/-- What the inputs of a bridge show for R81: whether the modulators of signal and sense stand at their full-scale limit; the
driver's current in µA with how many ticks it has stood at its limit; V_sen of a raw result in µV. -/
inductive Disturb where
  | modLimit (sig sen : Bool)
  | driverLimit (ua ticks : Nat)
  | senseStep (vsen : Int)
  deriving DecidableEq, Repr

/-- The supply states that end by SUPPLY_STATE_EXIT (R244, R250). -/
inductive SupplyState where
  | warning | undervoltage | surge | groundLoss
  deriving DecidableEq, Repr

/-- Reasons of a trial revert (R405, Table 11 of 15_start_update_security). -/
inductive RevertReason where
  | window | starts | failedStart | notActivated
  deriving DecidableEq, Repr

/-- The voltage at a counter's terminal in mV, and for how many ns it has stood on its side of the thresholds. -/
structure PinEdge where
  mv : Int
  widthNs : Nat
  deriving DecidableEq, Repr

/-- What a time beacon measures: the oscillator frequency of the Holm in mHz and the delay of its link in ns. -/
structure Beacon where
  oscMilliHz : Nat
  delayNs : Nat
  deriving DecidableEq, Repr

/-- The connection of an alarm strap: through a resistance in Ω to the field supply or to the bank ground (0: directly), or none
(Table 4 of 06_loops_and_modem). -/
inductive StrapPin where
  | toVf (ohm : Nat)
  | toGround (ohm : Nat)
  | none_
  deriving DecidableEq, Repr

/-- The alarm strap states of Table 4 of 06_loops_and_modem (codes of R145). -/
inductive Strap where
  | high | low | open_ | lockLow | lockHigh | invalid
  deriving DecidableEq, Repr

/-- What a cold start finds (R386): VDD in mV and for how many ticks it has stood above 2.95 V (R426), LPORT and the first debounced LSEAL, the 25 MHz crystal, the hold-up capacitor, and the
real-time clock. -/
structure ColdFacts where
  vdd : Nat
  vddFor : Nat
  lport : Bool
  lseal : Bool
  crystalOk : Bool
  /-- measured hold-up capacitance in µF and its charge so far in mV (R237, R426) -/
  capUf : Nat
  vholdMv : Nat
  /-- the real-time clock ran on while VDD was absent, its count in 1/65536 s, whether it runs now, and VBAT present (R380,
  R429) -/
  rtcKept : Bool
  rtcCount : Nat
  rtcRuns : Bool
  vbat : Bool
  /-- the step of Table 2 of 15_start_update_security at which the power-fail warning comes, if it comes before RDY (R434) -/
  cut : Option (BitVec 8)
  deriving DecidableEq, Repr

/-- A start that fails (R392): the failing step of its table, and what a cold start found until then. -/
structure FailedStart where
  step : BitVec 8
  facts : ColdFacts
  deriving DecidableEq, Repr

/-- The lanes of a Holm's link that have delivered no valid frame for 50 µs (R29): to the Holm, to Mainland. -/
structure LostLanes where
  bank : Bank
  down : Bool
  up : Bool
  deriving DecidableEq, Repr

/-- A frame heard by a modem (R151): delimiter to check byte, whether a parity or framing error stood in it, whether its carrier
stopped mid-frame, how many ticks ago its last stop bit or carrier came, and the level of its carrier in mV peak-to-peak (R150). -/
structure MdmHeard where
  bytes : List Byte
  bad : Bool
  carrierLost : Bool
  age : Nat
  level : Nat
  deriving DecidableEq, Repr

/-- The commands: rows of spec/opcode_table.json, in the table's order. -/
inductive Instr where
  | sysInfo (r : Req)
  | sysReset (r : Req)
  | sysTsync (r : Req)
  | sysWdog (r : Req)
  | sysClock (r : Req)
  | chMode (r : Req) (m : ClampMeas)
  | chInfo (r : Req)
  | chMeas (r : Req)
  | chDiag (r : Req)
  | chPlan (r : Req)
  | chStream (r : Req)
  | chPair (r : Req)
  | chUnpair (r : Req)
  | chInput (r : Req)
  | chCount (r : Req)
  | chField (r : Req)
  | chSafe (r : Req)
  | chBmap (r : Req)
  | outSet (r : Req) (m : ClampMeas)
  | outProt (r : Req)
  | outWire (r : Req)
  | outFuse (r : Req)
  | outClear (r : Req)
  | outPgen (r : Req)
  | outDiag (r : Req)
  | thrSet (r : Req)
  | thrGet (r : Req)
  | thrArm (r : Req)
  | thrDisarm (r : Req)
  | thrStab (r : Req)
  | fltLoad (r : Req)
  | fltRom (r : Req)
  | fltSwap (r : Req)
  | loopCfg (r : Req)
  | loopSet (r : Req)
  | loopTrim (r : Req)
  | mdmCfg (r : Req)
  | mdmSend (r : Req)
  | mdmRead (r : Req)
  | mdmReply (r : Req)
  | bdgSet (r : Req)
  | bdgQuery (r : Req)
  | bdgShed (r : Req)
  | denSnap (r : Req)
  | denRead (r : Req)
  | denClear (r : Req)
  | crcCfg (r : Req)
  | crcRun (r : Req)
  | crcSave (r : Req)
  | crcLoad (r : Req)
  | crcRead (r : Req)
  | updBegin (r : Req)
  | updChunk (r : Req)
  | updVerify (r : Req)
  | updActivate (r : Req)
  | updConfirm (r : Req)
  | updStatus (r : Req)
  | secAttest (r : Req)
  | secCert (r : Req)
  | secOwnerkey (r : Req)
  | ownClaim (r : Req)
  | ownRelease (r : Req)
  | ownResume (r : Req)
  | ownQuery (r : Req)
  | lglGet (r : Req)
  | lglDeclare (r : Req)
  | opQuery (r : Req)
  | opAbort (r : Req)
  | opRelease (r : Req)
  | opFetch (r : Req)
  /-- a committed write frame at 0xF0 -/
  | cmdq (p : Port) (fseq : BitVec 4) (data : List Byte)
  /-- a committed read frame of n bytes at 0xF8 -/
  | rspq (p : Port) (fseq : BitVec 4) (n : Nat)
  /-- a read frame of n bytes from an address of DEVTIME; committed or discarded for its host check value -/
  | devtime (p : Port) (fseq : BitVec 4) (addr : BitVec 8) (n : Nat) (crcOk : Bool)
  | pimage (p : Port) (fseq : BitVec 4) (addr : BitVec 8) (n : Nat) (crcOk : Bool)
  /-- a committed write frame starting k bytes into EVPEND -/
  | evpend (p : Port) (fseq : BitVec 4) (k : Fin 32) (data : List Byte)
  | frmerr (p : Port) (fseq : BitVec 4) (k : Fin 4) (value : Byte)
  | opwindow (p : Port) (fseq : BitVec 4) (addr : BitVec 8) (data : List Byte)
  | cmdrst (p : Port) (fseq : BitVec 4)
  | rwnd (p : Port) (fseq : BitVec 4)
  | rstd (p : Port) (fseq : BitVec 4)
  | chen (p : Port) (fseq : BitVec 4) (data : List Byte)
  | registerWrite (p : Port) (fseq : BitVec 4) (addr : BitVec 8) (data : List Byte)
  | statusOnlyFrame (p : Port) (fseq : BitVec 4)
  | chainFrame (p : Port) (fseq : BitVec 4) (slot : List Byte)
  | exchange (p : Port) (sequence : Byte)
  | output (p : Port) (outWord mask : BitVec 16) (sequence : Byte)
  | outputWithPulseSet (p : Port) (outWord mask : BitVec 16) (pset : BitVec 2) (sequence : Byte)
  | exit (p : Port) (sequence : Byte)
  | badgerEvaluation
  | deadlineExpiry (p : Port) (tag : BitVec 16)
  | queueDeadlineExpiry (p : Port) (tag : BitVec 16)
  | operationCompletion
  | ceilingRecomputation
  | ledgerExcess (code : BitVec 8) (c : Ch)
  | shedState (b : Bank) (x : SupplyRead)
  | shedStep (b : Bank) (vf : Int)
  | shedStateEnd (b : Bank) (x : SupplyRead)
  | restore (c : Ch)
  | warning (b : Bank) (x : SupplyRead)
  | undervoltage (b : Bank) (x : SupplyRead)
  | surge (b : Bank) (x : SupplyRead)
  | reverse (b : Bank)
  | groundLoss (b : Bank) (x : SupplyRead)
  | supplyStateExit (b : Bank) (st : SupplyState) (x : SupplyRead)
  | holmLockout (b : Bank) (vf : Int)
  | holmRestart (b : Bank) (strap : StrapPin) (x : RestartRead)
  | linkLoss (x : LostLanes)
  | linkEstablishment (b : Bank)
  | holdTExpiry (c : Ch)
  | portWatchdogExpiry (p : Port)
  | timeBeacon (b : Bank) (m : Beacon)
  | timeUncertain (b : Bank)
  /-- a rising edge of TSYNC and how long it stayed high, in ns -/
  | tsyncEdge (highNs : Nat)
  | crossHolmRelay (src : Bank)
  /-- the voltage at the pin -/
  | burEn (b : Bank) (x : PinRead)
  | burIn (b : Bank) (k : Fin 4) (x : PinRead)
  /-- whether LSEAL is asserted -/
  | seal (x : PinHeld)
  | sample (c : Ch) (x : SampleIn)
  | action (c : Ch) (m : ClampMeas)
  | chainedArming (c : Ch) (k : Fin 4)
  | swapBoundary (c : Ch)
  | planEffect (b : Bank)
  | movedChange (c : Ch) (m : ClampMeas)
  | datapathReload (b : Bank)
  | disturbedInputEvent (c : Ch) (d : Disturb)
  | diagnosticReport (c : Ch) (d : BrgDiag)
  | diagnosticClearance (c : Ch) (d : BrgDiag)
  | excitationShort (c : Ch)
  | excitationSupply (b : Bank) (vx : Int)
  /-- a loop's or a switch's report by its Holm names the bank and the position in it -/
  | compliance (b : Bank) (k : Fin 8) (on : Bool)
  | alarmFallback (b : Bank) (k : Fin 8)
  | readbackFault (b : Bank) (k : Fin 8)
  | loopWireBreak (b : Bank) (k : Fin 8) (on : Bool)
  | loopShort (b : Bank) (k : Fin 8) (on : Bool)
  | foldBackRetry (c : Ch) (recovered : Bool)
  | modemFrame (c : Ch) (f : MdmHeard)
  | transaction (c : Ch)
  | replyTimeout (c : Ch)
  /-- the voltage at IP in mV, and for how many ticks the input has stood on its side of the thresholds -/
  | edge (c : Ch) (vip : Int) (held : Nat)
  | wireBreak (c : Ch) (on : Bool)
  | sensorSupplyOverload (c : Ch) (on : Bool)
  /-- the voltages at IP and at IN -/
  | count (c : Ch) (e g : PinEdge)
  /-- the voltage at IN -/
  | capture (c : Ch) (e : PinEdge)
  | wireModelTrip (c : Ch)
  | fuseTableTrip (c : Ch)
  | currentLimit (c : Ch) (on : Bool)
  /-- junction above case, 1/16 K -/
  | thermalHold (c : Ch) (dt : Int)
  | restart (c : Ch) (dt : Int)
  /-- junction reading, 1/16 °C -/
  | thermalLatch (c : Ch) (tj dt : Int)
  | sensingFault (b : Bank) (k : Fin 8) (wholeBank : Bool)
  | onStateOpenLoad (c : Ch) (on : Bool)
  | offStateOpenLoad (b : Bank) (k : Fin 8) (on : Bool)
  | shortToSupply (b : Bank) (k : Fin 8) (on : Bool)
  | reverseCurrentHold (c : Ch) (vp : Int)
  | reverseCurrentHoldEnd (c : Ch) (x : PinRead)
  | pulseEdge (c : Ch) (on : Bool) (m : ClampMeas)
  /-- measured IPK in 10 mA, QIN in 10 µC, I100 in 250 µA -/
  | inrushLearning (c : Ch) (ipk qin i100 : Nat)
  | sequencerFault (c : Ch) (watchdog : Bool)
  | sequencerReloadComplete (c : Ch)
  | heartbeatMiss (e : Engine)
  /-- a reload ends; a component's blocks have passed their check, if need be on a second read -/
  | engineRecovery (e : Engine) (checkOk : Bool)
  | lockstepFault
  | doubleBitError (place : DbePlace)
  | supervisorWatchdog
  /-- how long nRESET was low, in ns -/
  | nreset (lowNs : Nat)
  | warmStart (blockOk : Bool)
  | coldStart (f : ColdFacts)
  | failedStart (x : FailedStart)
  | recoveryStart
  | powerFailWarning
  | flush
  | trialRevert (why : RevertReason)
  | trialWindowWarning
  | eventBlockClose (p : Port)
  | streamBlockClose (p : Port) (c : Ch)
  | housekeepingFrame (b : Bank) (h : HkFrame)
  | discardedFrame (p : Port) (f : RawFrame)
  | slotRejected (p : Port) (edges : Nat) (bytes : List Byte)
  | failedStartRecordClear
  | senseSelect (b : Bank) (sel : Fin 8)
  | vioInvalid (valid : Bool)
  | vholdCharged (capUf vholdMv : Nat)
  | commonFaultHoldExpiry
  deriving DecidableEq, Repr

end Sys2Proof
end

