-- ==== Sys2Proof/Config.lean ====
section
/-! DEFINITION. What one implementation of the HY1624 fixes and the spec leaves open: opaque constants (free values)
no proof can look into. Each is named in a log entry under notes/assumptions. -/

namespace Sys2Proof
namespace Config

/-- A stepped free value: the n-th value the hardware draws where the spec states none (log entry 10). -/
opaque freeValue : Nat → Nat

/-- Silicon revision byte SILREV; 'By silicon' in R285 (log entry 11). -/
opaque silrev : Byte

/-- Coefficient word k of stage `stage` of a ROM response (R95: fixed in silicon, not listed; log entry 12). -/
opaque romCoeff : Nat → Nat → Nat → BitVec 32

/-- The output dither of the n-th sample in units of 1/2^16 LSB of the 32-bit word (R88: triangular, ±1 LSB; log entry 13). -/
opaque dither : Nat → Int

/-- Word k of the channel sequencers' microcode in the image of a version (R13, R17; its content is not given, log entry 84). -/
opaque ucodeWord : BitVec 32 → Nat → BitVec 32

/-- The word of a ratio whose reference or sense voltage is 0, by its numerator (R68 and R75 state none; log entry 107). -/
opaque noReference : Int → Int

/-- The n-th single-bit error of an SRAM word: whether one comes with a tick (R11; log entry 73). -/
opaque singleBitError : Nat → Bool

/-- A ledger counter of a Holm is found faulty as C6 reads it (Table 6 of 09_badger names the fault and no rule says what makes one):
by twice the count of ticks, plus the Holm (log entry 124). -/
opaque counterFault : Nat → Bool

/-- Byte i of the content of MRAM that nothing in the model has written: the factory image among it (log entry 14). -/
opaque mramByte : Nat → Byte

/-- What a cell of MRAM holds whose writes fail their read-back, by its offset (R365, R401; log entry 96). -/
opaque badCell : Nat → Byte

/-- Byte i of the configuration and trim region as a CRC.RUN reads it, by what the region holds; its layout is not given (log
entry 14). -/
opaque configRegionByte : List Nat → Nat → Byte

/-- Byte i of the SHA3-512 digest of the legal configuration, whose encoding the spec does not give: the argument is a
list of the settings R333 names (log entry 15). -/
opaque legalDigestByte : List Nat → Nat → Byte

/-- Byte i of certificate `idx` (0 device, 1 device CA; R412; log entry 16). -/
opaque certByte : Nat → Nat → Byte

/-- Byte i of the vendor image public key in boot ROM (R411; log entry 16). -/
opaque vendorKeyByte : Nat → Byte

/-- Byte i of the n-th hedged ML-DSA-87 identity signature over a message (R411, R413; log entry 17). -/
opaque mldsaSignByte : Nat → List Byte → Nat → Byte

/-- Byte i of the n-th nonce the device draws (R375, R414; log entry 10). -/
opaque nonceByte : Nat → Nat → Byte

/-- Header fields that R377 leaves open in a GAP record (0 UPTIME, 1 WALL, 2 BOOT), by the first lost SEQ (log entry 33). -/
opaque gapHeader : Nat → Nat → Nat

/-- Facts of the factory image running at the first start: image version, anti-rollback version, legal version (R396; log entry 18). -/
opaque factoryImgVer : BitVec 32
opaque factoryArb : BitVec 32
opaque factoryLegVer : BitVec 16
opaque factoryLegDigByte : Nat → Byte
opaque factoryMdigByte : Nat → Byte

/-- The code byte of a VIOLATION record for a rejected chain slot, which Table 4 of 14_den_recorder leaves open (log entry 35). -/
opaque slotViolationCode : Byte

end Config
end Sys2Proof
end

