-- ==== Sys2Proof/Machine/Bytes.lean ====
section
/-! DEFINITION. Little-endian fields of byte lists (R6). -/

namespace Sys2Proof.Machine

/-- Byte i of a list; 0 beyond its end. -/
def byteAt (l : List Byte) (i : Nat) : Byte := l.getD i 0

/-- The little-endian value of n bytes from position i (R6). -/
def leAt (l : List Byte) (i n : Nat) : Nat :=
  match n with
  | 0 => 0
  | n + 1 => (byteAt l i).toNat + 256 * leAt l (i + 1) n

/-- n bytes, little-endian, of a value (R6); higher bits are dropped. -/
def leBytes (v n : Nat) : List Byte :=
  match n with
  | 0 => []
  | n + 1 => BitVec.ofNat 8 v :: leBytes (v / 256) n

def le16 (v : Nat) : List Byte := leBytes v 2
def le32 (v : Nat) : List Byte := leBytes v 4
def le48 (v : Nat) : List Byte := leBytes v 6
def le64 (v : Nat) : List Byte := leBytes v 8

end Sys2Proof.Machine
end

