-- ==== Sys2Proof/Machine/Keccak.lean ====
section
/-! DEFINITION. SHA3-512, the digest of R364, R396 to R398 and R411, and the SHAKE functions of its signatures (FIPS 202, which the spec names and does not
reproduce; log entry 19). A state is 25 lanes of 64 bits, lane (x, y) at index x + 5y. -/

namespace Sys2Proof.Machine

/-- Rotation of a 64-bit lane to the left. -/
def rotl64 (v n : Nat) : Nat := (v * 2 ^ (n % 64) + v / 2 ^ (64 - n % 64)) % 2 ^ 64

def lane (a : List Nat) (x y : Nat) : Nat := a.getD (x % 5 + 5 * (y % 5)) 0

/-- Rotation offsets of the rho step, lane order. -/
def rhoOffsets : List Nat :=
  [0, 1, 62, 28, 27, 36, 44, 6, 55, 20, 3, 10, 43, 25, 39, 41, 45, 15, 21, 8, 18, 2, 61, 56, 14]

def keccakRC : List Nat :=
  [0x0000000000000001, 0x0000000000008082, 0x800000000000808A, 0x8000000080008000, 0x000000000000808B,
   0x0000000080000001, 0x8000000080008081, 0x8000000000008009, 0x000000000000008A, 0x0000000000000088,
   0x0000000080008009, 0x000000008000000A] ++
  [0x000000008000808B, 0x800000000000008B, 0x8000000000008089, 0x8000000000008003, 0x8000000000008002,
   0x8000000000000080, 0x000000000000800A, 0x800000008000000A, 0x8000000080008081, 0x8000000000008080,
   0x0000000080000001, 0x8000000080008008]

/-- theta. -/
def keccakTheta (a : List Nat) : List Nat :=
  let c := (List.range 5).map (fun x => (List.range 5).foldl (fun acc y => Nat.xor acc (lane a x y)) 0)
  let d := (List.range 5).map (fun x => Nat.xor (c.getD ((x + 4) % 5) 0) (rotl64 (c.getD ((x + 1) % 5) 0) 1))
  (List.range 25).map (fun i => Nat.xor (a.getD i 0) (d.getD (i % 5) 0))

/-- rho and pi: lane (x, y) of the result is the rotated lane (x + 3y, x). -/
def keccakRhoPi (a : List Nat) : List Nat :=
  (List.range 25).map (fun i =>
    let x := i % 5
    let y := i / 5
    let j := (x + 3 * y) % 5 + 5 * x
    rotl64 (a.getD j 0) (rhoOffsets.getD j 0))

/-- chi. -/
def keccakChi (a : List Nat) : List Nat :=
  (List.range 25).map (fun i =>
    let x := i % 5
    let y := i / 5
    Nat.xor (lane a x y) (Nat.land (2 ^ 64 - 1 - lane a (x + 1) y) (lane a (x + 2) y)))

/-- iota. -/
def keccakIota (rc : Nat) (a : List Nat) : List Nat :=
  match a with
  | [] => []
  | h :: t => Nat.xor h rc :: t

/-- The permutation of 24 rounds. -/
def keccakF (a : List Nat) : List Nat :=
  keccakRC.foldl (fun s rc => keccakIota rc (keccakChi (keccakRhoPi (keccakTheta s)))) a

/-- Absorbs one block of `n` lanes. -/
def keccakAbsorb (n : Nat) (s : List Nat) (blk : List Byte) : List Nat :=
  keccakF ((List.range 25).map (fun i => if i < n then Nat.xor (s.getD i 0) (leAt blk (8 * i) 8) else s.getD i 0))

/-- Blocks of n bytes, at most `fuel` of them. -/
def blocksOf : Nat → Nat → List Byte → List (List Byte)
  | 0, _, _ => []
  | f + 1, n, l => if l.isEmpty then [] else l.take n :: blocksOf f n (l.drop n)

/-- The padding to a multiple of the rate: the suffix, zeros, the last bit. -/
def keccakPad (rate : Nat) (d : Byte) (l : List Byte) : List Byte :=
  let k := rate - l.length % rate
  if k = 1 then l ++ [d ||| 0x80] else l ++ [d] ++ List.replicate (k - 2) 0 ++ [0x80]

/-- The state of a sponge of `n` lanes that has absorbed bytes under a suffix. -/
def sponge (n : Nat) (d : Byte) (l : List Byte) : List Nat :=
  let p := keccakPad (8 * n) d l
  (blocksOf (p.length / (8 * n) + 1) (8 * n) p).foldl (keccakAbsorb n) (List.replicate 25 0)

/-- SHA3-512: 64 bytes. -/
@[irreducible] def sha3_512 (l : List Byte) : List Byte := ((sponge 9 0x06 l).take 8).flatMap (fun w => leBytes w 8)

/-- Blocks squeezed out of a sponge of `n` lanes. -/
def squeeze (n : Nat) : Nat → List Nat → List Byte
  | 0, _ => []
  | k + 1, s => (s.take n).flatMap (fun w => leBytes w 8) ++ squeeze n k (keccakF s)

/-- The first `k` blocks of SHAKE128 (`n` = 21) or SHAKE256 (`n` = 17). -/
def shake (n k : Nat) (l : List Byte) : List Byte := squeeze n k (sponge n 0x1F l)

/-- The digest of the device identity public key that certificate 0 carries (R359, R412, R414). -/
def identityDigest : List Byte := sha3_512 ((List.range 2592).map (fun i => Config.certByte 0 (32 + i)))

end Sys2Proof.Machine
end

