-- ==== Sys2Proof/Machine/ChanState.lean ====
section
/-! DEFINITION. The plain data one channel holds: output levels, locks, switch, bridge, filter, comparators, loop, modem and
digital-input state (spec chapters 02 to 08 and 10). -/

namespace Sys2Proof.Machine

/-- The mode of a channel (Table 2 of 02_channel_modes; codes 0x00 to 0x0A in this order). -/
inductive Mode where
  | off | di | cnt | dout | dop | brg | res | aii | aip | aoi | aot
  deriving DecidableEq, Repr

/-- What a precedence level demands of an output (R35): switch off, switch on or generator drive, or a loop current in nA. -/
inductive Demand where
  | off
  | on
  | cur (nA : Nat)
  deriving DecidableEq, Repr

/-- The level-1 protection locks (R35): fuse, clamp, thermal hold and latch, reverse-current hold, sequencer fault, and the
supply-fault locks of undervoltage, surge and ground loss. -/
structure Locks where
  fuse : Bool
  clamp : Bool
  thermHold : Bool
  thermLatch : Bool
  revHold : Bool
  seqFault : Bool
  supUv : Bool
  supSurge : Bool
  supGnd : Bool
  deriving DecidableEq, Repr

def Locks.none : Locks := ⟨false, false, false, false, false, false, false, false, false⟩

/-- Level 3 while active (R256): the state held at detection, the end of HOLD_T as a count of `Sys.raw`, which runs without
VDD too (none: indefinitely), whether the safe state is applied, and the state that the output had at the end of HOLD_T (R263). -/
structure HostLoss where
  held : Demand
  due : Option Nat
  safe : Bool
  atEnd : Demand
  deriving DecidableEq, Repr

/-- What an action demands (Table 3 of 05_thresholds_dosing, ACT). -/
inductive ActKind where
  | off | on | cur (uA : Nat)
  deriving DecidableEq, Repr

/-- A level-4 hold: the comparator that fired, what its action demands, the timestamp of its deciding sample, and whether
level 5 has been written for it (R35, R38, R126). -/
structure ActHold where
  src : Ch
  idx : Fin 4
  kind : ActKind
  ts : Nat
  written : Bool
  deriving DecidableEq, Repr

/-- A fast-path action on its way (R126, R127): its comparator, target, demand, the threshold event it will report,
whether its comparator still stands FIRED from this firing, and whether its firing has been reported as relayed. With `note`
it carries no action: it is the event, with that outcome, of a firing that waits behind an earlier one of its channel (Table 9
of 05_thresholds_dosing). -/
structure ActMsg where
  src : Ch
  idx : Fin 4
  tgt : Ch
  kind : ActKind
  byFlt : Bool
  seq : BitVec 16
  ts : Nat
  value : Int
  srcval : Int
  live : Bool
  told : Bool
  note : Option Byte
  deriving DecidableEq, Repr

inductive ThrState where
  | disarmed | pending | armed | fired
  deriving DecidableEq, Repr

/-- What a comparator last evaluated (R128). -/
structure EvalInfo where
  seq : BitVec 16
  ts : Nat
  value : Int
  srcval : Int
  deriving DecidableEq, Repr

/-- One comparator: its settings (Table 2 of 05_thresholds_dosing), state, condition, chained timer and rate window. -/
structure Thr where
  rwin : BitVec 8
  adly : BitVec 16
  ctrl : BitVec 32
  level : BitVec 32
  hyst : BitVec 32
  tpre : BitVec 32
  acur : BitVec 16
  st : ThrState
  cond : Bool
  lastFire : BitVec 16
  timer : Option Nat
  window : List Int
  lastEval : Option EvalInfo
  deriving DecidableEq, Repr

def Thr.reset : Thr := ⟨0, 0, 0, 0, 0, 0, 0, .disarmed, false, 0, none, [], none⟩

/-- The stability detector (R130, R131): settings, its window (newest first) and its state. -/
structure Stab where
  w : BitVec 16
  band : BitVec 32
  uband : BitVec 32
  window : List Int
  stable : Bool
  deriving DecidableEq, Repr

def Stab.reset : Stab := ⟨0, 0, 0, [], false⟩

/-- The content of one coefficient bank of a stage (R89): nothing, a descriptor with its 256 words, a ROM
reference, or an unedited copy of a ROM stage (R98). -/
inductive BankContent where
  | empty
  | desc (d : BitVec 64) (words : List (BitVec 32))
  | rom (entry : Fin 16)
  | copy (entry : Fin 16)
  deriving DecidableEq, Repr

/-- One programmable stage: banks A and B, which is active, FIR history (newest first), biquad histories
(x₋₁, x₋₂, y₋₁, y₋₂ per section) and the position of the decimator (R89, R90). -/
structure Stage where
  bankA : BankContent
  bankB : BankContent
  activeB : Bool
  hist : List Int
  bq : List (Int × Int × Int × Int)
  acc : Nat
  deriving DecidableEq, Repr

/-- A FLT.SWAP waiting for its boundary (R100): the word's fields, the request, and whether it waits for a plan instant. -/
structure Swap where
  smask : BitVec 3
  chw : Bool
  mdiv : BitVec 13
  sdecm1 : BitVec 8
  req : Req
  acceptedAt : Nat
  afterPlan : Bool
  deriving DecidableEq, Repr

/-- The sinc stage (R86): the four accumulators at the modulator's rate, the four differences at the output's, and how many
modulator words have entered since the last output. -/
structure Sinc where
  i1 : Int
  i2 : Int
  i3 : Int
  i4 : Int
  c1 : Int
  c2 : Int
  c3 : Int
  c4 : Int
  n : Nat
  deriving DecidableEq, Repr

def Sinc.reset : Sinc := ⟨0, 0, 0, 0, 0, 0, 0, 0, 0⟩

/-- The filter chain of a channel (R84 to R106): sinc stage, stages, chain word, samples still to suppress, suppressions whose instant
(first) no sample has passed yet with their S (R103), sequence number, number and timestamp of the last sample computed. -/
structure Filt where
  sinc : Sinc
  s1 : Stage
  s2 : Stage
  s3 : Stage
  mdiv : BitVec 13
  sdecm1 : BitVec 8
  supp : Nat
  later : List (Nat × Nat)
  settlePend : Bool
  seq : BitVec 16
  gap : Bool
  tstep : Bool
  lastSeq : BitVec 16
  lastTs : Nat
  swap : Option Swap
  deriving DecidableEq, Repr

/-- Bridge and resistance state (chapter 03): measurement word, diagnostic word, whether the excitation is on, short latch,
conditions present and reported, latest Z (0.25 Ω) and leakage (0.1 µA), the rate assigned by the plan, and a measurement word
that takes effect at a grid instant (R82). -/
structure Brg where
  meas : BitVec 32
  diag : BitVec 64
  exOn : Bool
  latch : Bool
  senseNow : Bool
  signalNow : Bool
  shortNow : Bool
  impNow : Bool
  leakNow : Bool
  senseRep : Bool
  signalRep : Bool
  impRep : Bool
  leakRep : Bool
  modLim : Bool
  drvLim : Bool
  z : Option Nat
  leak : Nat
  iexc : Nat
  rate : Option (Fin 5)
  next : Option (BitVec 32 × Nat)
  /-- V(P) − V(N) of the latest frame, mV (Table 9 of 03_bridge_measurement) -/
  vpn : Int
  /-- the impedances in mΩ of the frames of the last 100 ms, newest first (R78) -/
  zWin : List Nat
  /-- V_sen of the latest raw result, µV (R81) -/
  vsen : Option Int
  deriving DecidableEq, Repr

/-- Diagnostic word at reset (Table 10 of 03_bridge_measurement): LEAKEN, IBRKEN, SBRKEN = 1, LEAKTH 0x0A, ZHI 0xFFFF. -/
def diagReset : BitVec 64 := 0x00000B0AFFFF0000#64

/-- Measurement word at reset: Table 3 of 03_bridge_measurement in BRG (BLANK 0x0A, CMASK 0b11111), 0 in RES (R76). -/
def measReset (m : Mode) : BitVec 32 := if m = .brg then 0x000A03E0#32 else 0

def Brg.reset (m : Mode) : Brg :=
  ⟨measReset m, diagReset, false, false, false, false, false, false, false, false, false, false, false, false, false, none, 0, 0, none, none, 0, [], none⟩

/-- The output trim of AOI and AOT (R146 to R148). -/
inductive Trim where
  | factory
  | user (m4 m20 : Nat)
  deriving DecidableEq, Repr

/-- A trim session (Table 8 of 06_loops_and_modem): none, at c4, or at c20 with m4 stored. -/
inductive TrimSession where
  | none
  | atC4
  | atC20 (m4 : Nat)
  deriving DecidableEq, Repr

/-- Loop state (chapter 06): loop word, trim, session, diagnostics, NE 43 class, readback, terminal voltage (none while none has
been measured, R222), alarm and ramp
(current it started from, when), and by `Sys.raw` when COMPLIANCE began and when fold-back began or was last retried. -/
structure Loop where
  word : BitVec 64
  trim : Trim
  session : TrimSession
  compl : Bool
  fallback : Bool
  readback : Bool
  wireBreak : Bool
  short : Bool
  folded : Bool
  cls : Fin 5
  actual : Int
  vterm : Option Nat
  alarm : Bool
  dirHigh : Bool
  rampFrom : Nat
  rampAt : Nat
  complAt : Nat
  foldAt : Nat
  /-- an output's currents in nA in the frames of the last 10 ms, newest first (R139) -/
  iWin : List Int
  /-- the alarm that a supply fault ended, with whether it had fallen back, which its restore brings back (R140, R252) -/
  sagAlarm : Option Bool
  deriving DecidableEq, Repr

/-- The terminal voltage last measured, 0 mV when there is none. -/
def Loop.volts (l : Loop) : Nat := l.vterm.getD 0

/-- Loop word at reset (Table 3 of 06_loops_and_modem): ALMHI 0x53FC, ALMLO 0x0DDE, ALMRB 1. -/
def loopWordReset : BitVec 64 := 0x53FC0DDE00000200#64

def Loop.reset (t : Trim) : Loop :=
  ⟨loopWordReset, t, .none, false, false, false, false, false, false, 2, 0, none, false, false, 0, 0, 0, 0, [], none⟩

/-- A queued master request of the modem (R155). -/
structure MdmTx where
  txn : BitVec 16
  long : Bool
  preamb : Byte
  saddr : BitVec 6
  laddr : BitVec 38
  cmd : Byte
  data : List Byte
  deriving DecidableEq, Repr

/-- The running master transaction (R154): the request, attempts made, and when its request ended. -/
structure MdmRun where
  tx : MdmTx
  attempts : Nat
  endAt : Nat
  lastReason : Nat
  deriving DecidableEq, Repr

/-- A receive buffer entry (Table 12 of 06_loops_and_modem). -/
structure MdmEntry where
  kind : Byte
  info : Byte
  txn : BitVec 16
  ts : Nat
  frame : List Byte
  deriving DecidableEq, Repr

/-- The latest accepted request of a field device (R157). -/
structure MdmReq where
  num : BitVec 16
  endAt : Nat
  addr : List Byte
  cmd : Byte
  long : Bool
  deriving DecidableEq, Repr

/-- Modem state (R150 to R160): word, UID, queue, running transaction, counters, buffer, the frame last sent, and when it began
(`Sys.raw`). -/
structure Mdm where
  word : BitVec 32
  uid : BitVec 38
  txq : List MdmTx
  run : Option MdmRun
  nextTxn : BitVec 16
  rx : List MdmEntry
  reqNum : BitVec 16
  latest : Option MdmReq
  quietAt : Nat
  sent : List Byte
  sentAt : Nat
  deriving DecidableEq, Repr

/-- The modem word at reset: RETRY 2, REPLYT 0xC8, ROLE by mode (Table 10 of 06_loops_and_modem, R152). -/
def mdmWordReset (m : Mode) : BitVec 32 := if m = .aot then 0x008020C8 else 0x000020C8

def Mdm.reset (m : Mode) : Mdm := ⟨mdmWordReset m, 0, [], none, 1, [], 0, none, 0, [], 0⟩

/-- Digital input state (chapter 07): input word, reported state, filtered level, wire break, sensor supply overload, count
with its overflow flag, level of IN, captures (count, timestamp), dropped captures, latest edges, sink current (10 µA), voltage
at IP (mV), sensor supply current (µA); by `Sys.raw`: since when the filtered level stands, when DEB or TYPE last changed, and
when fold-back began or was last retried. -/
structure Din where
  word : BitVec 32
  state : Bool
  raw : Bool
  wireBreak : Bool
  overload : Bool
  folded : Bool
  count : BitVec 32
  ovf : Bool
  inLevel : Bool
  caps : List (BitVec 32 × Nat)
  capLost : BitVec 16
  tsRise : Nat
  tsFall : Nat
  isink : Nat
  vip : Option Int
  issup : Nat
  rawSince : Nat
  debFrom : Nat
  foldAt : Nat
  deriving DecidableEq, Repr

def Din.reset : Din := ⟨0, false, false, false, false, false, 0, false, false, [], 0, 0, 0, 0, none, 0, 0, 0, 0⟩

/-- A fuse table (R187): cooling time constant in s and breakpoints (mA, ms). -/
structure Fuse where
  tcool : Nat
  pts : List (Nat × Nat)
  deriving DecidableEq, Repr

/-- The reset fuse table (Table 5 of 08_load_switches). -/
def Fuse.reset : Fuse :=
  ⟨30, [(1200, 60000), (1500, 10000), (2000, 2000), (3000, 300), (6000, 20), (9000, 5)]⟩

/-- Pulse generator settings (R200) and the phase in use (R202). -/
structure Pgen where
  period : BitVec 32
  duty : BitVec 16
  phase : Byte
  phauto : Bool
  deriving DecidableEq, Repr

def Pgen.reset : Pgen := ⟨245760, 0x8000, 0, false⟩

/-- Switch settings that a pair's odd member keeps in store (R208). -/
structure SwSettings where
  prot : BitVec 64
  wire : BitVec 32
  fuse : Fuse
  diag : BitVec 32
  pgen : Pgen
  deriving DecidableEq, Repr

/-- Protection word at reset (Table 2 of 08_load_switches): RTWIN 0x3C, CAPMJ 0x5DC, RETRY 3, DTMAX 0x3C, ILIM 0b01. -/
def protReset : BitVec 64 := 0x003C05DC303C0001#64
/-- Wire word at reset (Table 3): MARGIN 0x0A. -/
def wireReset : BitVec 32 := 0x00000A00#32
/-- Switch diagnostic word at reset (Table 7): OFFEN, ONEN, OLTH 0x0A, OLT 0x14. -/
def swDiagReset : BitVec 32 := 0x00C00A14#32

/-- Switch state (chapter 08): settings, with the pulse generator's as commanded and as in force since its last on edge (R201); conductor temperature in 10⁻¹² °C, fuse fraction in 2⁻⁴⁸, bucket in 0.01 mJ;
junction (1/16 °C), current (250 µA); status bits; learned inrush and whether it is; E_last, I_last; restart times; reports;
timebase, the move to another at an instant (R201), the latest on edge and the instant after which the next is taken, in 10⁻⁴
oscillator periods; on-time counted below
OLTH and above 1.25 × OLTH, in 100 µs (R204); whether the junction reading itself makes ΔT sensing faulty (R195). -/
structure Sw where
  prot : BitVec 64
  wire : BitVec 32
  fuse : Fuse
  diag : BitVec 32
  pgen : Pgen
  prun : Pgen
  tb : Option (Fin 4)
  tbNext : Option (Fin 4 × Nat)
  lastOn : Int
  edgeFrom : Int
  theta : Int
  fuseF : Nat
  bucket : Nat
  tj : Int
  vp : Int
  icur : Nat
  limiting : Bool
  sensFault : Bool
  junBad : Bool
  learned : Bool
  ipk : Nat
  qin : Nat
  i100 : Nat
  elast : Nat
  ilast : Nat
  restarts : List Nat
  onSince : Nat
  offSince : Nat
  /-- the latest turn-off measured (when, its energy in 0.01 mJ: R208), and whether the present on-time has been learned (R190) -/
  pulse : Nat × Nat
  lrnDone : Bool
  olLow : Nat
  olHigh : Nat
  onOpen : Bool
  offOpen : Bool
  shortVf : Bool
  extDrive : Bool
  deriving DecidableEq, Repr

/-- A level-5 change moved by edge scheduling (R212, R213): what it changes, its opcode and request, and its due instant; of a
CH.MODE also whether the level-1 row of Table 5 of 02_channel_modes accepted it. -/
inductive MovedKind where
  | demand (d : Demand) (alarm : Bool)
  | mode (m : Mode) (wiring : Byte) (underLock : Bool)
  deriving DecidableEq, Repr

structure Moved where
  kind : MovedKind
  op : BitVec 16
  req : Req
  due : Nat
  deriving DecidableEq, Repr

/-- A mode change from t_d on (Table 6 of 02_channel_modes): the new mode and wiring, the command while its completion is
still owed, t_d by `Sys.raw`, and whether step 4 has come. -/
structure ModeChange where
  mode : Mode
  wiring : Byte
  op : BitVec 16
  req : Option Req
  start : Nat
  entered : Bool
  deriving DecidableEq, Repr

/-- The microcode RAM of a channel sequencer (R13): the version of the image whose component it was loaded with (R17), and its
words whose parity is wrong. -/
structure Ucode where
  ver : BitVec 32
  flaws : List (Fin 1024)
  deriving DecidableEq, Repr

/-- A word of the microcode RAM: what the image gave it; one whose parity is wrong holds no word that the sequencer takes. -/
def Ucode.word (u : Ucode) (k : Fin 1024) : Option (BitVec 32) :=
  if u.flaws.contains k then none else some (Config.ucodeWord u.ver k.val)

def Ucode.reset : Ucode := ⟨Config.factoryImgVer, []⟩

/-- Conditions that a rule judges by how long they have held (R78, R79, R139, R143, R144, R170, R171, R205, R206). -/
inductive Watch where
  | senseBad | senseOk | signalBad | signalOk | impBad | impOk | leakBad | leakOk
  | compBelow | compNear | rbFault | breakOn | breakOff | shortOn | shortOff
  | sinkLow | sinkHigh | supplyLimit | supplyClear
  | offLevel5 | offHigh | offLow | nearVf | driven | below5
  | excShort
  deriving DecidableEq, Repr

def Watch.all : List Watch :=
  [.senseBad, .senseOk, .signalBad, .signalOk, .impBad, .impOk, .leakBad, .leakOk, .compBelow, .compNear, .rbFault] ++
    [.breakOn, .breakOff, .shortOn, .shortOff, .sinkLow, .sinkHigh, .supplyLimit, .supplyClear] ++
    [.offLevel5, .offHigh, .offLow, .nearVf, .driven, .below5, .excShort]

/-- A Burrow map entry (Table 5 of 10_supplies_and_safe_states). -/
structure BurEntry where
  bflags : Byte
  iact : BitVec 32
  iinact : BitVec 32
  deriving DecidableEq, Repr

def BurEntry.empty : BurEntry := ⟨0, 0, 0⟩

/-- A restore of R252: none, pending (submitted, in the Badger's queue), or admitted. -/
inductive RestoreState where
  | none | pending | admitted
  deriving DecidableEq, Repr

/-- Mode and wiring of a legal channel's stored configuration, and whether its excitation was on. -/
structure LegKept where
  mode : Mode
  wiring : Byte
  exOn : Bool
  deriving DecidableEq, Repr

/-- One channel. `level` is the governing precedence level (1 to 5; 0 outside output modes), `out` the state its output takes,
`conducting` whether the switch conducts (R36, R340). -/
structure Chan where
  mode : Mode
  wiring : Byte
  owner : Option Port
  l5 : Demand
  level : Nat
  out : Demand
  conducting : Bool
  locks : Locks
  l3 : Option HostLoss
  acts : List ActHold
  safety : BitVec 64
  presag : Option Demand
  shedOff : Bool
  restore : RestoreState
  shcls : BitVec 3
  paired : Bool
  stored : Option SwSettings
  bmap : BurEntry
  moved : Option Moved
  changing : Option ModeChange
  ucode : Ucode
  reloading : Bool
  /-- the watched conditions that hold, each with the `Sys.raw` of the reading since which it has held at every reading -/
  watch : List (Watch × Nat)
  /-- kept by Burrow mode through a Mainland cold start: bank defaults follow at the release of BUR_EN (R268) -/
  burKept : Bool
  thr : Vector Thr 4
  stab : Stab
  filt : Filt
  brg : Brg
  loop : Loop
  mdm : Mdm
  din : Din
  sw : Sw
  /-- what the stored configuration of a legal channel holds while a recovery start has put it in OFF (R331, R393; log entry 43) -/
  legKept : Option LegKept
  deriving DecidableEq, Repr

/-- Mode, wiring and excitation that a legal channel's stored configuration holds. -/
def Chan.legStored (ch : Chan) : LegKept := ch.legKept.getD ⟨ch.mode, ch.wiring, ch.brg.exOn⟩

def Stage.reset : Stage := ⟨.empty, .empty, false, [], [], 0⟩

/-- The chain of a channel outside the measuring modes: banks hold nothing; MDIV 0x1000 (R84), SDECM1 0x3F (Table 6). -/
def Filt.reset : Filt :=
  ⟨.reset, .reset, .reset, .reset, 0x1000, 0x3F, 0, [], false, 0, false, false, 0, 0, none⟩

/-- Switch state at reset; the conductor and the junction start at the case temperature of reset, 25 °C (R185; log 7). -/
def Sw.reset : Sw :=
  ⟨protReset, wireReset, .reset, swDiagReset, .reset, .reset, none, none, 0, 0, 25000000000000, 0, 0, 400, 0, 0, false, false, false, false, 0, 0, 0, 0, 0,
   [], 0, 0, (0, 0), false, 0, 0, false, false, false, false⟩

/-- A channel after a cold start (R268, and the reset values of its words): OFF, unowned, de-energised, shed class 4. -/
def Chan.reset : Chan where
  mode := .off
  wiring := 0
  owner := none
  l5 := .off
  level := 0
  out := .off
  conducting := false
  locks := .none
  l3 := none
  acts := []
  safety := 0
  presag := none
  shedOff := false
  restore := .none
  shcls := 4
  paired := false
  stored := none
  bmap := .empty
  moved := none
  changing := none
  ucode := .reset
  reloading := false
  watch := []
  burKept := false
  thr := Vector.replicate 4 .reset
  stab := .reset
  filt := .reset
  brg := .reset .off
  loop := .reset .factory
  mdm := .reset .off
  din := .reset
  sw := .reset
  legKept := none

end Sys2Proof.Machine
end

