-- ==== Sys2Proof/Machine/PortState.lean ====
section
/-! DEFINITION. The plain data of a port and its mailbox: window registers, streams of commands and records, slots, replay
cache, events and stream subscriptions (spec chapters 11 and 12). -/

namespace Sys2Proof.Machine

/-- Operation states of a held slot (Table 8 of 12_mailbox_operations). -/
inductive OpState where
  | queued | fenced | deferred | executing | completed
  deriving DecidableEq, Repr

/-- An operation slot (R312): the command with its check value, when it was taken, its state, the time it spent DEFERRED,
and once completed its status and whole record. `chain` marks the operations of chain slots (R299). -/
structure Slot where
  opcode : BitVec 16
  req : Req
  check : BitVec 32
  chain : Bool
  takenAt : Nat
  order : Nat
  st : OpState
  deferAt : Option Nat
  defTicks : Nat
  status : Byte
  record : List Byte
  deriving DecidableEq, Repr

/-- A replay cache entry (R310): the triple and the stored record (whole, or the header alone), and when its slot was
taken. -/
structure Replay where
  tag : BitVec 16
  seq : BitVec 8
  check : BitVec 32
  record : List Byte
  headerOnly : Bool
  opcode : BitVec 16
  obj : BitVec 16
  takenAt : Nat
  deriving DecidableEq, Repr

/-- A record in RSPQ (R304, R305): kind (0 completion, 1 immediate, 2 event block, 3 stream block, 4 a fetched copy), bytes, the tag it
releases when AUTOREL is set. -/
structure RspRec where
  kind : BitVec 8
  bytes : List Byte
  tag : BitVec 16
  autorel : Bool
  deriving DecidableEq, Repr

/-- An event entry (Table 10 of 12_mailbox_operations). -/
structure EvEntry where
  src : Byte
  eseq : BitVec 16
  ts : Nat
  rep : Nat
  payload : List Byte
  deriving DecidableEq, Repr

/-- A stream subscription of one channel (Table 11 of 04_filter_chain) with the open block: its units, when it was opened,
the time-record bookkeeping of R108, the LOST mark of R325, whether the next sample and the next time unit are the first
after a forward step (R109), and whether a sample of it was dropped since the last delivered one (R325). -/
structure StreamSub where
  byte : Byte
  units : List (List Byte)
  openedAt : Nat
  needTime : Bool
  lastTunc : Bool
  lost : Bool
  tstepS : Bool
  tstepT : Bool
  gap : Bool
  deriving DecidableEq, Repr

def StreamSub.reset : StreamSub := ⟨0, [], 0, true, false, false, false, false, false⟩

/-- A sample's units for a port while its Holm holds the sample (R19): its own units, and the time record that stands before them where
the sample before it is dropped on its delivery (R108). -/
structure HeldUnits where
  port : Port
  before : List (List Byte)
  units : List (List Byte)
  deriving DecidableEq, Repr

/-- A rate-limited violation kind (R283, R307): domain, code, when its record last entered the Den, repeats since and the
time of the first of them. -/
structure Violation where
  domain : Byte
  code : Byte
  lastAt : Nat
  reps : Nat
  first : Nat
  last : Nat
  deriving DecidableEq, Repr

/-- One port. -/
structure PortSt where
  /-- RDY for this port (R280): start completed and the port core serving -/
  rdy : Bool
  /-- ECHO (R281) -/
  echo : Byte
  /-- FRM and OVR of the last frame judged (R280) -/
  frm : Bool
  ovr : Bool
  /-- PORTSTAT (R286): DESYNC, RSTD, LPORT -/
  desync : Bool
  rstd : Bool
  lport : Bool
  /-- FRMERR counters CRCE, SHORTE, FMTE, OVRE (R287) -/
  crce : Byte
  shorte : Byte
  fmte : Byte
  ovre : Byte
  /-- EVPEND, EVMASK (R288), IRQCFG (R289), OPWINDOW (R290), WDT (R255) -/
  evpend : BitVec 256
  evmask : BitVec 256
  irqcfg : Byte
  /-- nIRQ in pulse mode (R289): the selected condition at the last tick, the ticks that the pad stays low, and those until it
  may pulse again -/
  irqWas : Bool
  irqLow : Nat
  irqGap : Nat
  opwindow : BitVec 16
  wdt : BitVec 16
  /-- the instant the watchdog was last restarted (while RDY is clear: how long it had run, since its timer is frozen);
  expired and not restarted since (R255, R328) -/
  wdAt : Nat
  wdExpired : Bool
  /-- latches of DEVTIME and PIMAGE (R291, R292) -/
  devLatch : BitVec 64
  imgLatch : List Byte
  /-- daisy-chain mode (R295 to R299) -/
  chen : Bool
  outen : BitVec 16
  pset0 : BitVec 16
  pset1 : BitVec 16
  pset2 : BitVec 16
  pset3 : BitVec 16
  slotSeq : Byte
  lastRej : Bool
  refused : Bool
  /-- CMDQ bytes of a command not yet complete (R293) -/
  cmdBuf : List Byte
  /-- records in RSPQ, the read position in the first, and whether a read has begun it (R294) -/
  rsp : List RspRec
  rdPos : Nat
  /-- completed operations whose records wait for the response store (R315) -/
  waiting : List (BitVec 16)
  slots : List Slot
  replay : List Replay
  replayed : Nat
  /-- event queue (R323): next ESEQ, the open block, when it was opened, LOST mark -/
  eseq : BitVec 16
  evOpen : List EvEntry
  evOpenedAt : Nat
  evLost : Bool
  dropEvAt : Option Nat
  subs : Vector StreamSub 16
  viol : List Violation
  /-- bytes the device sent on SDO in the last transfer -/
  sdo : List Byte
  deriving DecidableEq, Repr

/-- A completed operation on its way to the response store (R305): fixed status, payload and time. -/
structure Completion where
  req : Req
  opcode : BitVec 16
  chain : Bool
  status : Byte
  payload : List Byte
  tdone : Nat
  deriving DecidableEq, Repr

/-- EVMASK after a cold start (R454). -/
def evmaskReset (p : Port) : BitVec 256 :=
  let run (lo n : Nat) : BitVec 256 := BitVec.ofNat 256 ((2 ^ n - 1) * 2 ^ lo)
  run 0 128 ||| run 128 9 ||| run 144 9 ||| run (160 + 8 * p.val) 8 ||| run 184 4 ||| run 192 15 ||| run 224 11 |||
    run 240 16

/-- Sources that exist; a bit of a reserved source reads 0 (R455). -/
def evExists : BitVec 256 :=
  let run (lo n : Nat) : BitVec 256 := BitVec.ofNat 256 ((2 ^ n - 1) * 2 ^ lo)
  run 0 128 ||| run 128 9 ||| run 144 9 ||| run 160 28 ||| run 192 15 ||| run 224 11 ||| run 240 16

def PortSt.reset (p : Port) : PortSt where
  rdy := true
  echo := 0x0F
  frm := false
  ovr := false
  desync := false
  rstd := true
  lport := false
  crce := 0
  shorte := 0
  fmte := 0
  ovre := 0
  evpend := 0
  evmask := evmaskReset p
  irqcfg := 0
  irqWas := false
  irqLow := 0
  irqGap := 0
  opwindow := 160
  wdt := 0
  wdAt := 0
  wdExpired := false
  devLatch := 0
  imgLatch := List.replicate 32 0
  chen := false
  outen := 0
  pset0 := 0x8000
  pset1 := 0x8000
  pset2 := 0x8000
  pset3 := 0x8000
  slotSeq := 0
  lastRej := false
  refused := false
  cmdBuf := []
  rsp := []
  rdPos := 0
  waiting := []
  slots := []
  replay := []
  replayed := 0
  eseq := 0
  evOpen := []
  evOpenedAt := 0
  evLost := false
  dropEvAt := none
  subs := Vector.replicate 16 .reset
  viol := []
  sdo := []

end Sys2Proof.Machine
end

