-- ==== Sys2Proof/Machine/State.lean ====
section
/-! DEFINITION. The whole state of the HY1624: sixteen channels, two Holms, three ports, the Badger, the Den, the check-value
units, update and security, legal partition, time and pins; its reset; and the reasons a step could stop. -/

namespace Sys2Proof.Machine

/-- Reasons a step could end in a fault. No rule of the spec makes a command of this block stop the machine: nothing raises
one (safe). -/
inductive Fault where
  | none_
  deriving DecidableEq, Repr

/-- Reasons a command could be refused. -/
inductive Refusal where
  /-- raised by exec's arm of a command that has no meaning yet; safe: nothing is claimed of it -/
  | notModelled (mnemonic : String)
  deriving DecidableEq, Repr

/-- An event that waits in the Holm while its link is lost (R245, R452): source, payload, time, the severity of its Den
record when it writes one, and that record's OBJECT. -/
structure Notice where
  src : Byte
  payload : List Byte
  ts : Nat
  den : Option Nat
  obj : BitVec 16
  deriving DecidableEq, Repr

/-- A command that completes after a plan's instant (R72, R82): its opcode and request, and no earlier than a time. -/
structure PlanWait where
  op : BitVec 16
  req : Req
  notBefore : Nat
  deriving DecidableEq, Repr

/-- A carrier plan that takes effect at its grid instant (R72): the rates by bank position, the instant, and the commands
that wait for it. -/
structure PlanPend where
  rates : List (Option (Fin 5))
  due : Nat
  waiters : List PlanWait
  deriving DecidableEq, Repr

/-- A pulse timebase (R199): its period in oscillator periods, its first period start in 10⁻⁴ oscillator periods of device time,
and a period that it takes, with the end of its present one. -/
structure Timebase where
  period : BitVec 32
  start : Int
  next : Option (BitVec 32 × Nat)
  deriving DecidableEq, Repr

/-- A Holm: supply states, link, housekeeping readings, time, carrier plan, Burrow pins, journal, buffers (chapters 01, 03,
08, 10). Voltages in mV; temperatures in 1/16 °C. -/
structure Holm where
  owner : Option Port
  /-- out of lockout, logic running (R248, R267); reversed supply (R249) -/
  up : Bool
  reversed : Bool
  /-- link established (R29, R30) as Mainland counts it, by the lane from the Holm; whether the Holm hears nothing on the lane to it;
  when the link was lost, whether the Holm restarted since its link was last up -/
  link : Bool
  deaf : Bool
  lostAt : Nat
  restarted : Bool
  /-- supply states (R244, R250) -/
  warn : Bool
  shed : Bool
  uv : Bool
  surge : Bool
  gnd : Bool
  /-- shed steps: lowest class shed (none yet: 8), when the last step was made (R235) -/
  shedLow : Nat
  shedAt : Nat
  /-- a shed state that has ended and whose event the Badger has still to raise (R236): VF at its end in 10 mV, lowest class shed -/
  shedOver : Option (Nat × Nat)
  /-- readings of the housekeeping ADC -/
  vf : Int
  vx : Int
  case : Int
  vxLow : Bool
  caseFault : Bool
  /-- the case reading makes ΔT sensing faulty (R195); since when every switch of the bank has been off, by `Sys.raw` -/
  caseBad : Bool
  allOff : Option Nat
  /-- the four internal rails in mV, the zero and reference conversions, the ISNS pad in mV, and the rotation (R16) -/
  rails : Vector Int 4
  adcZero : Int
  adcRef : Int
  isnsPad : Int
  railNext : Bool
  junNext : Fin 8
  /-- a grid instant and its device time (R63); PLANSEQ and TEFF (R73); pending plan (R72) -/
  gridN : Nat
  grid0 : Int
  planSeq : BitVec 16
  teff : Nat
  pend : Option PlanPend
  /-- HOLD_T (R257) and the map's delivery (R265) -/
  holdT : BitVec 16
  mapHere : Bool
  burEn : Bool
  burIn : Vector Bool 4
  sel : Fin 8
  strap : Strap
  /-- slave time (R23 to R25): value, rate (ticks more per 1000) and link delay in ns of the last correction, beacons since the link, time-uncertain, no beacon since the restart, measured oscillator -/
  slave : Nat
  rate : Int
  delayNs : Nat
  beacons : Nat
  lastBeacon : Nat
  tunc : Bool
  noBeacon : Bool
  osc : Nat
  tbs : Vector (Option Timebase) 4
  /-- journal of executed link operation numbers with their results (R30), newest first -/
  linkOp : BitVec 16
  journal : List (BitVec 16 × Byte)
  held : List Completion
  notices : List Notice
  dropped : Nat
  /-- actions waiting for targets of this Holm, for the relay, and undelivered ones (R33, R127) -/
  bus : List ActMsg
  relay : List ActMsg
  lost : List ActMsg
  /-- samples held while the link is lost or the service core recovers: the channel and, by port, the stream units (R19) -/
  buf : List (Ch × List HeldUnits)
  reloadDp : Bool
  /-- instants at which output transitions of the bank started (R110), newest first, each with the number of the grid instant on
  which it lay, if on one -/
  edges : List (Nat × Option Nat)
  deriving DecidableEq, Repr

/-- What a priced operation waiting at the head of its queue will do (Table 3 of 09_badger). -/
inductive PricedKind where
  | turnOn (c : Ch)
  | excite (c : Ch) (word : BitVec 32) (clrx : Option (BitVec 64))
  | mode (c : Ch) (m : Mode) (wiring : Byte)
  | loopSet (c : Ch) (nA : Nat) (alarm : Bool)
  | input (c : Ch) (word : BitVec 32)
  | rate (c : Ch) (word : BitVec 32)
  | mramTrim (c : Ch) (m4 : Nat) (m20 : Nat) (factory : Bool)
  | mramBdg
  | mramChunk
  | updBegin
  | updActivate
  | updConfirm
  | mramField (b : Bank)
  | mramMap (b : Bank)
  | restore (c : Ch) (d : Demand)
  deriving DecidableEq, Repr

/-- An operation at the head of its object queue that the Badger evaluates (R226): its kind, request (none for an internal
restore), priority, acceptance order and time, ledger on which it last failed (R472), whether its deferral is counted. -/
structure Head where
  kind : PricedKind
  opcode : BitVec 16
  req : Option Req
  prio : BitVec 2
  at_ : Nat
  deadline : Option Nat
  lastLedger : Byte
  deferred : Bool
  deferAt : Nat
  m : ClampMeas
  deriving DecidableEq, Repr

/-- An admitted operation whose draw the counters do not show yet (R223, R225): its command and channel, and by 10 ms step
its field supply (µA), excitation (µA), package heat (µW) and, for a turn-on, the heat of each member's switch (µW); bytes of MRAM. -/
structure Profile where
  opcode : BitVec 16
  ch : Ch
  bank : Bank
  fs : List Nat
  ix : List Nat
  pk : List Nat
  power : List (Ch × List Nat)
  mram : Nat
  deriving DecidableEq, Repr

/-- The ledger counters of one Holm (R218): sums over the housekeeping frames since the last reading of field supply (µA) and
excitation (µA), by bank position of the heat of each switch and of each driver (µW), with the number of frames, and the means of
the last 10 ms. -/
structure Meter where
  accF : Nat
  accX : Nat
  accSw : Vector Nat 8
  accDrv : Vector Nat 8
  frames : Nat
  f : Nat
  x : Nat
  heat : Nat
  deriving DecidableEq, Repr

/-- The Badger (chapter 09): owner, budgets (Table 2), waiting heads, banks whose turn-on of R227 the present step has
used and when the latest 10 ms tick was and the ceiling was last recomputed (R220), admitted profiles, counters, the report of the latest evaluation (R240), ceiling, threshold events raised (R241),
ledgers found above budget and since when, none once EV205 has been raised (R242), hold-up reserve (R237 to R239). -/
structure Badger where
  owner : Option Port
  ifmax : Vector Nat 2
  ixmax : Vector Nat 2
  pceil : Nat
  dtguard : Nat
  eres : Nat
  tambx : Nat
  heads : List Head
  stagger : List Bank
  tickAt : Nat
  ceilAt : Nat
  admitted : List Profile
  meters : Vector Meter 2
  report : List Byte
  ceiling : Nat
  warned : List (Fin 5)
  excess : List (Byte × Byte × Option Nat)
  capUf : Nat
  vholdMv : Nat
  ev202 : Bool
  ev203 : Bool
  deriving DecidableEq, Repr

/-- A Den record (R359 to R362): trailer fields REP, NDROP, TLAST when it carries one. -/
structure DenRec where
  typ : BitVec 16
  sev : Nat
  legReg : Bool
  ovfl : Bool
  winv : Bool
  seq : Nat
  uptime : Nat
  wall : Nat
  boot : BitVec 32
  payload : List Byte
  trailer : Option (Nat × Nat × Nat)
  deriving DecidableEq, Repr

/-- A legal record as it is asked for: its type, severity, content after the prefix, and port (R364). -/
structure LegalRec where
  typ : BitVec 16
  sev : Nat
  content : List Byte
  port : Option Port
  deriving DecidableEq, Repr

/-- A snapshot of a port (R375). -/
structure Snap where
  head : Nat
  slots : List Nat
  legalWrites : Nat
  nonce : Option (List Byte)
  deriving DecidableEq, Repr

/-- The Den (chapter 14): buffer in SEQ order, ring (slot, record), legal region (offset, record), counters, snapshots. -/
structure Den where
  buf : List DenRec
  ring : List (Nat × DenRec)
  legal : List (Nat × DenRec)
  legUsed : Nat
  legWrites : Nat
  seq : Nat
  hwm : Nat
  boot : BitVec 32
  lec : BitVec 32
  head : Nat
  ringClear : Nat
  ndrop : Nat
  ndropTotal : Nat
  dropAt : Option Nat
  lastFlush : Nat
  leg90 : Bool
  snaps : Vector (Option Snap) 3
  lostInBuf : Nat
  /-- ring slots whose content fails its check value, and torn bytes at the end of the legal region, that the next cold start
  finds (R367, R369) -/
  torn : List Nat
  legTorn : Nat
  /-- the legal record last written to MRAM, from which the chain goes on (R364) -/
  lastLeg : DenRec
  /-- SEAL and LEGREV records that the buffer cannot take while C7 is down (R365, R366), oldest first -/
  legWait : List LegalRec
  /-- objects whose change to the legal configuration is recorded and has still to take effect (R333), oldest first -/
  legDue : List (BitVec 16)
  deriving DecidableEq, Repr

/-- A check-value unit (chapter 13): configuration, running register, count, sequence counter, open run, slots, mismatches. -/
structure CrcCtx where
  cfg : BitVec 32
  poly : BitVec 32
  init : BitVec 32
  xorout : BitVec 32
  reg : BitVec 32
  count : BitVec 32
  seq : BitVec 16
  open_ : Bool
  deriving DecidableEq, Repr

structure CrcUnit where
  owner : Option Port
  ctx : CrcCtx
  slots : Vector (Option CrcCtx) 4
  mism : BitVec 16
  bound : Bool
  deriving DecidableEq, Repr

/-- Slot states (Table 8 of 15_start_update_security, codes 0x00 to 0x07). -/
inductive ImgState where
  | empty | downloading | downloaded | verified | active | trial | fallback | invalid
  deriving DecidableEq, Repr

/-- What a verified or running image declares (R396, R398). -/
structure ImgInfo where
  ver : BitVec 32
  arb : BitVec 32
  legver : BitVec 16
  legdig : List Byte
  mdig : List Byte
  deriving DecidableEq, Repr

/-- The content of a boot record (R404): sequence number, active slot, trial flag, TWIN, TBOOT, RTC count at the flip, starts made
in trial. -/
structure BootRec where
  seq : Nat
  active : Fin 2
  trial : Bool
  twin : Nat
  tboot : Nat
  flipRtc : Nat
  starts : Nat
  deriving DecidableEq, Repr

/-- What a change of the boot record is for (R403 to R406): an activation with LCHG, a confirmation, a revert, or one more start made in
trial. -/
inductive BootWhat where
  | activate (r : Req) (twin tboot : Nat) (lchg : Bool)
  | confirm (r : Req)
  | revert (why : RevertReason)
  | count
  deriving DecidableEq, Repr

/-- A change of the boot record under way (R404): its stage (0 before the journal, 1 the journal is being written, 2 it is valid,
3 copy 1 is written, 4 copy 2 too), the new record, what it is for. -/
structure BootWork where
  stage : Nat
  new : BootRec
  what : BootWhat
  deriving DecidableEq, Repr

/-- Update state (R399 to R409): slots, session, trial, failed starts, rollback floor. -/
structure Upd where
  active : Fin 2
  st : Vector ImgState 2
  info : Vector (Option ImgInfo) 2
  sessionLen : Nat
  sessionPort : Option Port
  chunks : List Nat
  twin : Nat
  tboot : Nat
  trialStarts : Nat
  flipRtc : Nat
  trialLegal : Bool
  warned60 : Bool
  pendingLegact : Option (List Byte)
  oldLeg : List Byte
  fails : List (Nat × Byte × Byte)
  floor : BitVec 32
  bootSeq : Nat
  /-- the two copies of the boot record and its journal, each with whether its check value is good, and a change under way (R404) -/
  copies : Vector (BootRec × Bool) 2
  journal : Option (BootRec × Bool)
  work : Option BootWork
  /-- the slot whose image runs, and MDIG as the last successful cold start stored it (R398) -/
  run : Fin 2
  mdig : List Byte
  /-- failed starts since the last one that succeeded; a start has raised RDY since the last failure; the last cold start began out
  of a recovery start (R392, R394) -/
  failRun : Nat
  served : Bool
  afterRec : Bool
  deriving DecidableEq, Repr

/-- Security state (R411 to R414). -/
structure Sec where
  ownerKey : Option (List Byte)
  nonces : Vector (Option (List Byte)) 3
  deriving DecidableEq, Repr

/-- The legal partition (R331 to R335): port, mask, seal, latest SEAL record's state. -/
structure Legal where
  port : Option Port
  mask : BitVec 16
  sealed : Bool
  sealRec : Bool
  deriving DecidableEq, Repr

/-- Which start last took place (R338). -/
inductive StartKind where
  | cold | warm | recovery
  deriving DecidableEq, Repr

/-- A start that a command or event has scheduled (R338, R385, R403): kind, when, cause code. -/
structure StartDue where
  kind : StartKind
  at_ : Nat
  cause : BitVec 8
  deriving DecidableEq, Repr

/-- An engine that counts as failed (R18): its cause (1 heartbeat, 3 double-bit error) and when. -/
structure FailedEngine where
  engine : Engine
  cause : Byte
  at_ : Nat
  deriving DecidableEq, Repr

/-- The internal operations (R314): the restore of a channel, the load of an engine, the transfer of a Holm's link journal (and whether
the Holm had restarted), a shed step of a bank. -/
inductive IntOp where
  | restore (c : Ch)
  | load (e : Engine)
  | journal (b : Bank) (gone : Bool)
  | shed (b : Bank)
  deriving DecidableEq, Repr

/-- System-wide state: order code, time, TSYNC, wall time, clock, starts, engines, common fault bit, supplies, PIMAGE copy. -/
structure Sys where
  order : BitVec 2
  now : Nat
  /-- ticks of 100 ns that have passed, with and without VDD and before any correction by TSYNC (R22, R26, R256) -/
  raw : Nat
  slew : Int
  tsyncMode : Fin 3
  tsyncTarget : BitVec 64
  tsyncCapture : BitVec 64
  tsyncLast : Option Nat
  tstepHolms : List Bank
  /-- wall time at an instant of device time, validity, VBAT, stopped since the last set (R380, R381) -/
  wallBase : Nat
  wallAt : Nat
  wallValid : Bool
  vbat : Bool
  rtcStopped : Bool
  rtcRuns : Bool
  /-- no start has yet found what the real-time clock did while VDD was absent (R380, R386) -/
  clockOpen : Bool
  intOsc : Bool
  start : StartKind
  startAt : Nat
  startDue : List StartDue
  lastCause : BitVec 8
  /-- events of a failed start or a revert, raised once the ports serve again -/
  afterStart : List (Nat × List Byte)
  failedEngines : List FailedEngine
  recoveries : List (Engine × Nat)
  sramFixed : Nat
  /-- ranges of MRAM (first offset, one past the last) whose cells fail the read-back of a write (R365, R401; log entry 96) -/
  mramBad : List (Nat × Nat)
  vddOk : Bool
  vio : Bool
  /-- common fault bit asserted (nFAULT low) and since when (R177) -/
  nfault : Bool
  nfaultAt : Nat
  /-- nRESET is asserted; RDY has been set since power-up (R177) -/
  nresetLow : Bool
  rdyOnce : Bool
  snapSeq : BitVec 32
  snapTs : Vector Nat 2
  image : List Byte
  /-- counters from which free values are drawn (the model's own, not the spec's; log entry 10) -/
  freeCtr : Nat
  /-- commands accepted so far: the order of R316 and R34; internal operations in the order in which they arise, of which the first
  32 hold the internal slots (R314) -/
  accepted : Nat
  internal : List IntOp
  deriving DecidableEq, Repr

/-- The state of the block: everything the spec gives it, and the queue of waiting commands. -/
structure State where
  sys : Sys
  chans : Vector Chan 16
  holms : Vector Holm 2
  ports : Vector PortSt 3
  completions : List Completion
  badger : Badger
  den : Den
  crc : Vector CrcUnit 4
  upd : Upd
  sec : Sec
  legal : Legal
  mram : List Host.Cell
  pending : List Instr
  deriving DecidableEq, Repr

def Holm.reset : Holm where
  owner := none
  up := true
  reversed := false
  link := true
  deaf := false
  lostAt := 0
  restarted := false
  warn := false
  shed := false
  uv := false
  surge := false
  gnd := false
  shedLow := 8
  shedAt := 0
  shedOver := none
  vf := 24000
  vx := 0
  case := 400
  vxLow := false
  caseFault := false
  caseBad := false
  allOff := some 0
  rails := Vector.replicate 4 0
  adcZero := 0
  adcRef := 65536
  isnsPad := 0
  railNext := false
  junNext := 0
  gridN := 0
  grid0 := 0
  planSeq := 0
  teff := 0
  pend := none
  holdT := 0x0064
  mapHere := true
  burEn := false
  burIn := Vector.replicate 4 false
  sel := 0
  strap := .open_
  slave := 0
  rate := 0
  delayNs := 0
  beacons := 20
  lastBeacon := 0
  tunc := false
  noBeacon := false
  osc := 24576000000
  tbs := Vector.replicate 4 none
  linkOp := 0
  journal := []
  held := []
  notices := []
  dropped := 0
  bus := []
  relay := []
  lost := []
  buf := []
  reloadDp := false
  edges := []

def Meter.reset : Meter := ⟨0, 0, Vector.replicate 8 0, Vector.replicate 8 0, 0, 22500, 0, 0⟩

/-- BDG.QUERY's answer before the first evaluation: the ledgers of a module with every channel in OFF (R219, R240):
420 mW + 2 × (380 + 8 × 2) mW = 1212 mW, 22.5 mA per Holm, E_res 846 µJ, E0 50 µJ, DTMIN at its largest. -/
def reportReset : List Byte :=
  [0xAC, 0x0D, 0xBC, 0x04, 0xBC, 0x04, 0xBC, 0x04, 0x17, 0, 0x17, 0, 0x17, 0, 0x17, 0, 0, 0, 0, 0, 0x4E, 0x03, 0x32, 0,
   0, 0, 0, 0, 0xFF, 0x7F, 0, 0, 0, 0, 0, 0, 0, 0, 0, 0]

def Badger.reset : Badger where
  owner := none
  ifmax := #v[4000, 4000]
  ixmax := #v[250, 250]
  pceil := 3500
  dtguard := 5
  eres := 10
  tambx := 0
  heads := []
  stagger := []
  tickAt := 0
  ceilAt := 0
  admitted := []
  meters := Vector.replicate 2 .reset
  report := reportReset
  ceiling := 3500
  warned := []
  excess := []
  capUf := 470
  vholdMv := 3300
  ev202 := false
  ev203 := false

/-- The GENESIS record written once at manufacture at offset 0 of the legal region (Table 4 of 14_den_recorder): a prefix
of zeros with no port, then the digest of the identity key. -/
def genesisRec : DenRec :=
  { typ := 0x0005, sev := 2, legReg := true, ovfl := false, winv := true, seq := 0, uptime := 0, wall := 0, boot := 0,
    payload := List.replicate 36 0 ++ [0xFF, 0, 0, 0] ++ identityDigest, trailer := none }

/-- The START record of the first cold start (kind 0, cause 0, nothing torn, lost or skipped). -/
def firstStartRec : DenRec :=
  { typ := 0x0002, sev := 2, legReg := false, ovfl := false, winv := true, seq := 1, uptime := 0, wall := 0, boot := 1,
    payload := List.replicate 24 0, trailer := none }

def Den.reset : Den where
  buf := []
  ring := [(0, firstStartRec)]
  legal := [(0, genesisRec)]
  legUsed := 140
  legWrites := 1
  seq := 2
  hwm := 4096
  boot := 1
  lec := 0
  head := 1
  ringClear := 0
  ndrop := 0
  ndropTotal := 0
  dropAt := none
  lastFlush := 0
  leg90 := false
  snaps := Vector.replicate 3 none
  lostInBuf := 0
  torn := []
  legTorn := 0
  lastLeg := genesisRec
  legWait := []
  legDue := []

/-- Reset context of a unit: PRESET 0x1, CRC-32C (Table 2 of 13_check_value_units), running value INIT. -/
def CrcCtx.reset : CrcCtx :=
  { cfg := 0x01000000, poly := 0, init := 0, xorout := 0, reg := 0xFFFFFFFF, count := 0, seq := 0, open_ := false }

def CrcUnit.reset : CrcUnit :=
  { owner := none, ctx := .reset, slots := Vector.replicate 4 none, mism := 0, bound := false }

def factoryInfo : ImgInfo :=
  { ver := Config.factoryImgVer, arb := Config.factoryArb, legver := Config.factoryLegVer,
    legdig := (List.range 64).map Config.factoryLegDigByte, mdig := (List.range 64).map Config.factoryMdigByte }

def Upd.reset : Upd where
  active := 0
  st := #v[.active, .empty]
  info := #v[some factoryInfo, none]
  sessionLen := 0
  sessionPort := none
  chunks := []
  twin := 0
  tboot := 0
  trialStarts := 0
  flipRtc := 0
  trialLegal := false
  warned60 := false
  pendingLegact := none
  oldLeg := []
  fails := []
  floor := 0
  bootSeq := 0
  copies := Vector.replicate 2 (⟨0, 0, false, 0, 0, 0, 0⟩, true)
  journal := none
  work := none
  run := 0
  mdig := factoryInfo.mdig
  failRun := 0
  served := true
  afterRec := false

def Sec.reset : Sec := { ownerKey := none, nonces := Vector.replicate 3 none }

def Legal.reset : Legal := { port := none, mask := 0, sealed := false, sealRec := false }

def Sys.reset : Sys where
  order := 0
  now := 0
  raw := 0
  slew := 0
  tsyncMode := 0
  tsyncTarget := 0
  tsyncCapture := 0
  tsyncLast := none
  tstepHolms := []
  wallBase := 0
  wallAt := 0
  wallValid := false
  vbat := false
  rtcStopped := false
  rtcRuns := true
  clockOpen := false
  intOsc := false
  start := .cold
  startAt := 0
  startDue := []
  lastCause := 0
  afterStart := []
  failedEngines := []
  recoveries := []
  sramFixed := 0
  mramBad := []
  vddOk := true
  vio := true
  nfault := false
  nfaultAt := 0
  nresetLow := false
  rdyOnce := true
  snapSeq := 0
  snapTs := #v[0, 0]
  image := List.replicate 32 0
  freeCtr := 0
  accepted := 0
  internal := []

/-- The machine right after a cold start of a factory-fresh HY1624-LA (R386): RDY set, both links established, straps open,
24 V field supplies, no excitation supply, everything else at its reset value. -/
def State.reset : State where
  sys := .reset
  chans := Vector.replicate 16 .reset
  holms := Vector.replicate 2 .reset
  ports := #v[.reset 0, .reset 1, .reset 2]
  completions := []
  badger := .reset
  den := .reset
  crc := Vector.replicate 4 .reset
  upd := .reset
  sec := .reset
  legal := .reset
  mram := []
  pending := []

end Sys2Proof.Machine
end

