-- ==== Sys2Proof/Machine/Operands.lean ====
section
/-! DEFINITION. Operand forms: little-endian fields of payloads and registers (R6), bit fields, reserved bits (R8), object
numbers (R458). -/

namespace Sys2Proof.Machine

/-- A value saturating at an n-bit unsigned maximum. -/
def satN (v bits : Nat) : Nat := min v (2 ^ bits - 1)

/-- n bytes of a signed value in two's complement, saturating. -/
def leSigned (v : Int) (n : Nat) : List Byte :=
  let hi : Int := 2 ^ (8 * n - 1) - 1
  let w : Int := max (-hi - 1) (min hi v)
  leBytes (w % (2 ^ (8 * n) : Int)).toNat n

def word16 (l : List Byte) (i : Nat) : BitVec 16 := BitVec.ofNat 16 (leAt l i 2)
def word32 (l : List Byte) (i : Nat) : BitVec 32 := BitVec.ofNat 32 (leAt l i 4)
def word64 (l : List Byte) (i : Nat) : BitVec 64 := BitVec.ofNat 64 (leAt l i 8)

/-- Field name[msb:lsb] of a word, as a number. -/
def fld {n : Nat} (w : BitVec n) (msb lsb : Nat) : Nat := (w.toNat / 2 ^ lsb) % 2 ^ (msb + 1 - lsb)

/-- Bit i of a word. -/
def bit {n : Nat} (w : BitVec n) (i : Nat) : Bool := w.getLsbD i

/-- Every bit named in a mask of reserved bits is 0 (R8). -/
def rsvZero {n : Nat} (w mask : BitVec n) : Bool := w &&& mask == 0

/-- Every byte from position i, n of them, is 0 (R8). -/
def zeroBytes (l : List Byte) (i n : Nat) : Bool := ((l.drop i).take n).all (· == 0)

/-- 0/1 of a Bool. -/
def b2n (b : Bool) : Nat := if b then 1 else 0

/-- A byte assembled from bits, bit 0 first. -/
def bitsByte (l : List Bool) : Byte :=
  BitVec.ofNat 8 (l.foldr (fun b acc => b2n b + 2 * acc) 0)

/-- A 16-bit image with bit n for CHn. -/
def image16 (f : Ch → Bool) : Nat := allCh.foldr (fun c acc => b2n (f c) * 2 ^ c.val + acc) 0

/-- A word's two's-complement value. -/
def sval {n : Nat} (w : BitVec n) : Int := w.toInt

/-- The channel that an object number names (R458: 0x0000 to 0x000F). -/
def chOf (o : BitVec 16) : Option Ch := if h : o.toNat < 16 then some ⟨o.toNat, h⟩ else none

/-- The Holm that an object number names (R458: 0x0100, 0x0101). -/
def holmOf (o : BitVec 16) : Option Bank :=
  if o = 0x0100 then some 0 else if o = 0x0101 then some 1 else none

/-- The check-value unit that an object number names (R458: 0x0400 to 0x0403). -/
def unitOf (o : BitVec 16) : Option (Fin 4) :=
  if o = 0x0400 then some 0 else if o = 0x0401 then some 1 else if o = 0x0402 then some 2
  else if o = 0x0403 then some 3 else none

/-- The port that an object number names (R458: 0x0800 to 0x0802). -/
def portOf (o : BitVec 16) : Option Port :=
  if o = 0x0800 then some 0 else if o = 0x0801 then some 1 else if o = 0x0802 then some 2 else none

/-- The object number of a channel and of a port. -/
def chObj (c : Ch) : BitVec 16 := BitVec.ofNat 16 c.val
def portObj (p : Port) : BitVec 16 := BitVec.ofNat 16 (0x0800 + p.val)

/-- An owner byte: the port number or 0xFF (R330, R340). -/
def ownerByte (o : Option Port) : Byte :=
  match o with
  | some p => BitVec.ofNat 8 p.val
  | none => 0xFF

/-- Mode codes (Table 2 of 02_channel_modes). -/
def Mode.code : Mode → Nat
  | .off => 0 | .di => 1 | .cnt => 2 | .dout => 3 | .dop => 4 | .brg => 5 | .res => 6 | .aii => 7 | .aip => 8
  | .aoi => 9 | .aot => 10

/-- The mode of a code; none for the reserved codes 0x0B to 0xFF (R43). -/
def modeOf (n : Nat) : Option Mode :=
  match n with
  | 0 => some .off | 1 => some .di | 2 => some .cnt | 3 => some .dout | 4 => some .dop | 5 => some .brg
  | 6 => some .res | 7 => some .aii | 8 => some .aip | 9 => some .aoi | 10 => some .aot | _ => none

/-- Output modes (Table 2). -/
def Mode.isOutput : Mode → Bool
  | .dout | .dop | .aoi | .aot => true
  | _ => false

/-- Switch modes. -/
def Mode.isSwitch : Mode → Bool
  | .dout | .dop => true
  | _ => false

/-- Loop output modes. -/
def Mode.isLoopOut : Mode → Bool
  | .aoi | .aot => true
  | _ => false

/-- Loop modes. -/
def Mode.isLoop : Mode → Bool
  | .aii | .aip | .aoi | .aot => true
  | _ => false

/-- Modes that use the filter datapath (Table 2). -/
def Mode.usesFilter : Mode → Bool
  | .brg | .res | .aii | .aip => true
  | _ => false

/-- Digital input modes. -/
def Mode.isDigital : Mode → Bool
  | .di | .cnt => true
  | _ => false

/-- Modes that may be declared legal (R459). -/
def Mode.mayBeLegal : Mode → Bool
  | .brg | .res | .aii | .aip | .di | .cnt => true
  | _ => false

/-- The status codes (Table 13 of 12_mailbox_operations). -/
def stOK : Byte := 0x00
def stDEFERRED : Byte := 0x01
def stALREADY_DONE : Byte := 0x02
def stREPLAYED : Byte := 0x03
def stE_CRC : Byte := 0x10
def stE_FORMAT : Byte := 0x11
def stE_TAG_CONFLICT : Byte := 0x12
def stE_FULL : Byte := 0x13
def stE_OWNER : Byte := 0x20
def stE_LEGAL : Byte := 0x21
def stE_AUTH : Byte := 0x22
def stE_RANGE : Byte := 0x30
def stE_STATE : Byte := 0x31
def stE_MODE : Byte := 0x32
def stE_BUDGET : Byte := 0x40
def stE_THERMAL : Byte := 0x41
def stE_ABORTED : Byte := 0x50
def stE_TIMEOUT : Byte := 0x51
def stE_DEN_FULL : Byte := 0x60
def stE_IMAGE : Byte := 0x70
def stE_INTERNAL : Byte := 0x7F

/-- The first failing check of an ordered list gives the status (R49, R180, R465, R469 and their like). -/
def firstFail : List (Bool × Byte) → Option Byte
  | [] => none
  | (ok, st) :: rest => if ok then firstFail rest else some st

end Sys2Proof.Machine
end

