-- ==== Sys2Proof/Machine/Flags.lean ====
section
/-! DEFINITION. Check values and the byte of status flags: CRCs of chapters 04, 11, 12 and 13, the status byte of R280 and
ECHO of R281. -/

namespace Sys2Proof.Machine

/-- One bit step of an unreflected CRC register of a width, polynomial without its top bit. -/
def crcBit (width poly reg : Nat) : Nat :=
  if reg / 2 ^ (width - 1) % 2 = 1 then Nat.xor (reg * 2 % 2 ^ width) poly else reg * 2 % 2 ^ width

/-- n bit steps. -/
def crcBits (width poly : Nat) : Nat → Nat → Nat
  | 0, reg => reg
  | n + 1, reg => crcBits width poly n (crcBit width poly reg)

/-- The n low bits of v in reverse order. -/
def reflect : Nat → Nat → Nat
  | 0, _ => 0
  | n + 1, v => (v % 2) * 2 ^ n + reflect n (v / 2)

/-- Feeds one byte into the register, most significant bit first, or least significant first with `refin` (R343). -/
def crcByte (width poly : Nat) (refin : Bool) (reg : Nat) (b : Byte) : Nat :=
  let v := if refin then reflect 8 b.toNat else b.toNat
  crcBits width poly 8 (Nat.xor reg (v * 2 ^ (width - 8)))

/-- Feeds a byte stream. -/
def crcFeed (width poly : Nat) (refin : Bool) (reg : Nat) (l : List Byte) : Nat :=
  l.foldl (crcByte width poly refin) reg

/-- The final value: reflection before the final XOR (R343). -/
def crcFinal (width : Nat) (refout : Bool) (xorout reg : Nat) : Nat :=
  Nat.xor (if refout then reflect width reg else reg) xorout

/-- CRC-32C (R303, preset 0x1 of R342). -/
def crc32c (l : List Byte) : Nat := crcFinal 32 true 0xFFFFFFFF (crcFeed 32 0x1EDC6F41 true 0xFFFFFFFF l)

/-- CRC-16/IBM-3740 (R275, preset 0x3). -/
def crc16 (l : List Byte) : Nat := crcFinal 16 false 0 (crcFeed 16 0x1021 false 0xFFFF l)

/-- CRC-8 of polynomial 0x2F from an initial value (R111: 0xFF XOR channel; R298: 0xFF). -/
def crc8 (init : Nat) (l : List Byte) : Nat := crcFeed 8 0x2F false init l

/-- The host's check value of a frame: fold-in byte (port × 16) + FSEQ, then the bytes (R275). -/
def hostCrc (p : Port) (fseq : Nat) (l : List Byte) : Nat := crc16 (BitVec.ofNat 8 (p.val * 16 + fseq) :: l)

/-- The device's check value of a frame: fold-in byte 0x80 + (port × 16) + FSEQ (R275). -/
def devCrc (p : Port) (fseq : Nat) (l : List Byte) : Nat := crc16 (BitVec.ofNat 8 (0x80 + p.val * 16 + fseq) :: l)

/-- The 8-byte fold-in block of a command or record (Table 3 of 12_mailbox_operations). -/
def foldIn (p : Port) (dir : Nat) (tag : BitVec 16) (seq : Byte) (obj : BitVec 16) : List Byte :=
  [BitVec.ofNat 8 p.val, BitVec.ofNat 8 dir] ++ le16 tag.toNat ++ [seq, 0] ++ le16 obj.toNat

/-- FULL: OPCOUNT ≥ OPWINDOW (R280, R290, R312). -/
def PortSt.opcount (q : PortSt) : Nat := q.slots.length
def PortSt.full (q : PortSt) : Bool := q.opwindow.toNat ≤ q.opcount

/-- RSP: RSPQ holds at least one byte not yet read (R280). -/
def PortSt.rspPending (q : PortSt) : Bool :=
  match q.rsp with
  | [] => false
  | r :: rest => q.rdPos < r.bytes.length || !rest.isEmpty

/-- The seal is closed and visible: LGL, always 0 on the HY1624-PA (R3, R280). -/
def State.lglBit (s : State) : Bool := s.legal.sealed && s.sys.order != 2

/-- SAF: any channel of either Holm has level 2 or level 3 active (R261). Level 2 is active on mapped outputs of a bank
whose BUR_EN is asserted (R262, R263). -/
def State.burrowOn (s : State) (c : Ch) : Bool :=
  let h := s.holms[bankOf c]
  h.up && h.burEn && h.mapHere && (s.chans[c]).mode.isOutput &&
    bit (if (s.chans[c]).paired then s.chans[(⟨c.val - c.val % 2, by omega⟩ : Ch)] else s.chans[c]).bmap.bflags 7

def State.saf (s : State) : Bool := allCh.any (fun c => (s.chans[c]).l3.isSome || s.burrowOn c)

/-- The status byte of a port with a value of RDY (Table 5 of 11_host_ports): the one that a frame carries was sampled at the falling
edge of nCS (R280). -/
def State.statusAt (s : State) (p : Port) (rdy : Bool) : Byte :=
  let q := s.ports[p]
  bitsByte [s.saf, s.lglBit, q.ovr, q.frm, q.full, q.evpend != 0, q.rspPending, rdy]

/-- The status byte of a port, as the register STATUS holds it (R280). -/
def State.status (s : State) (p : Port) : Byte := s.statusAt p s.ports[p].rdy

/-- ECHO: FSEQ in bits 7:4, result in bits 3:0 (R281). -/
def echoByte (fseq : BitVec 4) (result : Nat) : Byte := BitVec.ofNat 8 (fseq.toNat * 16 + result)

end Sys2Proof.Machine
end

