-- ==== Sys2Proof/Machine/Ops.lean ====
section
/-! DEFINITION. The named operations over the state: access to channels, Holms, ports and units; time; raising events
(R288, R323, R325, R452); records of RSPQ (R303, R304); the common fault bit (R177); memory (R10, Table 2 of
01_architecture). -/

namespace Sys2Proof.Machine

def State.ch (s : State) (c : Ch) : Chan := s.chans[c]
def State.holm (s : State) (b : Bank) : Holm := s.holms[b]
def State.port (s : State) (p : Port) : PortSt := s.ports[p]
def State.unit (s : State) (u : Fin 4) : CrcUnit := s.crc[u]

/-- Replaces one channel. -/
def State.setCh (s : State) (c : Ch) (f : Chan → Chan) : State :=
  { s with chans := s.chans.set c.val (f s.chans[c]) c.isLt }
/-- Replaces one Holm. -/
def State.setHolm (s : State) (b : Bank) (f : Holm → Holm) : State :=
  { s with holms := s.holms.set b.val (f s.holms[b]) b.isLt }
/-- Replaces one port. -/
def State.setPort (s : State) (p : Port) (f : PortSt → PortSt) : State :=
  { s with ports := s.ports.set p.val (f s.ports[p]) p.isLt }
/-- Replaces one check-value unit. -/
def State.setUnit (s : State) (u : Fin 4) (f : CrcUnit → CrcUnit) : State :=
  { s with crc := s.crc.set u.val (f s.crc[u]) u.isLt }
def State.setBadger (s : State) (f : Badger → Badger) : State := { s with badger := f s.badger }
def State.setDen (s : State) (f : Den → Den) : State := { s with den := f s.den }
def State.setSys (s : State) (f : Sys → Sys) : State := { s with sys := f s.sys }
def State.setUpd (s : State) (f : Upd → Upd) : State := { s with upd := f s.upd }

/-- Applies a state change to each item of a list in turn. -/
def overAll {α : Type} (l : List α) (f : α → State → State) (s : State) : State := l.foldl (fun s a => f a s) s

/-- Ticks in a number of ms (R22: one tick is 100 ns). -/
def msTicks (n : Nat) : Nat := 10000 * n

/-- A timestamp taken in a Holm: its slave copy, or 0 before the first beacon after a Holm restart (R24, R25). -/
def State.stamp (s : State) (b : Bank) : Nat := if (s.holm b).noBeacon then 0 else (s.holm b).slave

/-- Wall time: 48 bits, in 1/65536 s (R380). -/
def State.wall (s : State) : Nat :=
  (s.sys.wallBase + if s.sys.rtcRuns then (s.sys.now - s.sys.wallAt) * 65536 / 10000000 else 0) % 2 ^ 48

/-- Core n is failed or in engine recovery (R18, R19). -/
def State.coreDown (s : State) (n : Fin 8) : Bool := s.sys.failedEngines.any (·.engine == .core n)
/-- The port core of a port is C(1 + p). -/
def portCore (p : Port) : Fin 8 := ⟨p.val + 1, by omega⟩
/-- The measurement core of a bank: C4 or C5. -/
def bankCore (b : Bank) : Fin 8 := ⟨b.val + 4, by omega⟩
/-- A recovery start is running (R393). -/
def State.recovery (s : State) : Bool := s.sys.start == .recovery

/-- DEVID (R285, R4). -/
def State.devid (s : State) : Nat := 0x16244800 + s.sys.order.toNat

/-- Source s of channel n is EV(8n + s) (R451). -/
def chSrc (c : Ch) (k : Nat) : Nat := 8 * c.val + k
/-- Source k of Holm h is EV(128 + 16h + k) (R452). -/
def holmSrc (b : Bank) (k : Nat) : Nat := 128 + 16 * b.val + k
/-- The mailbox and frame sources of a port: EV(160 + 8p + k) (R453). -/
def portSrc (p : Port) (k : Nat) : Nat := 160 + 8 * p.val + k

/-- A record of RSPQ: the header of Table 4 of 12_mailbox_operations, payload and check value (R303, R304). -/
def record (p : Port) (opcode : BitVec 16) (status : Byte) (seq : Byte) (tag obj : BitVec 16) (kind rflags : Byte)
    (tdone defms : Nat) (ostat : Byte) (payload : List Byte) : List Byte :=
  let body := le16 opcode.toNat ++ [status, seq] ++ le16 tag.toNat ++ le16 payload.length ++ le16 obj.toNat ++
    [kind, rflags] ++ le48 (tdone % 2 ^ 48) ++ le16 (satN defms 16) ++ [ostat, 0, 0, 0] ++ payload
  body ++ le32 (crc32c (foldIn p 1 tag seq obj ++ body))

/-- Bytes an event entry occupies in a block (Table 10). -/
def EvEntry.size (e : EvEntry) : Nat := 12 + e.payload.length

/-- The bytes of an entry (Table 10). -/
def EvEntry.bytes (e : EvEntry) : List Byte :=
  [e.src, BitVec.ofNat 8 e.payload.length] ++ le16 e.eseq.toNat ++ le48 (e.ts % 2 ^ 48) ++ le16 (satN e.rep 16) ++ e.payload

def evBytes (l : List EvEntry) : Nat := (l.map EvEntry.size).sum

/-- Bytes of the 32 KiB device-record buffer in use (R315): event and stream blocks in RSPQ and the open blocks. -/
def PortSt.deviceBytes (q : PortSt) : Nat :=
  ((q.rsp.filter (fun r => r.kind == 2 || r.kind == 3)).map (fun r => r.bytes.length)).sum +
    (if q.evOpen.isEmpty then 0 else 28 + evBytes q.evOpen) +
    (q.subs.toList.map (fun u => if u.units.isEmpty then 0 else 28 + 8 * u.units.length)).sum

/-- Closes the open event block and enters it in RSPQ (R323, R304). -/
def PortSt.closeEvents (p : Port) (now : Nat) (q : PortSt) : PortSt :=
  if q.evOpen.isEmpty then q
  else
    { q with
      rsp := q.rsp ++ [RspRec.mk 2 (record p 0xFF01 stOK 0 0 (portObj p) 2 (if q.evLost then 2 else 0) now 0 0
        (q.evOpen.flatMap EvEntry.bytes)) 0 true]
      evOpen := []
      evLost := false }

/-- The open entry that a raise merges into (R323, R456). -/
def mergeEv (src : Byte) (payload : List Byte) : List EvEntry → Option (List EvEntry)
  | [] => none
  | e :: rest =>
    match mergeEv src payload rest with
    | some l => some (e :: l)
    | none =>
      if rest.any (·.src == src) then none
      else if e.src == src && e.payload == payload then some ({ e with rep := e.rep + 1 } :: rest) else none

/-- One port's part of a raise (R288, R323, R325); true when the entry was dropped. -/
def PortSt.receive (p : Port) (now : Nat) (src : Nat) (payload : List Byte) (ts : Nat) (q : PortSt) : PortSt × Bool :=
  if !bit q.evmask src then (q, false)
  else
    let q := { q with evpend := q.evpend ||| BitVec.ofNat 256 (2 ^ src) }
    let b := BitVec.ofNat 8 src
    match mergeEv b payload q.evOpen with
    | some l => ({ q with evOpen := l }, false)
    | none =>
      if q.deviceBytes + 40 + payload.length > 32768 then
        ({ q with eseq := q.eseq + 1, evLost := true }, true)
      else
        let q := if evBytes q.evOpen + 12 + payload.length > 512 then q.closeEvents p now else q
        let e : EvEntry := { src := b, eseq := q.eseq, ts := ts, rep := 0, payload := payload }
        ({ q with
            evOpenedAt := if q.evOpen.isEmpty then now else q.evOpenedAt
            evOpen := q.evOpen ++ [e]
            eseq := q.eseq + 1 }, false)

/-- One raise at every port, with the ports that dropped it. -/
def raiseOnce (src : Nat) (payload : List Byte) (ts : Nat) (s : State) : State × List Port :=
  (overAll allPorts (fun p s => s.setPort p (fun q => (q.receive p s.sys.now src payload ts).1)) s,
   allPorts.filter (fun p => ((s.port p).receive p s.sys.now src payload ts).2))

/-- EV(166 + 8p), at most once per second (R325). -/
def noteDrop (p : Port) (s : State) : State :=
  match (s.port p).dropEvAt with
  | some t => if s.sys.now < t + 10000000 then s
    else (raiseOnce (portSrc p 6) [] s.sys.now (s.setPort p (fun q => { q with dropEvAt := some s.sys.now }))).1
  | none => (raiseOnce (portSrc p 6) [] s.sys.now (s.setPort p (fun q => { q with dropEvAt := some s.sys.now }))).1

/-- Raises an event source with its payload at a time (R288, R323). -/
def raiseAt (src : Nat) (payload : List Byte) (ts : Nat) (s : State) : State :=
  overAll (raiseOnce src payload ts s).2 noteDrop (raiseOnce src payload ts s).1

/-- Raises an event at the present device time. -/
def raise (src : Nat) (payload : List Byte) (s : State) : State := raiseAt src payload s.sys.now s

/-- An internal operation waits, all 32 internal slots being held by earlier ones (R314). -/
def State.internalWaits (s : State) (o : IntOp) : Bool := (s.sys.internal.drop 32).contains o

/-- An internal operation arises: it takes a slot, or waits, which EV187 tells (R314). -/
def arise (o : IntOp) (s : State) : State :=
  let t := s.setSys (fun y => { y with internal := y.internal ++ [o] })
  if 32 ≤ s.sys.internal.length then raise 187 [] t else t

/-- An internal operation ends and its slot is free for the next (R314). -/
def endInternal (o : IntOp) (s : State) : State := s.setSys (fun y => { y with internal := y.internal.erase o })

/-- The grid period of R63 as a fraction of ticks: 10240 periods of the Holm oscillator, whose frequency is measured in mHz;
12500/3 ticks at the nominal one. -/
def gridPeriod (h : Holm) : Nat × Nat :=
  if h.osc = 24576000000 then (12500, 3) else (102400000000000, max 1 h.osc)

/-- Device time of a grid instant (R63), rounded up to a tick: counted from the instant that the Holm holds (log entry 21). -/
def gridAt (h : Holm) (k : Nat) : Nat :=
  let p := gridPeriod h
  (h.grid0 + (((k - h.gridN) * p.1 + p.2 - 1) / p.2 : Nat)).toNat

/-- Number of the first grid instant at or after a time that is a multiple of n. -/
def gridNext (h : Holm) (t n : Nat) : Nat :=
  let p := gridPeriod h
  let d := ((t : Int) - h.grid0).toNat
  let k := h.gridN + (if d = 0 then 0 else (d - 1) * p.2 / p.1 + 1)
  n * ((k + n - 1) / n)

/-- n_f = 1200 / f of a carrier rate code (R63). -/
def nOf (r : Fin 5) : Nat := 2 ^ (4 - r.val)

/-- The carrier period of a rate in ticks, as the oscillator counts it: 2 × n_f grid periods (R63). -/
def Holm.carrierPeriod (h : Holm) (r : Fin 5) : ℚ := 2 * nOf r * (gridPeriod h).1 / (gridPeriod h).2

/-- The half-period that a reversal instant begins at a rate is positive (R63). -/
def positiveAt (r : Fin 5) (k : Nat) : Bool := k % (2 * nOf r) == 0

/-- The half-period under way at a time is positive: that of the latest reversal instant (R63). -/
def positiveNow (h : Holm) (r : Fin 5) (t : Nat) : Bool := positiveAt r (gridNext h (t + 1) (nOf r) - nOf r)

/-- The grid is counted from its latest instant at the new oscillator frequency, so that instants past stay where they were. -/
def Holm.setOsc (h : Holm) (now osc : Nat) : Holm :=
  if osc = 0 ∨ osc = h.osc then h
  else
    let k := max h.gridN (gridNext h (now + 1) 1 - 1)
    { h with
      gridN := k
      grid0 := (gridAt h k : Nat)
      osc := osc }

/-- The number of the grid instant that lies at a time, if one does (R63). -/
def gridNumber (h : Holm) (t : Nat) : Option Nat := if gridAt h (gridNext h t 1) = t then some (gridNext h t 1) else none

/-- A noted transition lies on the reversal instants of a rate (R63). -/
def onReversal (r : Fin 5) (e : Nat × Option Nat) : Bool := match e.2 with | some k => k % nOf r == 0 | none => false

/-- Notes the start of an output transition in a bank (R110), with the grid instant on which it lies; transitions older than 2^41
ticks lie in no span that R97 and R99 allow. A switch that turns on ends the time for which every switch of the bank has been off
(R195). -/
def noteEdge (b : Bank) (t : Nat) (switchOn : Bool) (s : State) : State :=
  s.setHolm b (fun h => { h with
    edges := (t, gridNumber h t) :: h.edges.filter (fun e => t < e.1 + 2 ^ 41)
    allOff := if switchOn then none else h.allOff })

/-- Conditions of Table 5 of 07_digital_inputs on one channel (R177). -/
def Locks.any (l : Locks) : Bool :=
  l.fuse || l.clamp || l.thermHold || l.thermLatch || l.revHold || l.seqFault || l.supUv || l.supSurge || l.supGnd

/-- A protection lock other than a supply-fault lock (R253). -/
def Locks.anyProt (l : Locks) : Bool :=
  l.fuse || l.clamp || l.thermHold || l.thermLatch || l.revHold || l.seqFault

/-- A supply-fault lock (R246, R247, R250). -/
def Locks.anySupply (l : Locks) : Bool := l.supUv || l.supSurge || l.supGnd

def Chan.faultPresent (ch : Chan) : Bool :=
  ch.locks.any || ch.sw.onOpen || ch.sw.offOpen || ch.sw.shortVf || ch.sw.extDrive || ch.din.wireBreak || ch.din.overload ||
    ch.brg.senseRep || ch.brg.signalRep || ch.brg.impRep || ch.brg.leakRep || ch.brg.latch ||
    ch.loop.fallback || ch.loop.wireBreak || ch.loop.short || ch.loop.readback

/-- A condition of Table 5 of 07_digital_inputs is present anywhere in the device; a Holm in lockout has its field supply below
16.0 V. -/
def State.anyFault (s : State) : Bool :=
  s.chans.toList.any Chan.faultPresent || s.holms.toList.any (fun h => h.uv || h.surge || h.gnd || h.reversed || !h.up || !h.link)

/-- The common fault bit: a condition is present, or less than 1 ms has passed since it was asserted (R177). -/
def State.commonFault (s : State) : Bool :=
  s.anyFault || (s.sys.nfault && s.sys.now < s.sys.nfaultAt + msTicks 1)

/-- Marks the instant at which the common fault bit becomes asserted; run before a condition of Table 5 is entered. -/
def assertFault (s : State) : State :=
  if s.commonFault then s.setSys (fun y => { y with nfault := true })
  else s.setSys (fun y => { y with nfault := true, nfaultAt := s.sys.now })

/-- The nFAULT pad is held low (R177): also from power-up until RDY is first set, while nRESET is asserted, and throughout a
recovery start. -/
def State.nFaultLow (s : State) : Bool :=
  s.sys.vddOk && (s.commonFault || s.recovery || s.sys.nresetLow || !s.sys.rdyOnce)

/-- The conditions that IRQCFG may select (R289). -/
def State.irqCondition (s : State) (p : Port) : Bool :=
  let q := s.port p
  (bit q.irqcfg 0 && q.evpend != 0) || (bit q.irqcfg 1 && q.rspPending) || (bit q.irqcfg 2 && s.saf) ||
    (bit q.irqcfg 3 && q.rstd)

/-- SPx_nIRQ is driven low (R272, R289): in level mode while a selected condition holds, with PULSE = 1 for 1 µs at each rise
(log entry 22). -/
def State.nIrqLow (s : State) (p : Port) : Bool :=
  (s.port p).rdy && (if bit (s.port p).irqcfg 7 then decide (0 < (s.port p).irqLow) else s.irqCondition p)

/-- One tick of the nIRQ pad (R289): a rise of the selected conditions starts a low pulse of 10 ticks, not before 20 ticks have
passed since the last pulse ended; a rise in between is answered then, if it still stands. -/
def PortSt.irqTick (cond : Bool) (q : PortSt) : PortSt :=
  let pulse := bit q.irqcfg 7 && q.rdy
  if pulse && cond && !q.irqWas && q.irqLow == 0 && q.irqGap == 0 then
    { q with irqWas := true, irqLow := 10, irqGap := 20 }
  else
    { q with
      irqWas := cond && (q.irqWas || !pulse)
      irqLow := if pulse then q.irqLow - 1 else 0
      irqGap := if q.irqLow = 0 then q.irqGap - 1 else q.irqGap }

/-- The count of a Holm's oscillator in 10⁻⁴ periods, by its measured frequency (R63, R199): a grid instant k stands at k × 10240
periods (log entry 52). -/
def State.tbNow (s : State) (b : Bank) : Nat :=
  let h := s.holm b
  ((h.gridN * 102400000 : Nat) + ((s.sys.now : Int) - h.grid0) * h.osc / 1000000).toNat

/-- Since when a watched condition has held at every reading, by `Sys.raw`. -/
def Chan.since (ch : Chan) (w : Watch) : Option Nat := (ch.watch.find? (fun e => e.1 == w)).map (·.2)

/-- A watched condition has held for a number of ticks. -/
def State.heldFor (s : State) (c : Ch) (w : Watch) (ticks : Nat) : Bool :=
  match (s.ch c).since w with
  | some t => decide (t + ticks ≤ s.sys.raw)
  | none => false

/-- The n-th free value, and the state that has drawn it (log entry 10). -/
def State.draw (s : State) : Nat × State :=
  (Config.freeValue s.sys.freeCtr, s.setSys (fun y => { y with freeCtr := y.freeCtr + 1 }))

/-- The image version whose sequencer component a start loads (R17). -/
def State.ucodeNow (s : State) : Ucode :=
  ⟨match s.upd.info[s.upd.active] with | some i => i.ver | none => 0, []⟩

/-- The payload padded to a multiple of 4 (R360). -/
def pad4 (l : List Byte) : List Byte := l ++ List.replicate ((4 - l.length % 4) % 4) 0

/-- LENGTH of a record (R359). -/
def DenRec.len (r : DenRec) : Nat := 36 + (pad4 r.payload).length + if r.trailer.isSome then 16 else 0

/-- The bytes of a record (R359, R360, R362). -/
def DenRec.bytes (r : DenRec) : List Byte :=
  let flags := bitsByte [false, false, false, false, r.ovfl, r.winv, r.trailer.isSome, r.legReg]
  let body := le16 r.len ++ le16 r.typ.toNat ++ [BitVec.ofNat 8 r.sev, flags] ++ le64 r.seq ++ le64 r.uptime ++
    le48 r.wall ++ le32 r.boot.toNat ++ pad4 r.payload ++
    (match r.trailer with
     | some (rep, nd, tl) => le32 (satN rep 32) ++ le32 (satN nd 32) ++ le64 tl
     | none => [])
  body ++ le32 (crc32c body)

/-- What a byte of MRAM reads as that nothing in the model has written: the GENESIS record at the beginning of the legal region, the
first START record in slot 0 of the ring (R357, R359), and elsewhere what manufacture left (log entry 14). -/
def mramInit (a : Nat) : Byte :=
  if 0x300000 ≤ a && decide (a < 0x300000 + 140) then byteAt genesisRec.bytes (a - 0x300000)
  else if 0x320000 ≤ a && decide (a < 0x320000 + 60) then byteAt firstStartRec.bytes (a - 0x320000)
  else Config.mramByte a

/-- Reads one byte of MRAM: what has been written, or its content at reset. -/
def mramRead (m : List Host.Cell) (a : Nat) : Byte :=
  match m with
  | [] => mramInit a
  | (k, v) :: rest => if k = a then v else mramRead rest a

/-- Writes one byte, keeping the canonical form: addresses strictly rising and no entry equal to what an unlisted address
reads as. -/
def mramWrite (m : List Host.Cell) (a : Nat) (v : Byte) : List Host.Cell :=
  match m with
  | [] => if v = mramInit a then [] else [(a, v)]
  | (k, w) :: rest =>
    if a < k then (if v = mramInit a then (k, w) :: rest else (a, v) :: (k, w) :: rest)
    else if a = k then (if v = mramInit a then rest else (a, v) :: rest)
    else (k, w) :: mramWrite rest a v

/-- Reads n bytes from an address. -/
def mramBytes (m : List Host.Cell) (a n : Nat) : List Byte := (List.range n).map (fun i => mramRead m (a + i))

/-- Writes a block. -/
def mramStore (m : List Host.Cell) (a : Nat) : List Byte → List Host.Cell
  | [] => m
  | v :: rest => mramStore (mramWrite m a v) (a + 1) rest

/-- A write of n bytes at an offset fails its read-back (R365, R401; log entry 96). -/
def State.mramFails (s : State) (a n : Nat) : Bool := s.sys.mramBad.any (fun e => decide (e.1 < a + n) && decide (a < e.2))

/-- The bytes that cells hold after a write at an offset: a cell that fails keeps what it holds. -/
def State.cells (s : State) (a : Nat) : List Byte → List Byte
  | [] => []
  | v :: rest => (if s.mramFails a 1 then Config.badCell a else v) :: State.cells s (a + 1) rest

/-- Writes of the configuration region, whose layout is not given, read back (Table 2 of 01_architecture; log entry 96). -/
def State.configReads (s : State) : Bool := !s.mramFails 0x380000 0x40000

/-- The canonical form. -/
def Memory.wf : List Host.Cell → Bool
  | [] => true
  | [(a, v)] => v != mramInit a
  | (a, v) :: (b, w) :: rest => v != mramInit a && decide (a < b) && Memory.wf ((b, w) :: rest)

end Sys2Proof.Machine
end

