-- ==== Sys2Proof/Machine/DenOps.lean ====
section
/-! DEFINITION. The Den's operations: creating records, the buffer and its limit, flushing, the ring, the legal region and
its chain (R357 to R374, R238), and how an event of a Holm reaches Mainland (R245, R452). -/

namespace Sys2Proof.Machine

/-- Bytes in the volatile buffer. -/
def Den.bufBytes (d : Den) : Nat := (d.buf.map DenRec.len).sum

/-- E_res in nJ: ½ C (V_H² − (2.7 V)²) (R237), to 0.001 mJ as Table 8 of 16_pins_package_power has it (R427). -/
def Badger.eRes (b : Badger) : Nat := (b.capUf * (b.vholdMv * b.vholdMv - 7290000) + 1000000) / 2000000 * 1000

/-- Bytes the reserve covers in buffer and admitted writes together: (E_res − E0) / e_b with E0 = 0.05 mJ and
e_b = 48.83 nJ (R238, R239). -/
def Badger.reserveBytes (b : Badger) : Nat := (b.eRes - 50000) * 100 / 4883

/-- The Den buffer limit in force (R238, R239); an MRAM write begins and ends inside one step of this model (log entry 24). -/
def Badger.bufLimit (b : Badger) : Nat := min 16384 b.reserveBytes

/-- Takes the next SEQ; HWM moves up before SEQ = HWM is issued (R361, R363). -/
def Den.takeSeq (d : Den) : Nat × Den :=
  (d.seq, { d with seq := d.seq + 1, hwm := if d.seq < d.hwm then d.hwm else d.seq + 4096 })

/-- The next SEQ of the device; a high-water mark that fails its read-back raises EV233 (R363, R383). -/
def nextSeq (s : State) : Nat × State :=
  let t : State := { s with den := s.den.takeSeq.2 }
  (s.den.takeSeq.1, if s.den.seq < s.den.hwm || s.configReads then t else raise 233 [] t)

/-- The slot a ring record takes (R368): the lowest free one, else the one holding the record of lowest SEQ whose severity
is no higher; records marked OVFL stay (R366). -/
def ringSlot (d : Den) (sev : Nat) : Option Nat :=
  let live := d.ring.filter (fun e => d.ringClear ≤ e.2.seq)
  match (List.range 1536).find? (fun k => !live.any (fun e => e.1 == k)) with
  | some k => some k
  | none =>
    let cand := live.filter (fun e => e.2.sev ≤ sev && !e.2.ovfl)
    match cand with
    | [] => none
    | h :: t => some (t.foldl (fun b e => if e.2.seq < b.2.seq then e else b) h).1

/-- A flush in progress: the Den, the MRAM, whether a ring record found no slot, whether a write failed its read-back. -/
structure Flushed where
  d : Den
  mram : List Host.Cell
  dropped : Bool
  failed : Bool

/-- A record's bytes are written at an offset; one that fails its read-back is not there (R365, R369; log entry 96). -/
def flushPut (s : State) (a : Flushed) (r : DenRec) (at_ : Nat) (good bad : Den) : Flushed :=
  let f := s.mramFails at_ r.len
  { a with
    d := if f then bad else good
    mram := mramStore a.mram at_ (s.cells at_ r.bytes)
    failed := a.failed || f }

/-- Writes one buffered record to its place (R357, R370): a legal record behind the others, a ring record in its slot. What fails
its read-back leaves torn bytes or a torn slot, until a good write takes their place (R367, R369). -/
def flushOne (s : State) (a : Flushed) (r : DenRec) : Flushed :=
  if r.legReg then
    flushPut s a r (0x300000 + a.d.legUsed)
      { a.d with
        legal := a.d.legal ++ [(a.d.legUsed, r)]
        legUsed := a.d.legUsed + r.len
        legWrites := a.d.legWrites + 1
        lastLeg := r
        legTorn := a.d.legTorn - r.len }
      { a.d with legTorn := max a.d.legTorn r.len }
  else
    match ringSlot a.d r.sev with
    | some k =>
      flushPut s a r (0x320000 + 256 * k)
        { a.d with
          ring := (k, r) :: a.d.ring.filter (fun e => e.1 != k)
          torn := a.d.torn.filter (· != k)
          lastLeg := if r.ovfl then r else a.d.lastLeg
          legWrites := if r.ovfl then a.d.legWrites + 1 else a.d.legWrites }
        { a.d with
          ring := a.d.ring.filter (fun e => e.1 != k)
          torn := k :: a.d.torn.filter (· != k) }
    | none => { a with
        d := { a.d with ndrop := a.d.ndrop + 1, ndropTotal := a.d.ndropTotal + 1 }
        dropped := true }

/-- Writes the buffer in SEQ order. -/
def flushAll (s : State) : Flushed :=
  let a := s.den.buf.foldl (flushOne s) (Flushed.mk s.den s.mram false false)
  { a with d := { a.d with buf := [], head := s.den.buf.foldl (fun h r => max h r.seq) a.d.head } }

/-- EV224 when the legal main part reaches 90 % of its 130048 bytes (R383). -/
def noteLeg90 (s : State) : State :=
  if s.den.legUsed * 10 ≥ 130048 * 9 && !s.den.leg90 then raise 224 [] (s.setDen (fun d => { d with leg90 := true })) else s

/-- The buffer is written, and then the saved index (R370), while C7 serves (R19); EV227 and EV233 tell of a dropped record and
of a failed read-back (R383). -/
def flushBuf (s : State) : State :=
  if s.coreDown 7 then s
  else
    let a := flushAll s
    let failed := a.failed || (!s.den.buf.isEmpty && !s.configReads)
    let s := { s with den := { a.d with lastFlush := s.sys.now }, mram := a.mram }
    let s := if a.dropped then raise 227 [] s else s
    noteLeg90 (if failed then raise 233 [] s else s)

/-- A Den drop episode: the counters, and EV226 at most once per second (R372). -/
def noteDenDrop (n : Nat) (s : State) : State :=
  if n = 0 then s
  else
    let s := s.setDen (fun d => { d with ndrop := d.ndrop + n, ndropTotal := d.ndropTotal + n })
    match s.den.dropAt with
    | some t => if s.sys.now < t + 10000000 then s else raise 226 [] (s.setDen (fun d => { d with dropAt := some s.sys.now }))
    | none => raise 226 [] (s.setDen (fun d => { d with dropAt := some s.sys.now }))

/-- Evicts the buffered record that R372 names first: severity below `sev`, lowest first, newest within it; none left: none. -/
def evictOne (sev : Nat) (l : List DenRec) : Option (List DenRec) :=
  let cand := l.filter (fun r => r.sev < sev && !r.legReg && !r.ovfl)
  match cand with
  | [] => none
  | h :: t =>
    let v := t.foldl (fun b r => if r.sev < b.sev || (r.sev == b.sev && r.seq > b.seq) then r else b) h
    some (l.filter (fun r => r.seq != v.seq))

/-- Evicts until n bytes fit, at most `fuel` records; the number evicted. -/
def evictFor : Nat → Nat → Nat → Nat → List DenRec → List DenRec × Nat
  | 0, _, _, _, l => (l, 0)
  | f + 1, limit, n, sev, l =>
    if (l.map DenRec.len).sum + n ≤ limit then (l, 0)
    else
      match evictOne sev l with
      | none => (l, 0)
      | some l' => ((evictFor f limit n sev l').1, (evictFor f limit n sev l').2 + 1)

/-- Makes room for n bytes: first a flush when the limit would break (R238, Table 5), then evictions until `m` bytes fit, the
record with the trailer that tells of them (R372). -/
def makeRoom (n m sev : Nat) (s : State) : State :=
  if s.den.bufBytes + n ≤ s.badger.bufLimit then s
  else
    let s := flushBuf s
    if s.den.bufBytes + n ≤ s.badger.bufLimit then s
    else
      let e := evictFor 1024 s.badger.bufLimit m sev s.den.buf
      noteDenDrop e.2 (s.setDen (fun d => { d with buf := e.1 }))

/-- Bytes of a ring record of some payload and repeat count if it enters now (R359, R362); one with OVFL carries no trailer. -/
def Den.recBytes (d : Den) (payload : List Byte) (rep : Nat) (ovfl : Bool) : Nat :=
  36 + (pad4 payload).length + if !ovfl && (rep > 0 || d.ndrop > 0) then 16 else 0

/-- Enters a record in the buffer (R370, R372), with the drop count in its trailer and the repeats that it stands for with the
time of the last, and starts the flush that its severity, the fill level or the reserve asks for (Table 5). While C7 flushes,
a reserve that covers less than the record loses nothing: the record goes to MRAM at once (R434, Table 10 of
16_pins_package_power). -/
def enterRec (typ : BitVec 16) (sev : Nat) (ovfl : Bool) (payload : List Byte) (rep last : Nat) (s : State) : State :=
  let s := makeRoom (s.den.recBytes payload rep ovfl) (52 + (pad4 payload).length) sev s
  let trl := if !ovfl && (rep > 0 || s.den.ndrop > 0) then some (rep, s.den.ndrop, if rep > 0 then last else 0) else none
  let q := nextSeq s
  let r : DenRec :=
    { typ := typ, sev := sev, legReg := false, ovfl := ovfl, winv := !s.sys.wallValid, seq := q.1, uptime := s.sys.now,
      wall := s.wall, boot := s.den.boot, payload := payload, trailer := trl }
  let s := q.2
  if !s.coreDown 7 || decide (s.den.bufBytes + r.len ≤ s.badger.bufLimit) then
    let s := s.setDen (fun d => { d with buf := d.buf ++ [r], ndrop := if ovfl then d.ndrop else 0 })
    if sev ≥ 4 || s.den.bufBytes ≥ 8192 || decide (s.badger.bufLimit < s.den.bufBytes) then flushBuf s else s
  else noteDenDrop 1 s

/-- Merges into the newest buffered record of the same type, severity and payload within 1 s (R371). -/
def mergeRec (typ : BitVec 16) (sev : Nat) (payload : List Byte) (now : Nat) : List DenRec → Option (List DenRec)
  | [] => none
  | r :: rest =>
    match mergeRec typ sev payload now rest with
    | some l => some (r :: l)
    | none =>
      if r.typ == typ && r.sev == sev && r.payload == payload && !r.legReg && !r.ovfl && now ≤ r.uptime + 10000000 then
        let t := r.trailer.getD (0, 0, 0)
        some ({ r with trailer := some (t.1 + 1, t.2.1, now) } :: rest)
      else none

/-- Writes a Den record of the operational ring (R370 to R372); none is created after the power-fail warning (R373). -/
def denWrite (typ : BitVec 16) (sev : Nat) (payload : List Byte) (s : State) : State :=
  if !s.sys.vddOk then s
  else
    let s := if s.den.bufBytes + 16 ≤ s.badger.bufLimit then s else flushBuf s
    match mergeRec typ sev payload s.sys.now s.den.buf with
    | some l =>
      let s := (nextSeq s).2.setDen (fun d => { d with buf := l })
      if s.den.bufBytes ≥ 8192 then flushBuf s else s
    | none => enterRec typ sev false payload 0 0 s

/-- An EVENT record (Table 4 of 14_den_recorder). -/
def eventPayload (src : Byte) (obj : BitVec 16) (content : List Byte) : List Byte :=
  [src, 0] ++ le16 obj.toNat ++ [BitVec.ofNat 8 content.length, 0, 0, 0] ++ content

def denEvent (sev : Nat) (src : Byte) (obj : BitVec 16) (content : List Byte) (s : State) : State :=
  denWrite 0x0010 sev (eventPayload src obj content) s

/-- A VIOLATION record, at most one per kind, port and second; later ones are counted into the next (R283, R307, R371). -/
def violation (p : Port) (domain code : Byte) (s : State) : State :=
  let q := s.port p
  match q.viol.find? (fun v => v.domain == domain && v.code == code) with
  | some v =>
    if s.sys.now < v.lastAt + 10000000 then
      s.setPort p (fun q => { q with viol := q.viol.map (fun w => if w.domain == domain && w.code == code then
        { w with
          reps := w.reps + 1
          first := if w.reps = 0 then s.sys.now else w.first
          last := s.sys.now } else w) })
    else
      let t := if v.reps = 0 then s.sys.now else v.first
      enterRec 0x0011 2 false ([BitVec.ofNat 8 p.val, domain, code, 0] ++ le48 (t % 2 ^ 48)) v.reps v.last
        (s.setPort p (fun q => { q with viol := q.viol.map (fun w => if w.domain == domain && w.code == code then
          { w with reps := 0, lastAt := s.sys.now } else w) }))
  | none =>
    enterRec 0x0011 2 false ([BitVec.ofNat 8 p.val, domain, code, 0] ++ le48 (s.sys.now % 2 ^ 48)) 0 0
      (s.setPort p (fun q => { q with viol := q.viol ++ [Violation.mk domain code s.sys.now 0 0 0] }))

/-- The last record of the legal trail: the newest legal record of the buffer, else the one last written to MRAM, which may stand
in the ring with OVFL (R364, R366; log entry 100). -/
def Den.lastLegal (d : Den) : DenRec :=
  match (d.buf.filter (fun r => r.legReg || r.ovfl)).getLast? with
  | some r => r
  | none => d.lastLeg

/-- The chain head: the full digest of the last legal record (R364). -/
def Den.chain (d : Den) : List Byte := sha3_512 d.lastLegal.bytes

/-- The legal prefix (R364). -/
def legalPrefix (d : Den) (lec : BitVec 32) (port : Option Port) : List Byte :=
  d.chain.take 32 ++ le32 lec.toNat ++ [ownerByte port, 0, 0, 0]

/-- A legal record of a payload length fits the main part, or with `reserve` the seal reserve too (R366). -/
def Den.legalFits (d : Den) (n : Nat) (reserve : Bool) : Bool :=
  decide (d.legUsed + ((d.buf.filter (·.legReg)).map DenRec.len).sum + 36 + (n + 3) / 4 * 4 ≤
    if reserve then 131072 else 130048)

/-- A legal record of a content length, written next, reads back (R365). -/
def State.legalReadsBack (s : State) (n : Nat) : Bool :=
  !s.mramFails (0x300000 + s.den.legUsed + ((s.den.buf.filter (·.legReg)).map DenRec.len).sum) (76 + (n + 3) / 4 * 4)

/-- The LEC that the next legal record carries: after it, and after the changes recorded before it that have still to count
(R333, R364). -/
def Den.nextLec (d : Den) (typ : BitVec 16) : BitVec 32 :=
  d.lec + BitVec.ofNat 32 (d.legDue.length + if typ = 0x0006 then 0 else 1)

/-- A legal record enters the buffer and is flushed and so read back (R365); `lec` adds 1 to LEC (R364). A SEAL or LEGREV record
that fits nowhere goes to the ring at CRITICAL with OVFL and raises EV234 (R366). -/
def legalEnter (x : LegalRec) (lec reserve : Bool) (s : State) : State :=
  let l := if lec then s.den.lec + 1 else s.den.lec
  let payload := legalPrefix s.den (s.den.nextLec x.typ) x.port ++ x.content
  if s.den.legalFits payload.length reserve then
    let q := nextSeq s
    let r : DenRec :=
      { typ := x.typ, sev := x.sev, legReg := true, ovfl := false, winv := !s.sys.wallValid, seq := q.1,
        uptime := s.sys.now, wall := s.wall, boot := s.den.boot, payload := payload, trailer := none }
    flushBuf (q.2.setDen (fun d => { d with buf := d.buf ++ [r], lec := l }))
  else
    raise 234 [] (enterRec x.typ 5 true payload 0 0 (s.setDen (fun d => { d with lec := l })))

/-- A flush (R370): the buffer, and then the legal records that waited for room in it (R365). -/
def flush (s : State) : State :=
  let s := flushBuf s
  if s.coreDown 7 || s.den.legWait.isEmpty then s
  else overAll s.den.legWait (fun x s => legalEnter x true true s) (s.setDen (fun d => { d with legWait := [] }))

/-- Writes a legal record. One that records what has already happened is not lost when C7 is down and the buffer stays full: it
waits for room (R365, R366; Table 9 of 14_den_recorder). One that fits nowhere in the legal region enters at CRITICAL, and makes room as
such (R366, R372). -/
def legalWrite (typ : BitVec 16) (sev : Nat) (content : List Byte) (port : Option Port) (lec reserve : Bool)
    (s : State) : State :=
  let n := 36 + (pad4 content).length + 40
  let s := makeRoom n n (if s.den.legalFits (content.length + 40) reserve then sev else 5) s
  if s.coreDown 7 && decide (s.badger.bufLimit < s.den.bufBytes + n) then
    s.setDen (fun d => { d with legWait := d.legWait ++ [LegalRec.mk typ sev content port] })
  else legalEnter (LegalRec.mk typ sev content port) lec reserve s

/-- A recorded change to the legal configuration has taken effect (R333): the legal event counter counts it, and EV185 follows. -/
def legalTakes (obj : BitVec 16) (s : State) : State :=
  if s.den.legDue.contains obj then
    raise 185 [] (s.setDen (fun d => { d with legDue := d.legDue.erase obj, lec := d.lec + 1 }))
  else s

/-- A recorded change to the legal configuration is cut off before it takes effect: its record counts (R364), and no event follows
(R333; DEDUCED, log entry 156). -/
def legalCutOff (obj : BitVec 16) (s : State) : State :=
  if s.den.legDue.contains obj then s.setDen (fun d => { d with legDue := d.legDue.erase obj, lec := d.lec + 1 }) else s

/-- The Den record at FAULT of a command that ends with E_INTERNAL, with its opcode (R336; log entry 34). -/
def recordInternal (op obj : BitVec 16) (s : State) : State := denEvent 4 0xFF obj (le16 op.toNat) s

/-- An event of a Holm or of a channel (R245, R452): raised when the notice arrives, with its Den record; while the link is
lost or Mainland has no power it waits, and of more than 64 supply notices the oldest is dropped. -/
def notify (b : Bank) (src : Nat) (payload : List Byte) (den : Option Nat) (obj : BitVec 16) (s : State) : State :=
  if (s.holm b).link && s.sys.vddOk then
    let s := raiseAt src payload (s.stamp b) s
    match den with
    | some sev => denEvent sev (BitVec.ofNat 8 src) obj payload s
    | none => s
  else
    s.setHolm b (fun h =>
      let n : Notice := { src := BitVec.ofNat 8 src, payload := payload, ts := s.stamp b, den := den, obj := obj }
      let isSup (x : Notice) : Bool := x.src == BitVec.ofNat 8 (holmSrc b 0) && x.den == some 4
      if isSup n && (h.notices.filter isSup).length ≥ 64 then
        { h with notices := h.notices.eraseP isSup ++ [n], dropped := h.dropped + 1 }
      else { h with notices := h.notices ++ [n] })

/-- A channel event (R451), with a Den record of a severity when the rule requires one. -/
def notifyCh (c : Ch) (k : Nat) (payload : List Byte) (den : Option Nat) (s : State) : State :=
  notify (bankOf c) (chSrc c k) payload den (chObj c) s

/-- A Holm event: KIND, bank position or 0xFF, VALUE (R452). -/
def notifyHolm (b : Bank) (k : Nat) (kind pos : Byte) (value : Nat) (den : Option Nat) (s : State) : State :=
  notify b (holmSrc b k) ([kind, pos] ++ le16 value) den (BitVec.ofNat 16 (0x0100 + b.val)) s

end Sys2Proof.Machine
end

