-- ==== Sys2Proof/Machine/Num.lean ====
section
/-! DEFINITION. Fixed-point exponential, logarithm and rounding, in place of the real functions of R185, R188, R223 and
R224 (log entry 20). Values carry 40 fraction bits unless a docstring says otherwise. -/

namespace Sys2Proof.Machine

/-- 1.0 with 40 fraction bits. -/
def one40 : Nat := 2 ^ 40

/-- ln 2 with 40 fraction bits. -/
def ln2Fx : Nat := 762123384786

/-- Integer division rounded to nearest, half up. -/
def divRound (a : Int) (b : Nat) : Int := if b = 0 then 0 else (2 * a + b) / (2 * b)

/-- Ceiling division. -/
def ceilDiv (a b : Nat) : Nat := (a + b - 1) / b

/-- Taylor sum of e^(−r) for 0 ≤ r < 1: n terms from term k on; `t` is the present term. -/
def expTaylor : Nat → Nat → Nat → Nat → Int → Int
  | 0, _, _, _, acc => acc
  | n + 1, k, r, t, acc =>
    expTaylor n (k + 1) r (t * r / one40 / (k + 1)) (if k % 2 = 0 then acc + t else acc - t)

/-- e^(−x): x = q ln 2 + r. -/
def expNeg (x : Nat) : Nat :=
  let q := x / ln2Fx
  if q > 60 then 0 else (expTaylor 16 0 (x % ln2Fx) one40 0).toNat / 2 ^ q

/-- The fraction bits of log2 of y in [1, 2), n bits by squaring. -/
def log2Bits : Nat → Nat → Nat → Nat
  | 0, _, acc => acc
  | n + 1, y, acc =>
    let z := y * y / one40
    if z ≥ 2 * one40 then log2Bits n (z / 2) (2 * acc + 1) else log2Bits n z (2 * acc)

/-- log2 of a positive number, 40 fraction bits. -/
def log2Fx (n : Nat) : Nat :=
  let k := Nat.log2 n
  k * one40 + log2Bits 40 (n * one40 / 2 ^ k) 0

/-- 2^x for an x with 40 fraction bits: 2^(q+1) e^(−(1−f) ln 2). -/
def exp2Fx (x : Nat) : Nat :=
  let q := x / one40
  2 ^ (q + 1) * expNeg ((one40 - x % one40) * ln2Fx / one40)

/-- Time of a fuse table at a current by linear interpolation in log current and log time (R188), in µs; none below the
first breakpoint. -/
def fuseTime : List (Nat × Nat) → Nat → Option Nat
  | [], _ => none
  | [(i0, t0)], i => if i < i0 then none else some (t0 * 1000)
  | (i0, t0) :: (i1, t1) :: rest, i =>
    if i < i0 then none
    else if i < i1 then
      let lt0 := log2Fx (t0 * 1000)
      let lt1 := log2Fx (t1 * 1000)
      let li0 := log2Fx i0
      let d := (lt0 - lt1) * (log2Fx i - li0) / (log2Fx i1 - li0)
      some ((exp2Fx (lt0 - d) + one40 / 2) / one40)
    else fuseTime ((i1, t1) :: rest) i

/-- Integer square root (floor) by bits, for pole radii (R93, R99). -/
def isqrtBits : Nat → Nat → Nat → Nat
  | 0, _, acc => acc
  | n + 1, v, acc => if (acc + 2 ^ n) * (acc + 2 ^ n) ≤ v then isqrtBits n v (acc + 2 ^ n) else isqrtBits n v acc

/-- Square root (floor) of a number below 2²⁰⁰. -/
def isqrt (v : Nat) : Nat := isqrtBits 100 v 0

/-- The fraction bits of log2 of y in [1, 2) with 96 fraction bits, n bits by squaring. -/
def log2FineBits : Nat → Nat → Nat → Nat
  | 0, _, acc => acc
  | n + 1, y, acc =>
    let z := y * y / 2 ^ 96
    if z ≥ 2 ^ 97 then log2FineBits n (z / 2) (2 * acc + 1) else log2FineBits n z (2 * acc)

/-- log2 of a positive number, 96 fraction bits (R93). -/
def log2Fine (n : Nat) : Nat :=
  let k := Nat.log2 n
  k * 2 ^ 96 + log2FineBits 96 (n * 2 ^ 96 / 2 ^ k) 0

end Sys2Proof.Machine
end

