-- ==== Sys2Proof/Machine/OutOps.lean ====
section
/-! DEFINITION. Output precedence (R35 to R40), host loss (R256), protection locks, the clamp bucket (R192), ramps (R137),
supply-fault locks (R251), and the completion of an operation (R305). -/

namespace Sys2Proof.Machine

/-- The even member of a channel's pair position (R56). -/
def evenOf (c : Ch) : Ch := ⟨c.val - c.val % 2, by omega⟩
/-- The other member. -/
def partnerOf (c : Ch) : Ch := if c.val % 2 = 0 then ⟨(c.val + 1) % 16, Nat.mod_lt _ (by decide)⟩ else evenOf c
/-- The channel that leads: the even member of a pair, otherwise the channel itself (R57). -/
def State.lead (s : State) (c : Ch) : Ch := if (s.ch c).paired then evenOf c else c
/-- The odd member of a pair. -/
def State.oddMember (s : State) (c : Ch) : Bool := (s.ch c).paired && c.val % 2 == 1
/-- Both members of a pair, or the channel alone. -/
def State.members (s : State) (c : Ch) : List Ch := if (s.ch c).paired then [evenOf c, partnerOf (evenOf c)] else [c]

/-- Modem overlay, sensor supply and WIRE of the wiring option byte (Table 4 of 02_channel_modes). -/
def Chan.mdmOn (ch : Chan) : Bool := bit ch.wiring 6
def Chan.ssup (ch : Chan) : Bool := bit ch.wiring 5
def Chan.wire1 (ch : Chan) : Bool := bit ch.wiring 0

/-- The de-energised state of R37. -/
def deenergised (m : Mode) : Demand :=
  match m with
  | .aoi => .cur 0
  | .aot => .cur 3500000
  | _ => .off

/-- A demand in the terms of a mode: a level that was set in another kind of mode demands the de-energised state. -/
def normDemand (m : Mode) (d : Demand) : Demand :=
  match m, d with
  | .dout, .on => .on
  | .dop, .on => .on
  | .aoi, .cur n => .cur (min n 24000000)
  | .aot, .cur n => .cur (max 3500000 (min n 24000000))
  | _, _ => deenergised m

/-- Energised at level 5 (R55, R252): on, or a current above the de-energised one. -/
def energised (m : Mode) (d : Demand) : Bool := normDemand m d != deenergised m

/-- An AOT channel with POLLADR ≠ 0 is parked (R159). -/
def Chan.parked (ch : Chan) : Bool := ch.mode == .aot && ch.mdmOn && fld ch.mdm.word 21 16 != 0

/-- A mode change waits for its reversal instant (R212). -/
def Chan.modeMoving (ch : Chan) : Bool :=
  match ch.moved with
  | some m => (match m.kind with | .mode _ _ _ => true | .demand _ _ => false)
  | none => false

/-- A mode change is in progress, from its acceptance to the end of its step 4 (Tables 6 and 7 of 02_channel_modes). -/
def Chan.inChange (ch : Chan) : Bool := ch.modeMoving || ch.changing.isSome

/-- The old output is de-energised, or every terminal is at high impedance: steps 2 and 3 of Table 6 of 02_channel_modes. -/
def Chan.inBreak (ch : Chan) : Bool := match ch.changing with | some g => !g.entered | none => false

/-- What an action does to a target (Table 5 of 05_thresholds_dosing); none where it is not executed. -/
def actDemand (ch : Chan) (k : ActKind) : Option Demand :=
  if ch.parked || ch.inChange then none
  else
    match ch.mode, k with
    | .dout, .off => some .off
    | .dout, .on => some .on
    | .dop, .off => some .off
    | .dop, .on => some .on
    | .aoi, .off => some (.cur 0)
    | .aoi, .cur u => some (.cur (u * 1000))
    | .aot, .off => some (.cur 3500000)
    | .aot, .cur u => some (.cur (max 3500000 (min (u * 1000) 24000000)))
    | _, _ => none

/-- The level of an input at a voltage in mV (Table 1 of 07_digital_inputs): above the rising threshold of its type it is on, below
the falling one off, and in between as it was. -/
def inputLevel (w : BitVec 32) (was : Bool) (mv : Int) : Bool :=
  let th : Int × Int := if fld w 15 14 = 0 then (13000, 11000) else (9000, 7500)
  if th.1 ≤ mv then true else if mv ≤ th.2 then false else was

/-- The input of a map entry is active (R263). -/
def State.burActive (s : State) (c : Ch) : Bool :=
  let e := (s.ch (s.lead c)).bmap
  ((s.holm (bankOf c)).burIn[(⟨fld e.bflags 5 4 % 4, Nat.mod_lt _ (by decide)⟩ : Fin 4)]) != bit e.bflags 6

/-- Burrow demand by mode (Table 6 of 10_supplies_and_safe_states). -/
def State.burDemand (s : State) (c : Ch) : Demand :=
  let e := (s.ch (s.lead c)).bmap
  let m := (s.ch c).mode
  if m.isSwitch then (if s.burActive c then .on else .off)
  else normDemand m (.cur (if s.burActive c then e.iact.toNat else e.iinact.toNat))

/-- What an applied safe state demands (Table 4 of 10_supplies_and_safe_states, R263). -/
def State.safeDemand (s : State) (c : Ch) (h : HostLoss) : Demand :=
  let ch := s.ch (s.lead c)
  let m := (s.ch c).mode
  match fld ch.safety 2 0 with
  | 1 => normDemand m .on
  | 2 => normDemand m h.held
  | 3 => normDemand m (.cur (fld ch.safety 63 32))
  | 4 =>
    match fld ch.bmap.bflags 3 2 with
    | 1 => normDemand m h.atEnd
    | 2 => s.burDemand c
    | _ => deenergised m
  | _ => deenergised m

/-- What level 3 demands while it is active (R256). -/
def State.l3Demand (s : State) (c : Ch) (h : HostLoss) : Demand :=
  if h.safe then s.safeDemand c h else normDemand (s.ch c).mode h.held

/-- A lock stands on the channel or, in a pair, on either member (R57). -/
def State.locked (s : State) (c : Ch) : Bool := (s.members c).any (fun d => (s.ch d).locks.any)

/-- The first level-4 hold whose action the target executes (R38, R53, R126); the leader of a pair decides for both (R57). -/
def State.actFor (s : State) (c : Ch) : Option Demand :=
  (s.ch (s.lead c)).acts.findSome? (fun a => actDemand (s.ch (s.lead c)) a.kind)

/-- The DAC code a trim session drives at level 5 (Table 8 of 06_loops_and_modem). -/
def trimCode : TrimSession → Option Nat
  | .none => none
  | .atC4 => some 10667
  | .atC20 _ => some 53333

/-- The current that the code of a trim session stands for (R146, R147): its nominal 375 nA per code under factory trim, the trim's own
point under a user trim. -/
def Loop.trimNa (l : Loop) : Option Nat :=
  match l.session, l.trim with
  | .none, _ => none
  | .atC4, .factory => some 4000125
  | .atC4, .user m4 _ => some m4
  | .atC20 _, .factory => some 19999875
  | .atC20 _, .user _ m20 => some m20

/-- Both lanes of a Holm's link deliver frames (R29). -/
def State.whole (s : State) (b : Bank) : Bool := (s.holm b).link && !(s.holm b).deaf

/-- The Holm's channels hold the mode and settings that Mainland knows: not between its lockout and the establishment of its
link that follows (R248, R267). -/
def State.holmLive (s : State) (b : Bank) : Bool := !(s.holm b).restarted

/-- The mode in which a channel works: OFF from its Holm's lockout to the establishment of the link that follows (R267). -/
def State.modeNow (s : State) (c : Ch) : Mode := if s.holmLive (bankOf c) then (s.ch c).mode else .off

/-- The governing level and its demand (R35); level 0 outside output modes (R340). In the break of a mode change the old output
is de-energised whatever the levels from 2 on demand (Table 7 of 02_channel_modes), and a parked channel stands at 4.0 mA at
level 5 (R159). -/
def State.govern (s : State) (c : Ch) : Nat × Demand :=
  let ch := s.ch c
  let ld := s.ch (s.lead c)
  if !ch.mode.isOutput || !s.holmLive (bankOf c) then (0, .off)
  else if s.locked c then (1, deenergised ch.mode)
  else if ch.inBreak then (5, if ch.mode.isLoopOut then .cur 0 else .off)
  else if s.burrowOn c then (2, s.burDemand c)
  else
    match ld.l3 with
    | some h => (3, s.l3Demand c h)
    | none =>
      match s.actFor c with
      | some d => (4, d)
      | none => (5, match ch.loop.trimNa with
                    | some n => .cur (if ch.parked then 4000000 else n)
                    | none => if ch.parked then .cur 4000000 else normDemand ch.mode ld.l5)

/-- Ramp rate at level 5 in nA per tick (R137): SLEW units of 0.1 mA/ms are 10 nA per tick; MDM = 1 takes 0 as 1. -/
def Chan.slewRate (ch : Chan) : Nat :=
  let w := fld ch.loop.word 23 16
  10 * (if w = 0 && ch.mdmOn then 1 else w)

/-- The current an output stands at on its way to a target (R137). -/
def Chan.rampNow (ch : Chan) (now : Nat) : Nat :=
  match ch.out with
  | .cur t =>
    if ch.level ≠ 5 || ch.slewRate = 0 || ch.inBreak then t
    else
      let d := ch.slewRate * (now - ch.loop.rampAt)
      if ch.loop.rampFrom ≤ t then min t (ch.loop.rampFrom + d) else max t (ch.loop.rampFrom - d)
  | _ => 0

/-- The DAC code of a current (R147, R148): nominal 375 nA per code under factory trim, c(I) under a user trim. -/
def dacCode (t : Trim) (nA : Nat) : Nat :=
  match t with
  | .factory => min 65535 ((nA + 187) / 375)
  | .user m4 m20 =>
    let v := 10667 + divRound (((nA : Int) - m4) * 42666) (m20 - m4)
    (max 0 (min 65535 v)).toNat

/-- The DAC code that an output channel drives at a time (R132, R147): the code of a trim session while it governs, otherwise
that of the current it stands at. -/
def Chan.dacNow (ch : Chan) (now : Nat) : Nat :=
  match trimCode ch.loop.session with
  | some k => if ch.level = 5 && !ch.parked then k else dacCode ch.loop.trim (ch.rampNow now)
  | none => dacCode ch.loop.trim (ch.rampNow now)

/-- The slot that an operation holds; operations of chain slots carry TAG 0 and are named by their object and
SEQ (R299). -/
def slotIs (r : Req) (sl : Slot) : Bool := sl.req.tag == r.tag && (r.tag != 0 || (sl.req.obj == r.obj && sl.req.seq == r.seq))

def setSlot (p : Port) (r : Req) (f : Slot → Slot) (s : State) : State :=
  s.setPort p (fun q => { q with slots := q.slots.map (fun sl => if slotIs r sl then f sl else sl) })

/-- The bank that an operation is sent to, if any (R30): that of its channel or Holm object. -/
def objBank (o : BitVec 16) : Option Bank :=
  match chOf o with
  | some c => some (bankOf c)
  | none => holmOf o

/-- An operation's status is fixed on Mainland (R305): its record is delivered by a later step. -/
def finishHere (op : BitVec 16) (r : Req) (st : Byte) (data : List Byte) (delay : Nat) (s : State) : State :=
  let c : Completion := Completion.mk r op (r.tag == 0) st data (s.sys.now + delay)
  let s := setSlot r.port r (fun sl => { sl with
    st := .executing
    deferAt := none
    defTicks := sl.defTicks + (match sl.deferAt with | some t => s.sys.now - t | none => 0) }) s
  { s with completions := s.completions ++ [c] }

/-- An operation's status is fixed `delay` ticks from now (R305): it enters the journal of its Holm (R30) and waits for its
record to be delivered; while the link is lost it waits in the Holm. -/
def finish (op : BitVec 16) (r : Req) (st : Byte) (data : List Byte) (delay : Nat) (s : State) : State :=
  match objBank r.obj with
  | some b =>
    let t := s.setHolm b (fun h => { h with linkOp := h.linkOp + 1, journal := ((h.linkOp, st) :: h.journal).take 256 })
    if (s.holm b).link then finishHere op r st data delay t
    else t.setHolm b (fun h => { h with
      held := h.held ++ [Completion.mk r op (r.tag == 0) st data (s.sys.now + delay)] })
  | none => finishHere op r st data delay s

/-- A trim session that a level 1 to 4 change, a mode change or host loss ends (R149): a waiting LOOP.TRIM completes
E_ABORTED. -/
def endTrim (c : Ch) (s : State) : State :=
  if (s.ch c).loop.session = .none then s
  else
    let s := s.setCh c (fun ch => { ch with loop := { ch.loop with session := .none } })
    let isT (h : Head) : Bool := match h.kind with | .mramTrim d _ _ _ => d == c | _ => false
    let gone := s.badger.heads.filter isT
    overAll gone (fun h s => match h.req with | some r => finish h.opcode r stE_ABORTED [] 0 s | none => s)
      (s.setBadger (fun b => { b with heads := b.heads.filter (fun h => !isT h) }))

/-- Level 5 of a channel after a write: a parked one stays at 4.0 mA (R159). -/
def Chan.putL5 (ch : Chan) (d : Demand) : Demand := if ch.parked then .cur 4000000 else d

/-- Writes level 5 of an output, both members of a pair (R57). -/
def setL5 (c : Ch) (d : Demand) (s : State) : State :=
  overAll (s.members c) (fun m s => s.setCh m (fun ch => { ch with l5 := ch.putL5 d })) s

/-- Level 5 takes the de-energised state of R37, and an alarm is driven no longer. -/
def dropL5 (c : Ch) (s : State) : State :=
  overAll (s.members c) (fun m s => s.setCh m (fun ch => { ch with
    l5 := ch.putL5 (deenergised ch.mode)
    loop := { ch.loop with alarm := false, fallback := false } })) s

/-- The governing hold, the first that its target executes, has written level 5 (R38). -/
def writeFirst (ch : Chan) : List ActHold → List ActHold
  | [] => []
  | a :: rest =>
    if (actDemand ch a.kind).isSome then { a with written := true } :: rest else a :: writeFirst ch rest

/-- One sequencer evaluation of one channel (R36, R38): the output takes the state of the highest active level; a hold that
governs for the first time writes level 5. Drive by the pulse generator takes only on edges from its start on (R202). At level 5 a loop
current ramps from where it stands (R137), but the codes of a trim session are driven at once (R146). -/
def evalOne (c : Ch) (s : State) : State :=
  let ch := s.ch c
  let g := s.govern c
  let now := s.sys.now
  let on : Bool :=
    match ch.mode with
    | .dout => g.2 == .on
    | .dop => g.2 == .on && ch.out == .on && ch.conducting
    | _ => false
  let ramp := ch.mode.isLoopOut && (g.2 != ch.out || g.1 != ch.level)
  let moved := on != ch.conducting || (ch.mode.isLoopOut && g.2 != ch.out)
  let from_ := if g.1 = 5 && (ch.loop.session == .none || ch.parked) then ch.rampNow now else (match g.2 with | .cur n => n | _ => 0)
  let s := s.setCh c (fun ch => { ch with
    level := g.1
    out := g.2
    conducting := on
    sw := { ch.sw with
      limiting := ch.sw.limiting && on
      edgeFrom := if ch.mode == .dop && g.2 == .on && ch.out != .on then (s.tbNow (bankOf c) : Int) - 1 else ch.sw.edgeFrom
      onSince := if on && !ch.conducting then now else ch.sw.onSince
      lrnDone := ch.sw.lrnDone && !(on && !ch.conducting)
      offSince := if !on && ch.conducting then now else ch.sw.offSince }
    loop := if ramp then { ch.loop with rampFrom := from_, rampAt := now } else ch.loop })
  let s := if moved then noteEdge (bankOf c) now on s else s
  let s := if g.1 ≠ 0 && g.1 ≠ 5 then endTrim c s else s
  if g.1 = 4 && ((s.ch (s.lead c)).acts.find? (fun a => (actDemand (s.ch (s.lead c)) a.kind).isSome)).any (fun a => !a.written) then
    s.setCh (s.lead c) (fun ld => { ld with
      l5 := g.2
      loop := { ld.loop with alarm := false, fallback := false }
      acts := writeFirst ch ld.acts })
  else s

/-- Evaluates a channel and, in a pair, both members in the same evaluation (R57). -/
def evalOut (c : Ch) (s : State) : State := overAll (s.members c) evalOne s

/-- Evaluates every channel of a bank. -/
def evalBank (b : Bank) (s : State) : State := overAll (bankChs b) evalOne s

/-- θ in 1/16 °C from 10⁻¹² °C. -/
def thetaSixteenths (t : Int) : Int := divRound (t * 16) 1000000000000

/-- The payload of switch events (R214). -/
def swPayload (s : State) (c : Ch) (kind : Byte) : List Byte :=
  let ch := s.ch c
  [kind, 0] ++ le16 (satN ch.sw.icur 16) ++ leSigned (ch.sw.tj - (s.holm (bankOf c)).case) 2 ++
    leSigned (thetaSixteenths ch.sw.theta) 2 ++ le16 (satN (ch.sw.bucket / 100) 16) ++
    le48 (s.stamp (bankOf c) % 2 ^ 48)

/-- A switch event with a Den record of a severity (R214). -/
def swEvent (c : Ch) (k : Nat) (kind : Byte) (sev : Nat) (s : State) : State :=
  notifyCh c k (swPayload s c kind) (some sev) s

/-- A restore is due for a channel: RSAG = 1 and an energised pre-sag state (R252). -/
def Chan.restoreDue (ch : Chan) : Bool :=
  bit ch.safety 4 && (match ch.presag with | some d => energised ch.mode d | none => false)

/-- A restore that is submitted, or that still waits for its fault or shed state to end, is cancelled and recorded (R253; log
entry 37). -/
def cancelRestore (c : Ch) (s : State) : State :=
  let ch := s.ch c
  let submitted := ch.restore != .none
  let isR (h : Head) : Bool := match h.kind with | .restore d _ => d == c | _ => false
  let s := if submitted then
      endInternal (.restore c) (s.setBadger (fun b => { b with heads := b.heads.filter (fun h => !isR h) }))
    else s
  let t := s.setCh c (fun ch => { ch with restore := .none, presag := none })
  if submitted || ch.restoreDue then denEvent 1 0xFF (chObj c) [] t else t

/-- Sets a protection lock on a channel, in a pair on both members (R57), and evaluates; it cancels a pending restore
(R253). -/
def setLock (c : Ch) (f : Locks → Locks) (s : State) : State :=
  let s := assertFault s
  let s := overAll (s.members c) (fun m s => cancelRestore m (s.setCh m (fun ch => { ch with locks := f ch.locks }))) s
  evalOut c s

/-- V_CL in mV at a field supply (R191): the larger of 48 V and VF + 10 V. -/
def clampMv (vf : Int) : Int := max 48000 (vf + 10000)

/-- The clamp energy of a turn-off in 0.01 mJ (R191): the integral of V_CL × I over the clamp interval, in steps of 1 µs. -/
def clampEnergy (vf : Int) (m : ClampMeas) : Nat := (clampMv vf).toNat * m.currents.sum / 40000000

/-- The current at the turn-off, in 250 µA. -/
def clampStart (m : ClampMeas) : Nat := m.currents.headD 0

/-- The clamp energy of a channel's latest turn-off, with that of the other member of its pair in the same turn-off (R208). -/
def State.pulseSum (s : State) (c : Ch) : Nat :=
  ((s.members c).map (fun m => if (s.ch m).sw.pulse.1 == (s.ch c).sw.pulse.1 then (s.ch m).sw.pulse.2 else 0)).sum

/-- A turn-off that the sequencer measured (R191 to R193): the bucket fills, E_last and I_last follow a turn-off of more than
50 mA, and the clamp lock is set when one pulse, a pair's of both members (R208), exceeds 250 mJ (kind 0x02) or the bucket reaches
CAPMJ (kind 0x01); of both at once the pulse is reported (DESIGN CHOICE, log entry 125). -/
def clampPulse (c : Ch) (m : ClampMeas) (s : State) : State :=
  let e := clampEnergy (s.holm (bankOf c)).vf m
  let s := s.setCh c (fun ch => { ch with sw := { ch.sw with
    bucket := ch.sw.bucket + e
    pulse := (ch.sw.offSince, e)
    elast := if clampStart m > 200 then e else ch.sw.elast
    ilast := if clampStart m > 200 then clampStart m else ch.sw.ilast } })
  let full := (s.ch c).sw.bucket ≥ 100 * fld (s.ch c).sw.prot 47 32
  if e > 0 && decide (s.pulseSum c > 25000) then swEvent c 1 0x02 3 (setLock c (fun l => { l with clamp := true }) s)
  else if full && e > 0 then swEvent c 1 0x01 3 (setLock c (fun l => { l with clamp := true }) s)
  else s

/-- A measured turn-off counts when the step has turned the switch off. -/
def clampAfter (c : Ch) (m : ClampMeas) (before after : State) : State :=
  if (before.ch c).conducting && !(after.ch c).conducting && (before.ch c).mode.isSwitch then clampPulse c m after else after

/-- The state that an output has now, a ramp at its present current (R256). -/
def State.stateNow (s : State) (c : Ch) : Demand :=
  if (s.ch c).mode.isLoopOut then .cur ((s.ch c).rampNow s.sys.now) else (s.ch c).out

/-- Host loss is detected for a channel with an output (R256, log entry 38): level 3 holds the present state; HOLD_T of its
Holm runs from here; a pending restore is cancelled (R253). The link loss that follows a lockout cancels no restore (R267). -/
def hostLoss (c : Ch) (s : State) : State :=
  let ch := s.ch c
  match ch.l3, ch.mode.isOutput with
  | some _, _ => if s.holmLive (bankOf c) then cancelRestore c s else s
  | none, false => s
  | none, true =>
    let held := s.stateNow c
    let t := (s.holm (bankOf c)).holdT.toNat
    let l3 : HostLoss :=
      { held := held, due := if t = 0xFFFF || t = 0 then none else some (s.sys.raw + msTicks t), safe := t = 0,
        atEnd := held }
    let s := s.setCh c (fun ch => { ch with l3 := some l3 })
    evalOne c (if s.holmLive (bankOf c) then cancelRestore c s else s)

/-- Host loss of several channels; the members of a pair are held together. -/
def hostLossAll (l : List Ch) (s : State) : State :=
  overAll l (fun c s => evalOut c s) (overAll l hostLoss s)

/-- The level-5 state just before a supply fault or shedding is kept for its restore, with the alarm that it drove (R140, R251, R252). -/
def Chan.sagged (ch : Chan) : Chan :=
  if ch.presag.isSome then ch
  else { ch with presag := some ch.l5, loop := { ch.loop with sagAlarm := if ch.loop.alarm then some ch.loop.fallback else none } }

/-- A supply fault locks the output of a channel in an output mode; the level-5 state just before is kept (R246, R247, R250,
R251). -/
def supplyLock (c : Ch) (f : Locks → Locks) (s : State) : State :=
  if (s.modeNow c).isOutput then
    evalOne c ((assertFault s).setCh c (fun ch => { ch.sagged with locks := f ch.locks }))
  else s

/-- A supply-fault state ends for a channel: level 5 first takes the de-energised state and then its lock is released (R251); the
evaluation follows for the whole bank, so that both members of a pair change together (R57). -/
def supplyUnlock (c : Ch) (f : Locks → Locks) (s : State) : State :=
  if f (s.ch c).locks = (s.ch c).locks then s
  else
    s.setCh c (fun ch => { ch with
      locks := f ch.locks
      l5 := ch.putL5 (deenergised ch.mode)
      loop := { ch.loop with alarm := false, fallback := false } })

/-- Supply-fault locks of one kind end on a bank (R251). -/
def supplyUnlockBank (b : Bank) (f : Locks → Locks) (s : State) : State :=
  evalBank b (overAll (bankChs b) (fun c s => supplyUnlock c f s) s)

end Sys2Proof.Machine
end

