-- ==== Sys2Proof/Machine/Mail.lean ====
section
/-! DEFINITION. How a mailbox command runs: opcodes and the objects they accept (Tables 7, 9, 10, 14), ownership (R54, R327),
legal rights (R49, R331), priorities (R229), the object queues and fences (R34, R316, R317), and the frame every command's own
checks stand in. -/

namespace Sys2Proof.Machine

/-- Every opcode of Table 14 of 12_mailbox_operations and Table 10 of 18_reference_tables (R337, R461). -/
def opcodeList : List Nat :=
  [0x0101, 0x0102, 0x0103, 0x0104, 0x0105] ++
  [0x0201, 0x0202, 0x0203, 0x0204, 0x0205, 0x0206, 0x0207, 0x0208, 0x0209, 0x020A, 0x020B, 0x020C, 0x020D] ++
  [0x0301, 0x0302, 0x0303, 0x0304, 0x0305, 0x0306, 0x0307] ++ [0x0401, 0x0402, 0x0403, 0x0404, 0x0405] ++
  [0x0501, 0x0502, 0x0503, 0x0601, 0x0602, 0x0603, 0x0701, 0x0702, 0x0703, 0x0704] ++
  [0x0801, 0x0802, 0x0803, 0x0901, 0x0902, 0x0903, 0x0A01, 0x0A02, 0x0A03, 0x0A04, 0x0A05] ++
  [0x0B01, 0x0B02, 0x0B03, 0x0B04, 0x0B05, 0x0B06, 0x0C01, 0x0C02, 0x0C03] ++
  [0x0D01, 0x0D02, 0x0D03, 0x0D04, 0x0E01, 0x0E02, 0x0F01, 0x0F02, 0x0F03, 0x0F04]

/-- The family byte of an opcode (R460). -/
def family (op : BitVec 16) : Nat := op.toNat / 256

/-- Commands of the CH family that address a Holm object. -/
def holmOps : List Nat := [0x0205, 0x020B, 0x020D]

/-- The objects an opcode accepts (R458, Tables 10 and 14). -/
def opAccepts (op obj : BitVec 16) : Bool :=
  let isCh := (chOf obj).isSome
  let isHolm := (holmOf obj).isSome
  let isUnit := (unitOf obj).isSome
  let isPort := (portOf obj).isSome
  match family op with
  | 1 => if op = 0x0104 then isPort else obj == 0x0700
  | 2 => if holmOps.contains op.toNat then isHolm
         else if op = 0x0207 || op = 0x0208 then isCh && obj.toNat % 2 == 0 else isCh
  | 3 | 4 | 5 | 6 | 7 => isCh
  | 8 => if op = 0x0803 then isCh else obj == 0x0200
  | 9 => obj == 0x0300
  | 10 => isUnit
  | 11 => obj == 0x0500
  | 12 => obj == 0x0600
  | 13 => if op = 0x0D04 then obj == 0x0700 else if op = 0x0D03 then isCh || isPort
          else isCh || isHolm || isUnit || obj == 0x0200
  | 14 => obj == 0x0700
  | 15 => isPort
  | _ => false

/-- Commands accepted during a recovery start (R306 step 6, R461). -/
def recoveryOp (op : BitVec 16) : Bool :=
  family op == 1 || family op == 11 || family op == 12 || op == 0x0901 || op == 0x0902 || op == 0x0A05

/-- The owner of an object (R327); a port object belongs to its port. -/
def State.ownerOf (s : State) (obj : BitVec 16) : Option Port :=
  match chOf obj with
  | some c => (s.ch c).owner
  | none =>
    match holmOf obj with
    | some b => (s.holm b).owner
    | none =>
      match unitOf obj with
      | some u => (s.unit u).owner
      | none => if obj = 0x0200 then s.badger.owner else portOf obj

def State.owns (s : State) (p : Port) (obj : BitVec 16) : Bool := s.ownerOf obj == some p

/-- The port is the legal port (R331; none on the HY1624-PA, R3). -/
def State.isLegalPort (s : State) (p : Port) : Bool := s.legal.port == some p

/-- The channel is declared legal (R333). -/
def State.isLegal (s : State) (c : Ch) : Bool := bit s.legal.mask c.val

/-- Legal conditions of Table 5 of 02_channel_modes: a legal channel needs the legal port and the open seal. -/
def State.legalOk (s : State) (p : Port) (c : Ch) : Bool :=
  !s.isLegal c || (s.isLegalPort p && !s.legal.sealed)

/-- Legal conditions that hold whatever the seal (R119, R130, R258). -/
def State.legalPortOk (s : State) (p : Port) (c : Ch) : Bool := !s.isLegal c || s.isLegalPort p

/-- Commands whose sender must own the object, by opcode (Sender column of Tables 10 and 14). -/
def ownerOps : List Nat :=
  [0x0201, 0x0203, 0x0204, 0x0207, 0x0208, 0x0209, 0x020C] ++
  [0x0301, 0x0302, 0x0303, 0x0304, 0x0305, 0x0306, 0x0307, 0x0401, 0x0403, 0x0404, 0x0405] ++
  [0x0501, 0x0502, 0x0503, 0x0601, 0x0602, 0x0603, 0x0701, 0x0702, 0x0703, 0x0704] ++
  [0x0801, 0x0803, 0x0A01, 0x0A02, 0x0A03, 0x0A04, 0x0D02, 0x0D03, 0x0104, 0x0F01, 0x0F02, 0x0F03, 0x0F04]

/-- The command needs an ownership that its sender lacks (R54, R306 step 8, R174, R255, R257, R260, R264). -/
def State.lacksOwner (s : State) (op : BitVec 16) (r : Req) : Bool :=
  if ownerOps.contains op.toNat then !s.owns r.port r.obj
  else if op = 0x020A then (byteAt r.payload 0 &&& 7) != 0 && !s.owns r.port r.obj
  else if op = 0x020B then !(s.owns r.port r.obj || s.isLegalPort r.port)
  else if op = 0x020D then byteAt r.payload 0 != 0 && !(s.owns r.port r.obj || s.isLegalPort r.port)
  else false

/-- Commands on a channel that change the legal configuration when the channel is legal (R333): of LOOP.TRIM the steps that
commit (Table 8 of 06_loops_and_modem). -/
def legalOps (op : BitVec 16) (r : Req) : Bool :=
  [(0x0201 : BitVec 16), 0x0203, 0x0204, 0x0209, 0x0501, 0x0502, 0x0503].contains op ||
    (op == 0x0603 && (byteAt r.payload 0 == 3 || byteAt r.payload 0 == 4))

/-- The status of such a command: E_OWNER, and E_LEGAL where no port is legal and it would change the stored legal configuration
(R331). -/
def State.ownerStatus (s : State) (op : BitVec 16) (r : Req) : Byte :=
  if s.legal.port.isNone && legalOps op r && (match chOf r.obj with | some c => s.isLegal c | none => false) then stE_LEGAL
  else stE_OWNER

/-- LEGAL may be requested by the legal port for a legal channel or for the legal configuration (R229). -/
def State.mayRequestLegal (s : State) (op : BitVec 16) (r : Req) : Bool :=
  s.isLegalPort r.port &&
    (match chOf r.obj with
     | some c => s.isLegal c
     | none => op == 0x0E02)

/-- The link of the Holm that an operation would be sent to is up, or it is sent to none (R29). -/
def State.linkOk (s : State) (obj : BitVec 16) : Bool :=
  match objBank obj with
  | some b => (s.holm b).link
  | none => true

/-- An earlier command on the object has not completed: a moved change (R213), a mode change or a change of the boot record under way, a waiting swap or plan, a deferred head, or a
completion still to come. -/
def State.objBusy (s : State) (obj : BitVec 16) : Bool :=
  s.completions.any (fun c => c.req.obj == obj && s.sys.now < c.tdone) ||
    s.badger.heads.any (fun h => match h.req with | some r => r.obj == obj | none => false) ||
    (obj == 0x0500 && s.upd.work.isSome) ||
    (match chOf obj with
     | some c => (s.ch c).moved.isSome || (s.ch c).changing.isSome || (s.ch c).filt.swap.isSome ||
        (match (s.holm (bankOf c)).pend with
         | some p => p.waiters.any (fun w => w.req.obj == obj)
         | none => false)
     | none => false)

/-- The slot of an operation. -/
def State.slotOf (s : State) (op : BitVec 16) (r : Req) : Option Slot :=
  (s.port r.port).slots.find? (fun sl => slotIs r sl && sl.opcode == op)

/-- A slot stands at the head of its object queue (R34, R316). -/
def State.atHead (s : State) (sl : Slot) : Bool :=
  !allPorts.any (fun p => (s.port p).slots.any (fun x =>
    x.req.obj == sl.req.obj && x.st != .completed && x.order < sl.order))

/-- A fenced slot waits for every earlier slot of its port (R317). -/
def State.fenceOk (s : State) (sl : Slot) : Bool :=
  !sl.req.fence || !(s.port sl.req.port).slots.any (fun x => !x.chain && x.st != .completed && x.order < sl.order)

/-- The core that serves the command is running (R19, R344): C7 for the DEN, CRC, UPD, SEC and LGL families. -/
def State.coreServes (s : State) (op : BitVec 16) : Bool :=
  s.sys.vddOk && !((family op == 9 || family op == 10 || family op == 11 || family op == 12 || family op == 14) && s.coreDown 7)

/-- The slot an update writes: the inactive one. -/
def Upd.other (u : Upd) : Fin 2 := 1 - u.active

/-- LCHG: the legal digest of the other slot's image differs from the running one's (R402); 0 on the HY1624-PA. -/
def State.lchg (s : State) : Bool :=
  s.sys.order != 2 &&
    (match s.upd.info[s.upd.other], s.upd.info[s.upd.run] with
     | some a, some b => a.legdig != b.legdig
     | _, _ => false)

/-- The payload length of the legal record that a command needs, if it needs one (Table 4 of 14_den_recorder, Table 11 of
15_start_update_security): LEGCFG, LEGACT, LEGCONF, and the CLEAR of the legal region. -/
def State.legalNeed (s : State) (op : BitVec 16) (r : Req) : Option Nat :=
  if s.sys.order = 2 then none
  else if op = 0x0E02 || (legalOps op r && (match chOf r.obj with | some c => s.isLegal c | none => false)) then
    some (112 + min 64 r.payload.length)
  else if op = 0x0B04 && s.lchg then some 188
  else if op = 0x0B05 && s.upd.trialLegal then some 52
  else if op = 0x0903 && byteAt r.payload 0 = 1 then some 124
  else none

/-- An action that needs a legal record waits until C7 can write and read it back and the buffer can take it (R365; log entry
97). -/
def State.legalWaits (s : State) (op : BitVec 16) (r : Req) : Bool :=
  match s.legalNeed op r with
  | some n => s.coreDown 7 || decide (s.badger.bufLimit < 36 + (n + 3) / 4 * 4)
  | none => false

/-- The journal of a Holm's link is still to be read (R30, R314). -/
def State.journalWaits (s : State) (b : Bank) : Bool :=
  s.sys.internal.any (fun o => match o with | .journal d _ => d == b | _ => false)

/-- Operations to the Holm of an object wait for its journal (R30). -/
def State.mustWait (s : State) (obj : BitVec 16) : Bool := match objBank obj with | some b => s.journalWaits b | none => false

/-- The command may execute now: nothing earlier on its object is unfinished, its fence is satisfied, its core serves, and neither a
legal record nor its link's journal keeps it waiting.
A command that holds a slot executes once, from QUEUED or FENCED. -/
def State.opReady (s : State) (op : BitVec 16) (r : Req) : Bool :=
  s.coreServes op && !s.objBusy r.obj && !s.legalWaits op r && !s.mustWait r.obj &&
    (match s.slotOf op r with
     | some sl => (sl.st == .queued || sl.st == .fenced) && s.atHead sl && s.fenceOk sl
     | none => true)

/-- The Holm that an operation would be sent to without being heard: its lane to it is lost, and Mainland does not know it (R29). -/
def State.unheard (s : State) (obj : BitVec 16) : Option Bank :=
  match objBank obj with
  | some b => if (s.holm b).deaf then some b else none
  | none => none

/-- An operation is sent and not heard: its link's journal will not hold it, and it completes with E_ABORTED when that is read (R30;
DEDUCED, log entry 151). -/
def sendUnheard (b : Bank) (op : BitVec 16) (r : Req) (s : State) : State :=
  (setSlot r.port r (fun sl => { sl with st := .executing }) s).setHolm b (fun h => { h with
    held := h.held ++ [Completion.mk r op (r.tag == 0) stE_ABORTED [] s.sys.now] })

/-- The deadline of an operation's slot has passed (R318). -/
def State.opLate (s : State) (op : BitVec 16) (r : Req) : Bool :=
  match s.slotOf op r with
  | some sl => r.deadline != 0 && decide (sl.takenAt + msTicks r.deadline.toNat ≤ s.sys.now)
  | none => false

/-- The checks that stand before a command's own: its deadline, which has passed while it was QUEUED or FENCED (R318), its object, a recovery start, ownership (again at execution, R328), the
priority it requests (R229) and its Holm's link (R29); log entry 23 gives the order. -/
def State.preFail (s : State) (op : BitVec 16) (r : Req) : Option Byte :=
  firstFail [(!s.opLate op r, stE_TIMEOUT),
    (opAccepts op r.obj, stE_RANGE),
    (!s.recovery || recoveryOp op, stE_STATE),
    (!s.lacksOwner op r, s.ownerStatus op r),
    (r.prio != 3, stE_RANGE),
    (r.prio != 2 || s.mayRequestLegal op r, stE_LEGAL),
    (s.linkOk r.obj, stE_STATE)]

/-- What a command's own part answers: it completes with a status, a payload and a delay in ticks, or goes on and a later
step completes it. -/
inductive Res where
  | done (s : State) (st : Byte) (data : List Byte) (delay : Nat)
  | held (s : State)

/-- A command's own part has answered: it completes, or a later step completes it. -/
def Res.ends (op : BitVec 16) (r : Req) : Res → State
  | .done t st data delay => finish op r st data delay t
  | .held t => t

/-- Runs a mailbox command. -/
def runMail (op : BitVec 16) (r : Req) (s : State) (body : State → Res) : State :=
  if s.opReady op r then
    match s.preFail op r with
    | some st => finishHere op r st [] 0 s
    | none =>
      match s.unheard r.obj with
      | some b => sendUnheard b op r s
      | none => (body (setSlot r.port r (fun sl => { sl with st := .executing }) s)).ends op r
  else s

/-- A command on a channel object. -/
def runCh (op : BitVec 16) (r : Req) (s : State) (body : Ch → State → Res) : State :=
  runMail op r s (fun s => match chOf r.obj with | some c => body c s | none => .done s stE_RANGE [] 0)

/-- A command on a Holm object. -/
def runHolm (op : BitVec 16) (r : Req) (s : State) (body : Bank → State → Res) : State :=
  runMail op r s (fun s => match holmOf r.obj with | some b => body b s | none => .done s stE_RANGE [] 0)

/-- A command on a check-value unit. -/
def runUnit (op : BitVec 16) (r : Req) (s : State) (body : Fin 4 → State → Res) : State :=
  runMail op r s (fun s => match unitOf r.obj with | some u => body u s | none => .done s stE_RANGE [] 0)

/-- The command's own checks, in order; the first that fails sets the status and nothing changes. -/
def checked (l : List (Bool × Byte)) (s : State) (k : Res) : Res :=
  match firstFail l with
  | some st => .done s st [] 0
  | none => k

/-- Completes OK at once. -/
def ok (s : State) : Res := .done s stOK [] 0
/-- Completes OK at once with a payload. -/
def okData (data : List Byte) (s : State) : Res := .done s stOK data 0

/-- The settings of the legal configuration that R333 names, as a list of numbers, whose digest LGL.GET and the legal records
carry (log entry 15): the mask and, by legal channel, mode, wiring, measurement and diagnostic words, input word, banks and
chain word, carrier rate and loop trim. -/
def bankNums : BankContent → List Nat
  | .empty => [0]
  | .desc d w => 1 :: d.toNat :: w.map (·.toNat)
  | .rom e => [2, e.val]
  | .copy e => [3, e.val]

def stageNums (g : Stage) : List Nat := bankNums g.bankA ++ bankNums g.bankB ++ [b2n g.activeB]

def trimNums : Trim → List Nat
  | .factory => [0]
  | .user a b => [1, a, b]

def legalNums (s : State) : List Nat :=
  s.legal.mask.toNat :: (allCh.filter s.isLegal).flatMap (fun c =>
    let ch := s.ch c
    [ch.legStored.mode.code, ch.legStored.wiring.toNat, ch.brg.meas.toNat, ch.brg.diag.toNat, ch.din.word.toNat] ++
      stageNums ch.filt.s1 ++ stageNums ch.filt.s2 ++ stageNums ch.filt.s3 ++
      [ch.filt.mdiv.toNat, ch.filt.sdecm1.toNat, match ch.brg.rate with | some f => f.val + 1 | none => 0] ++
      trimNums ch.loop.trim)

/-- SHA3-512 of the legal configuration; zeros on the HY1624-PA (R3, R334). -/
def State.legalDigest (s : State) : List Byte :=
  if s.sys.order = 2 then List.replicate 64 0
  else (List.range 64).map (Config.legalDigestByte (legalNums s))

/-- A LEGCFG record's content after the prefix (Table 4 of 14_den_recorder): object, opcode, tag, bytes copied, digest after
the change, payload bytes. -/
def legcfgContent (op : BitVec 16) (r : Req) (after : State) : List Byte :=
  le16 r.obj.toNat ++ le16 op.toNat ++ le16 r.tag.toNat ++ [BitVec.ofNat 8 (min 64 r.payload.length), 0] ++
    after.legalDigest ++ r.payload.take 64

/-- A LEGCFG record of the command fits the main part (R366). -/
def State.legcfgFits (s : State) (r : Req) : Bool := s.den.legalFits (112 + min 64 r.payload.length) false

/-- An accepted change to the legal configuration first writes its LEGCFG record (R333). When the legal region is full EV225 is
raised and nothing changes (R366), and when the record does not read back nothing changes either (R365). `after` is the state
whose digest the record carries; the answer is the status that ends the command, if any. Once the change has taken effect,
`legalTakes` counts it. -/
def legalNote (op : BitVec 16) (r : Req) (isLegal : Bool) (after s : State) : Option Byte × State :=
  let write (s : State) : State := legalWrite 0x0007 2 (legcfgContent op r after) (some r.port) false false s
  if isLegal && s.sys.order != 2 then
    if !s.legcfgFits r then (some stE_DEN_FULL, raise 225 [] s)
    else if !s.legalReadsBack (72 + min 64 r.payload.length) then (some stE_INTERNAL, recordInternal op r.obj (write s))
    else (none, (write s).setDen (fun d => { d with legDue := d.legDue ++ [r.obj] }))
  else (none, s)

/-- A command that changes the legal configuration at once; `f` is the change. -/
def legalChange (op : BitVec 16) (r : Req) (isLegal : Bool) (f : State → State) (k : State → Res) (s : State) : Res :=
  let n := legalNote op r isLegal (f s) s
  match n.1 with
  | some st => .done n.2 st [] 0
  | none => k (legalTakes r.obj (f n.2))

end Sys2Proof.Machine
end

