-- ==== Sys2Proof/Machine/ChainOps.lean ====
section
/-! DEFINITION. The filter chain's arithmetic: ROM responses (R95, R468), demand (R91), group delay (R92), settling length
(R93), rates and stopband edges (R69, R94), defaults (R96) and suppression (R103, R104). -/

namespace Sys2Proof.Machine

/-- Taps and decimation of the stages of a ROM response (Table 3 of 04_filter_chain). -/
def romStages (e : Nat) : List (Nat × Nat) :=
  match e with
  | 0 | 15 => [(63, 2)]
  | 1 | 11 => [(32, 8), (128, 4)]
  | 2 | 12 => [(32, 8), (64, 6), (160, 5)]
  | 3 => [(64, 16), (64, 15), (200, 10)]
  | 4 => [(40, 5), (130, 6)]
  | 5 => [(24, 3)]
  | 6 => [(31, 16), (59, 30)]
  | 7 => [(31, 16), (49, 25)]
  | 8 => [(31, 16), (29, 15), (19, 10)]
  | 9 | 13 => [(26, 4), (68, 4)]
  | 10 => [(26, 4), (26, 4), (68, 4)]
  | _ => []

/-- Stopband edge of a response in 1/100 of f_out (Table 3). -/
def romEdge (e : Nat) : Nat :=
  match e with
  | 0 | 15 => 60
  | 3 | 4 => 40
  | 5 => 75
  | 6 | 7 | 8 => 99
  | _ => 50

/-- Group delay at 0 Hz of each minimum-phase stage, in tenths of a stage input sample (R468). -/
def romMinTau (e : Nat) : Option (List Nat) :=
  match e with
  | 5 => some [24]
  | 11 => some [39, 97]
  | 12 => some [39, 75, 130]
  | 13 => some [30, 73]
  | 15 => some [51]
  | _ => none

/-- Entries made of triangular windows (Table 3: the mains-rejection entries). -/
def romTriangular (e : Nat) : Bool := e = 6 || e = 7 || e = 8

/-- Coefficient word i of a ROM stage of n taps (R95, R468): in the mains-rejection entries the triangle of a pair of boxcars of
(n + 1) / 2 taps with gain 1, in Q1.31; in the other linear-phase entries words fixed in silicon, symmetric about the middle tap; in
minimum-phase entries words fixed in silicon (log entry 12). -/
def romWord (e k n i : Nat) : BitVec 32 :=
  if romTriangular e then BitVec.ofInt 32 (divRound (2147483648 * (min (i + 1) (n - i) : Nat)) (((n + 1) / 2) ^ 2))
  else if (romMinTau e).isSome then Config.romCoeff e k i
  else Config.romCoeff e k (min i (n - 1 - i))

/-- A stage as the datapath runs it: type (0 bypass, 1 FIR, 2 biquads), taps or sections, M, L, SBE, its coefficient words
as integers, and the group delay that R468 states for a ROM stage. -/
structure SCfg where
  typ : Nat
  n : Nat
  m : Nat
  l : Nat
  sbe : Nat
  coef : Nat → Int
  tau : Option ℚ

def SCfg.bypass : SCfg := ⟨0, 0, 1, 1, 0, fun _ => 0, none⟩

/-- Stage k (0 to 2) of a ROM response (R98). -/
def romCfg (e k : Nat) : SCfg :=
  match (romStages e)[k]? with
  | none => .bypass
  | some (n, m) =>
    { typ := 1, n := n, m := m, l := 1
      sbe := if k + 1 = (romStages e).length then (256 * romEdge e + 50) / 100 else 0
      coef := fun i => (romWord e k n i).toInt
      tau := match romMinTau e with
        | some t => some ((t.getD k 0 : ℚ) / 10)
        | none => some (((n : ℚ) - 1) / 2) }

/-- The descriptor of a copied ROM stage (R98). -/
def romDesc (e k : Nat) : BitVec 64 :=
  let c := romCfg e k
  BitVec.ofNat 64 (c.typ * 2 ^ 62 + (c.n - 1) * 2 ^ 48 + (c.m - 1) * 2 ^ 40 + c.sbe * 2 ^ 24)

/-- The 256 words of a copied ROM stage. -/
def romWords (e k : Nat) : List (BitVec 32) :=
  (List.range 256).map (fun i => if i < (romCfg e k).n then romWord e k (romCfg e k).n i else 0)

/-- The stage a bank content stands for (Table 1 of 04_filter_chain). -/
def BankContent.cfg (b : BankContent) (k : Nat) : SCfg :=
  match b with
  | .empty => .bypass
  | .rom e => romCfg e.val k
  | .copy e => romCfg e.val k
  | .desc d w =>
    { typ := fld d 63 62, n := fld d 55 48 + 1, m := fld d 47 40 + 1
      l := if fld d 63 62 = 1 then fld d 39 36 + 1 else 1, sbe := fld d 31 24
      coef := fun i => (w.getD i 0).toInt, tau := none }

def Stage.active (g : Stage) : BankContent := if g.activeB then g.bankB else g.bankA
def Stage.idle (g : Stage) : BankContent := if g.activeB then g.bankA else g.bankB
def Stage.setIdle (g : Stage) (b : BankContent) : Stage :=
  if g.activeB then { g with bankA := b } else { g with bankB := b }
/-- Exchanges idle and active. -/
def Stage.swapped (g : Stage) : Stage := { g with activeB := !g.activeB }
/-- Clears the history (R100). -/
def Stage.cleared (g : Stage) : Stage := { g with hist := [], bq := [], acc := 0 }

/-- A chain as it is judged: the carrier rate code in carrier excitation, MDIV, M_0, and its three stages. -/
structure ChainCfg where
  carrier : Option (Fin 5)
  mdiv : Nat
  m0 : Nat
  st : List SCfg

/-- Carrier frequency of a rate code in Hz (Table 2 of 03_bridge_measurement). -/
def carrierHz (r : Fin 5) : Nat := 75 * 2 ^ r.val

/-- Carrier excitation: BRG with EXC 0b10 or 0b11. -/
def Chan.carrierMode (ch : Chan) : Bool := ch.mode == .brg && bit ch.brg.meas 1

/-- The rate a carrier channel runs at, or would ask for. -/
def Chan.rateNow (ch : Chan) : Fin 5 :=
  match ch.brg.rate with
  | some r => r
  | none => ⟨fld ch.brg.meas 4 2 % 5, Nat.mod_lt _ (by decide)⟩

/-- The chain that a channel runs. -/
def Chan.chain (ch : Chan) : ChainCfg :=
  { carrier := if ch.carrierMode then some ch.rateNow else none, mdiv := ch.filt.mdiv.toNat,
    m0 := ch.filt.sdecm1.toNat + 1,
    st := [ch.filt.s1.active.cfg 0, ch.filt.s2.active.cfg 1, ch.filt.s3.active.cfg 2] }

/-- f_mod in Hz (R84). -/
def ChainCfg.fmod (c : ChainCfg) : ℚ := 6291456000 / (c.mdiv : ℚ)

/-- f_in: the rate at which samples enter the stages (R87). -/
def ChainCfg.fin (c : ChainCfg) : ℚ :=
  match c.carrier with
  | some r => carrierHz r
  | none => c.fmod / c.m0

/-- P_k: input samples of stage 1 per input sample of stage k (R92). -/
def ChainCfg.p (c : ChainCfg) (k : Nat) : ℚ := (c.st.take k).foldl (fun a g => a * g.m / g.l) 1

/-- D = f_in / f_out. -/
def ChainCfg.d (c : ChainCfg) : ℚ := c.p 3
def ChainCfg.fout (c : ChainCfg) : ℚ := c.fin / c.d

/-- Demand of one stage in MAC/s at its input rate (R91). -/
def SCfg.demand (g : SCfg) (fin : ℚ) : ℚ :=
  if g.typ = 1 then (ceilDiv g.n g.l : ℚ) * (fin * g.l / g.m) + 2 * fin
  else if g.typ = 2 then (5 * g.n + 2 : ℚ) * fin
  else 0

/-- Demand of a chain in MAC/s. -/
def ChainCfg.demand (c : ChainCfg) : ℚ :=
  (((List.range 3).map (fun k => (c.st.getD k .bypass).demand (c.fin / c.p k))).foldl (· + ·) 0)

/-- Σ over words of k·h[k], and of h[k]. -/
def firMoments (g : SCfg) : Int × Int :=
  (List.range g.n).foldl (fun (a : Int × Int) (k : Nat) => (a.1 + (k : Int) * g.coef k, a.2 + g.coef k)) (0, 0)

/-- One biquad section's delay (R92); none where its gain at 0 Hz is 0. -/
def bqTau (g : SCfg) (j : Nat) : Option ℚ :=
  let b0 := g.coef (5 * j)
  let b1 := g.coef (5 * j + 1)
  let b2 := g.coef (5 * j + 2)
  let a1 := g.coef (5 * j + 3)
  let a2 := g.coef (5 * j + 4)
  let sb := b0 + b1 + b2
  let sa := 1073741824 + a1 + a2
  if sb = 0 || sa = 0 then none
  else some (((b1 + 2 * b2 : Int) : ℚ) / (sb : ℚ) - ((a1 + 2 * a2 : Int) : ℚ) / (sa : ℚ))

/-- A stage's group delay in its input samples (R92); none where its gain at 0 Hz is 0. -/
def SCfg.delay (g : SCfg) : Option ℚ :=
  match g.tau with
  | some t => some t
  | none =>
    if g.typ = 1 then
      let q := firMoments g
      if q.2 = 0 then none else some ((q.1 : ℚ) / ((g.l : ℚ) * (q.2 : ℚ)))
    else if g.typ = 2 then
      (List.range g.n).foldl (fun a j => match a, bqTau g j with | some x, some y => some (x + y) | _, _ => none) (some 0)
    else some 0

/-- The chain's group delay in ticks (R92); none when undefined. -/
def ChainCfg.groupDelay (c : ChainCfg) : Option ℚ :=
  let sum := (List.range 3).foldl (fun a k =>
    match a, (c.st.getD k .bypass).delay with
    | some x, some t => some (x + t * c.p k)
    | _, _ => none) (some (0 : ℚ))
  match sum with
  | none => none
  | some x =>
    match c.carrier with
    | some r => some (30 + c.fmod / (2 * carrierHz r) + c.fmod / carrierHz r * x)
    | none => some (2 * ((c.m0 : ℚ) - 1) + c.m0 * x)

/-- Largest pole radius of a section in 2⁻⁹⁶ (R93): √a2 for complex poles, else (|a1| + √(a1² − 4 a2)) / 2. -/
def bqRadius (g : SCfg) (j : Nat) : Nat :=
  let a1 := g.coef (5 * j + 3)
  let a2 := g.coef (5 * j + 4)
  let disc := a1 * a1 - 4 * a2 * 1073741824
  if disc < 0 then isqrt (a2.toNat * 2 ^ 162)
  else (a1.natAbs * 2 ^ 66 + isqrt (disc.toNat * 2 ^ 132)) / 2

/-- Settling span of a stage in its own input samples (R93). For a cascade whose largest radius is 1 or more, which FLT.SWAP never
accepts, the formula has no value; 0 stands there (DESIGN CHOICE, log entry 104). -/
def SCfg.span (g : SCfg) : Nat :=
  if g.typ = 1 then ceilDiv (g.n - 1) g.l
  else if g.typ = 2 then
    let rho := (List.range g.n).foldl (fun a j => max a (bqRadius g j)) 0
    if rho = 0 then 0
    else if rho ≥ 2 ^ 96 then 0
    else ceilDiv (24 * 2 ^ 96) (96 * 2 ^ 96 - log2Fine rho)
  else 0

/-- T over the stages marked, with T_0 when `t0` (R93, R101). -/
def ChainCfg.spanT (c : ChainCfg) (t0 : Bool) (use : Nat → Bool) : ℚ :=
  (List.range 3).foldl (fun a k => if use k then a + ((c.st.getD k .bypass).span : ℚ) * c.p k else a)
    (if t0 then (if c.carrier.isSome then 1 else 4) else 0)

/-- S = ⌈T / D⌉ (R93). -/
def ChainCfg.settle (c : ChainCfg) (t0 : Bool) (use : Nat → Bool) : Nat := (Rat.ceil (c.spanT t0 use / c.d)).toNat

/-- S for the full T. -/
def ChainCfg.settleFull (c : ChainCfg) : Nat := c.settle true (fun _ => true)

/-- Stopband edge of the last stage that is not a bypass, in Hz (R94, Table 2). -/
def ChainCfg.sbEdge (c : ChainCfg) : ℚ :=
  match (List.range 3).reverse.find? (fun k => (c.st.getD k .bypass).typ != 0) with
  | none => c.fout / 2
  | some k => ((c.st.getD k .bypass).sbe : ℚ) / 256 * (c.fin / c.p (k + 1))

/-- The last stage that is not a bypass declares an edge (Table 7 of 04_filter_chain). -/
def ChainCfg.sbeDeclared (c : ChainCfg) : Bool :=
  match (List.range 3).reverse.find? (fun k => (c.st.getD k .bypass).typ != 0) with
  | none => true
  | some k => (c.st.getD k .bypass).sbe != 0

/-- CLAT: two schedule rounds and 1.3 µs, at most 22.2 µs (R91), in ticks rounded up. -/
def clatTicks : Nat := 222

/-- A value rounded to nearest, half up. -/
def ratRound (q : ℚ) : Int := Rat.floor (q + 1 / 2)

/-- The default chain of a channel (R96): ROM04 in carrier excitation, otherwise ROM08 at M_0 = 64; nothing in idle banks. -/
def Filt.default (carrier : Bool) (f : Filt) : Filt :=
  let g : Stage := { Stage.reset with bankA := .rom (if carrier then 4 else 8) }
  { f with s1 := g, s2 := g, s3 := g, mdiv := 0x1000, sdecm1 := if carrier then 0x0F else 0x3F }

/-- A disturbing change with its instant suppresses the first S samples whose last modulator bit follows it (R103). -/
def Filt.suppress (f : Filt) (t n : Nat) : Filt := { f with later := f.later ++ [(t, n)] }

/-- What has taken effect before a sample that ends at `ts`: the count becomes the larger of what remains and the new S
(R104). -/
def Filt.absorb (f : Filt) (ts : Nat) : Filt :=
  { f with
    supp := (f.later.filter (fun e => e.1 < ts)).foldl (fun a e => max a e.2) f.supp
    settlePend := f.settlePend || f.later.any (fun e => e.1 < ts)
    later := f.later.filter (fun e => ts ≤ e.1) }

/-- A disturbing change of a channel at an instant, with the chain's full T (Table 8 of 04_filter_chain). -/
def disturbAt (c : Ch) (t : Nat) (s : State) : State :=
  if (s.ch c).mode.usesFilter then
    s.setCh c (fun ch => { ch with filt := ch.filt.suppress t ch.chain.settleFull })
  else s

/-- The same at the present instant. -/
def disturb (c : Ch) (s : State) : State := disturbAt c s.sys.now s

/-- FOUT as CH.INFO reports it, Q16.16 (R94, R115). -/
def Chan.foutQ (ch : Chan) : Nat := (ratRound (ch.chain.fout * 65536)).toNat

/-- GDNS: the group delay in ns, with f_mod as measured against device time (R94): the Holm's oscillator in mHz. -/
def gdNs (ch : Chan) (oscMilliHz : Nat) : Option ℚ :=
  ch.chain.groupDelay.map (fun g => g * ch.filt.mdiv.toNat * 1000000000000 / (256 * (oscMilliHz : ℚ)))

end Sys2Proof.Machine
end

