-- ==== Sys2Proof/Machine/PlanOps.lean ====
section
/-! DEFINITION. The carrier plan of a bank (R69 to R73), edge scheduling (R212), and how a measurement word takes effect
(R82). -/

namespace Sys2Proof.Machine

/-- A channel with a measurement word; a change between DC and carrier excitation sets the new default chain (R96). An
excitation that is off without a latch, its return not having been admitted, comes back with the word (R79, R83; log entry
99). -/
def Chan.withMeas (w : BitVec 32) (ch : Chan) : Chan :=
  let carrier := ch.mode == .brg && bit w 1
  { ch with
    brg := { ch.brg with
      meas := w
      exOn := ch.brg.exOn || ((ch.mode == .brg || ch.mode == .res) && !ch.brg.latch) }
    filt := if carrier != ch.carrierMode then ch.filt.default carrier else ch.filt }

/-- The stages and chain word after a FLT.SWAP (R99, R100). -/
def Filt.swapped (f : Filt) (smask : BitVec 3) (chw : Bool) (mdiv : BitVec 13) (sdecm1 : BitVec 8) : Filt :=
  { f with
    s1 := if bit smask 0 then f.s1.swapped else f.s1
    s2 := if bit smask 1 then f.s2.swapped else f.s2
    s3 := if bit smask 2 then f.s3.swapped else f.s3
    mdiv := if chw then mdiv else f.mdiv
    sdecm1 := if chw then sdecm1 else f.sdecm1 }

/-- The measurement word of a CH.MEAS that waits for the plan's instant. -/
def State.waitingWord (s : State) (c : Ch) : Option (BitVec 32) :=
  match (s.holm (bankOf c)).pend with
  | some p => (p.waiters.find? (fun w => w.op == 0x0203 && w.req.obj == chObj c)).map (fun w => word32 w.req.payload 0)
  | none => none

/-- A channel as the plan judges it: with the settings that wait for an instant or a boundary. -/
def State.planView (s : State) (c : Ch) : Chan :=
  let ch := s.ch c
  let ch := match s.waitingWord c with
    | some w => ch.withMeas w
    | none => ch
  let ch := match ch.brg.next with
    | some n => ch.withMeas n.1
    | none => ch
  match ch.filt.swap with
  | some w => { ch with filt := ch.filt.swapped w.smask w.chw w.mdiv w.sdecm1 }
  | none => ch

/-- The mode that an accepted CH.MODE will give the channel. -/
def Chan.modeToCome (ch : Chan) : Option Mode :=
  match ch.changing with
  | some g => if g.entered then none else some g.mode
  | none =>
    match ch.moved with
    | some m => (match m.kind with | .mode md _ _ => some md | .demand _ _ => none)
    | none => none

/-- The chain that a mode starts with (R96, R51). -/
def modeChain : ChainCfg := { Chan.reset with filt := Filt.default false .reset }.chain

/-- What a channel takes of its bank's capacity: the most that it runs now or will run by a change already accepted (R15, R60). -/
def State.shareDemand (s : State) (c : Ch) : ℚ :=
  let ch := s.ch c
  let now := if ch.mode.usesFilter then max ch.chain.demand (s.planView c).chain.demand else 0
  match ch.modeToCome with
  | some m => if m.usesFilter then max now modeChain.demand else now
  | none => now

/-- Demand of a bank, with one channel's chain replaced (R15, R60). -/
def bankDemand (s : State) (b : Bank) (c : Ch) (cfg : ChainCfg) : ℚ :=
  (bankChs b).foldl (fun a d => if d = c then a + cfg.demand else a + s.shareDemand d) 0

/-- The capacity of R15. -/
def capacity : ℚ := 196608000

/-- The bank can run the chain that a channel would have (R15, R60); one that it has already it can. -/
def State.chainFits (s : State) (c : Ch) (after : Chan) : Bool :=
  after.carrierMode == (s.ch c).carrierMode || decide (bankDemand s (bankOf c) c after.chain ≤ capacity)

/-- The plan last computed for a bank, by position: it is the old plan of the next recomputation (R70). -/
def State.latestRates (s : State) (b : Bank) : List (Option (Fin 5)) :=
  match (s.holm b).pend with
  | some p => p.rates
  | none => (List.finRange 8).map (fun k => (s.ch (chAt b k)).brg.rate)

/-- A carrier channel of a plan under test: its position, itself, and its rate. -/
structure PlanEntry where
  pos : Fin 8
  ch : Chan
  rate : Fin 5

/-- The chain of a channel at a carrier rate (R69). -/
def Chan.chainAt (ch : Chan) (f : Fin 5) : ChainCfg := { ch.chain with carrier := some f }

/-- The conditions of R69 on one channel: CMASK, R65 and R64 (BLANK × 10 µs at most 40 % of 1 / 2f). -/
def PlanEntry.fits (e : PlanEntry) : Bool :=
  bit e.ch.brg.meas (5 + e.rate.val) && decide (2 ≤ (e.ch.chainAt e.rate).d) &&
    decide (fld e.ch.brg.meas 23 16 * carrierHz e.rate ≤ 20000)

/-- The difference of two rates reaches both stopband edges (R69). -/
def PlanEntry.apart (a b : PlanEntry) : Bool :=
  a.rate == b.rate ||
    (let d : ℚ := ((carrierHz a.rate : ℤ) - carrierHz b.rate).natAbs
     decide ((a.ch.chainAt a.rate).sbEdge ≤ d) && decide ((b.ch.chainAt b.rate).sbEdge ≤ d))

/-- Distinct rates of a plan. -/
def rateCount (l : List (Fin 5)) : Nat := l.dedup.length

/-- A plan is feasible (R69). -/
def feasible (l : List PlanEntry) : Bool :=
  l.all PlanEntry.fits && decide (rateCount (l.map (·.rate)) ≤ 3) && l.all (fun a => l.all (fun b => a.apart b))

/-- Candidates for a channel (R70): its old rate, CRATE, every other rate highest first. -/
def candidates (old : Option (Fin 5)) (ch : Chan) : List (Fin 5) :=
  old.toList ++ [⟨fld ch.brg.meas 4 2 % 5, Nat.mod_lt _ (by decide)⟩] ++ [4, 3, 2, 1, 0]

/-- Places the channels that remain, one after another (R70). -/
def placeAll (old : List (Option (Fin 5))) : List (Fin 8 × Chan) → List PlanEntry → Option (List PlanEntry)
  | [], plan => some plan
  | (k, ch) :: rest, plan =>
    match (candidates (old.getD k.val none) ch).find? (fun f => feasible (plan ++ [⟨k, ch, f⟩])) with
    | some f => placeAll old rest (plan ++ [⟨k, ch, f⟩])
    | none => none

/-- The rates of a plan by position. -/
def planRates (l : List PlanEntry) : List (Option (Fin 5)) :=
  (List.finRange 8).map (fun k => (l.find? (fun e => e.pos == k)).map (·.rate))

/-- The plan of a bank with the triggering channel as it would stand after its command (R70); legal carrier channels keep
their rates (R71). None: infeasible. -/
def State.newPlan (s : State) (b : Bank) (trigger : Fin 8) (tch : Chan) : Option (List (Option (Fin 5))) :=
  let old := s.latestRates b
  let view (k : Fin 8) : Chan := if k = trigger then tch else s.planView (chAt b k)
  let carriers := (List.finRange 8).filter (fun k => (view k).carrierMode)
  let fixed := carriers.filterMap (fun k =>
    match old.getD k.val none with
    | some f => if s.isLegal (chAt b k) then some (PlanEntry.mk k (view k) f) else none
    | none => none)
  let rest := carriers.filter (fun k => !fixed.any (fun e => e.pos == k))
  let order := rest.filter (· != trigger) ++ rest.filter (· == trigger)
  match placeAll old (order.map (fun k => (k, view k))) fixed with
  | some l => if feasible l then some (planRates l) else none
  | none => none

/-- The instant of R72: the first grid instant at least 1 ms away whose number is a multiple of 32. -/
def State.planInstant (s : State) (b : Bank) : Nat :=
  gridAt (s.holm b) (gridNext (s.holm b) (s.sys.now + msTicks 1) 32)

/-- A plan is on its way, with a command that completes after its instant (R72); a plan computed before an earlier one has
taken effect takes its place (log entry 25). -/
def planCommit (b : Bank) (rates : List (Option (Fin 5))) (w : List PlanWait) (s : State) : State :=
  s.setHolm b (fun h => { h with
    pend := some (PlanPend.mk rates (s.planInstant b)
      ((match h.pend with | some p => p.waiters | none => []) ++ w)) })

/-- The QUIET carrier channels of a bank (R212). -/
def State.quietRates (s : State) (b : Bank) : List (Fin 5) :=
  (bankChs b).filterMap (fun c => if (s.ch c).carrierMode && bit (s.ch c).brg.meas 10 then some (s.ch c).rateNow else none)

/-- When a bank is under edge scheduling, the first reversal instant of the lowest QUIET rate at or after now (R212). -/
def State.quietDue (s : State) (b : Bank) : Option Nat :=
  match s.quietRates b with
  | [] => none
  | f :: rest =>
    some (gridAt (s.holm b) (gridNext (s.holm b) s.sys.now (nOf (rest.foldl min f))))

/-- A moved transition is due only later. -/
def State.movedTo (s : State) (b : Bank) : Option Nat :=
  match s.quietDue b with
  | some t => if s.sys.now < t then some t else none
  | none => none

/-- Nominal excitation in mV (Table 1 of 03_bridge_measurement). -/
def vexcMv (w : BitVec 32) : Nat := if bit w 0 then 5000 else 2500

/-- EXC or RANGE differ (R82); in RES the whole word is the range. -/
def measDisturbs (m : Mode) (a b : BitVec 32) : Bool :=
  if m = .res then a != b else fld a 1 0 != fld b 1 0 || fld a 13 12 != fld b 13 12

/-- A measurement word that disturbs nothing takes effect at the next grid instant, and CH.MEAS completes with it (R82). -/
def measAtGrid (c : Ch) (w : BitVec 32) (op : BitVec 16) (r : Req) (s : State) : State :=
  let t := gridAt (s.holm (bankOf c)) (gridNext (s.holm (bankOf c)) s.sys.now 1)
  let s := if t ≤ s.sys.now then legalTakes r.obj (s.setCh c (Chan.withMeas w))
    else s.setCh c (fun ch => { ch with brg := { ch.brg with next := some (w, t) } })
  finish op r stOK [] (t - s.sys.now) s

/-- A word that waited for its grid instant takes effect. -/
def measTick (c : Ch) (s : State) : State :=
  match (s.ch c).brg.next with
  | some n =>
    if n.2 ≤ s.sys.now then
      legalTakes (chObj c) (s.setCh c (fun ch => { ch.withMeas n.1 with brg := { (ch.withMeas n.1).brg with next := none } }))
    else s
  | none => s

/-- CH.MEAS takes effect (Table 11 of 03_bridge_measurement): with the plan's next instant in carrier excitation when it
disturbs or changes the plan; in DC a disturbing change at once, to end with the ramp of 0.5 ms; otherwise at the next grid
instant. -/
def measApply (c : Ch) (w : BitVec 32) (op : BitVec 16) (r : Req) (s : State) : State :=
  let b := bankOf c
  let ch := s.ch c
  let after := ch.withMeas w
  let dist := measDisturbs ch.mode ch.brg.meas w
  let plan := if !s.chainFits c after then none
    else if after.carrierMode || ch.carrierMode then s.newPlan b (posOf c) after
    else some []
  let note := legalNote op r (s.isLegal c) (s.setCh c (fun _ => after)) s
  match plan, note.1 with
  | none, _ => finish op r stE_RANGE [] 0 s
  | some _, some e => finish op r e [] 0 note.2
  | some rates, none =>
    let s := note.2
    if after.carrierMode || ch.carrierMode then
      if dist || rates != s.latestRates b then planCommit b rates [PlanWait.mk op r 0] s
      else measAtGrid c w op r s
    else if dist then
      finish op r stOK [] 5000 (disturbAt c (s.sys.now + 5000) (legalTakes r.obj (s.setCh c (fun _ => after))))
    else if ch.brg.meas = w then finish op r stOK [] 0 (legalTakes r.obj (s.setCh c (fun _ => after)))
    else measAtGrid c w op r s

end Sys2Proof.Machine
end

