-- ==== Sys2Proof/Machine/ModeOps.lean ====
section
/-! DEFINITION. How a channel changes its mode (R49 to R52, R462), how a pair is divided (R58), pulse timebases (R199, R202),
and disarming (R124, R128). -/

namespace Sys2Proof.Machine

/-- The comparators' level-4 holds of a source end (R124); actions on their way take no hold (R38). -/
def dropHolds (src : Ch) (k : Fin 4 → Bool) (s : State) : State :=
  let s := { s with
    chans := s.chans.map (fun ch => { ch with acts := ch.acts.filter (fun a => !(a.src == src && k a.idx)) })
    holms := s.holms.map (fun h =>
      let f (m : ActMsg) : ActMsg := if m.src == src && k m.idx then { m with live := false } else m
      { h with
        bus := h.bus.map f
        relay := h.relay.map f }) }
  overAll allCh evalOne s

/-- Moves comparators of a channel to DISARMED and cancels their timers; a hold of a FIRED one ends (R124). -/
def disarm (c : Ch) (k : Fin 4 → Bool) (s : State) : State :=
  let s := s.setCh c (fun ch => { ch with
    thr := Vector.ofFn (fun i => if k i then { ch.thr[i] with st := .disarmed, timer := none } else ch.thr[i]) })
  dropHolds c k s

/-- The period in force or, while a change waits for its end, the one that follows (R199). -/
def Timebase.held (t : Timebase) : BitVec 32 := match t.next with | some n => n.1 | none => t.period

/-- Length of a period. -/
def Timebase.len (t : Timebase) : Nat := 10000 * t.period.toNat

/-- The first period start after a time. -/
def Timebase.nextStart (t : Timebase) (u : Nat) : Nat :=
  (if (u : Int) < t.start then t.start else t.start + (((u : Int) - t.start) / (max 1 t.len : Nat) + 1) * t.len).toNat

/-- A timebase newly taken with a period at a time (R199): period starts on grid instants when the period is a whole multiple of
the grid's, otherwise the first one 1 ms later. -/
def Timebase.taken (h : Holm) (u : Nat) (period : BitVec 32) : Timebase :=
  { period := period
    start := ((if period.toNat % 10240 = 0 then (u + 102399999) / 102400000 * 102400000 else u + h.osc / 100 : Nat) : Int)
    next := none }

/-- The channel uses a timebase, or is on its way to it. -/
def Sw.onTb (w : Sw) (k : Fin 4) : Bool := w.tb == some k || (match w.tbNext with | some m => m.1 == k | none => false)

/-- The timebase that a channel will be on. -/
def Sw.tbAim (w : Sw) : Option (Fin 4) := match w.tbNext with | some m => some m.1 | none => w.tb

/-- A DOP channel uses a timebase of its bank. -/
def tbUsed (s : State) (b : Bank) (k : Fin 4) : Bool :=
  (bankChs b).any (fun c => (s.ch c).mode == .dop && (s.ch c).sw.onTb k)

/-- Frees timebases that no channel uses any longer (R199). -/
def tbRelease (b : Bank) (s : State) : State :=
  s.setHolm b (fun h => { h with
    tbs := Vector.ofFn (fun k => if tbUsed s b k then h.tbs[k] else none) })

/-- The timebase that a period finds: the one that holds it, otherwise a free one (R199). One whose new period still waits for its turn
counts by that period, and a channel that joins it is placed at once and runs at the old period until the turn (DESIGN CHOICE, log entry
150). -/
def tbFind (s : State) (b : Bank) (period : BitVec 32) : Option (Fin 4) :=
  let h := s.holm b
  match [(0 : Fin 4), 1, 2, 3].find? (fun k => match h.tbs[k] with | some t => t.held == period | none => false) with
  | some k => some k
  | none => [(0 : Fin 4), 1, 2, 3].find? (fun k => h.tbs[k] == none)

/-- Phases of the on edges already on a timebase, other than the channel's own (R202), ascending. -/
def tbPhases (s : State) (b : Bank) (k : Fin 4) (c : Ch) : List Nat :=
  ((bankChs b).filter (fun d => d != c && d == s.lead d && (s.ch d).mode == .dop && (s.ch d).sw.onTb k)).map
    (fun d => (s.ch d).sw.pgen.phase.toNat) |>.mergeSort (· ≤ ·)

/-- The middle of the largest gap between on edges of a period of 256; of equal gaps the first (log entry 26). -/
def gapMiddle (l : List Nat) : Option Nat :=
  match l with
  | [] => none
  | h :: t =>
    let ends := t ++ [h + 256]
    let best := (List.zip l ends).foldl (fun (a : Nat × Nat) e => if a.2 < e.2 - e.1 then (e.1, e.2 - e.1) else a) (h, 0)
    some ((best.1 + best.2 / 2) % 256)

/-- With PHAUTO the Badger places the channel's on edge (R202). -/
def placePhase (c : Ch) (s : State) : State :=
  match (s.ch c).sw.tbAim with
  | none => s
  | some k =>
    if !(s.ch c).sw.pgen.phauto then s
    else
      match gapMiddle (tbPhases s (bankOf c) k c) with
      | none => s
      | some p => overAll (s.members c) (fun m s => s.setCh m (fun ch => { ch with
          sw := { ch.sw with pgen := { ch.sw.pgen with phase := BitVec.ofNat 8 p } } })) s

/-- A timebase that holds a period stays as it is; a free one is newly taken with it (R199). -/
def tbSet (b : Bank) (k : Fin 4) (period : BitVec 32) (s : State) : State :=
  s.setHolm b (fun h => { h with
    tbs := h.tbs.set k.val (some (match h.tbs[k] with | some t => t | none => .taken h (s.tbNow b) period)) k.isLt })

/-- A DOP channel without a timebase takes one holding its PERIOD, or a free one (R199); its next on edge is the first after now
(R202). -/
def tbTake (c : Ch) (s : State) : State :=
  if (s.ch c).mode == .dop && (s.ch c).sw.tb == none && c == s.lead c then
    match tbFind s (bankOf c) (s.ch c).sw.pgen.period with
    | none => s
    | some k =>
      let s := tbSet (bankOf c) k (s.ch c).sw.pgen.period s
      let s := overAll (s.members c) (fun m s => s.setCh m (fun ch => { ch with
        sw := { ch.sw with tb := some k, tbNext := none, edgeFrom := s.tbNow (bankOf c) } })) s
      overAll (s.members c) (fun m s => s.setCh m (fun ch => { ch with sw := { ch.sw with prun := ch.sw.pgen } })) (placePhase c s)
  else s

/-- A timebase freed is taken by the channels that wait for one, the lowest bank position first (DESIGN CHOICE, log entry 126). -/
def tbSettle (b : Bank) (s : State) : State := overAll (bankChs b) tbTake (tbRelease b s)

/-- A timebase takes its new period at the end of the present one, and counts as newly taken (R199). -/
def Timebase.turn (h : Holm) (u : Nat) (t : Timebase) : Timebase :=
  match t.next with
  | some n => if n.2 ≤ u then .taken h n.2 n.1 else t
  | none => t

/-- A channel is on its new timebase from that one's next period start (R201). -/
def Sw.turn (u : Nat) (w : Sw) : Sw :=
  match w.tbNext with
  | some m => if m.2 ≤ u then { w with tb := some m.1, tbNext := none, edgeFrom := max w.edgeFrom ((m.2 : Int) - 1) } else w
  | none => w

/-- Something waits for a period's end or start in a bank. -/
def State.tbWaits (s : State) (b : Bank) : Bool :=
  (s.holm b).tbs.toList.any (fun t => match t with | some t => t.next.isSome | none => false) ||
    (bankChs b).any (fun c => (s.ch c).sw.tbNext.isSome)

/-- The timebases of a bank as time passes (R199, R201). -/
def tbTick (b : Bank) (s : State) : State :=
  if s.tbWaits b then
    let u := s.tbNow b
    let s := s.setHolm b (fun h => { h with tbs := h.tbs.map (fun t => t.map (Timebase.turn h u)) })
    tbSettle b (overAll (bankChs b) (fun c s => s.setCh c (fun ch => { ch with sw := ch.sw.turn u })) s)
  else s

/-- The settings that a pair's odd member keeps in store after a mode change: of what R51 resets, the reset values (R182, R200, R203). -/
def SwSettings.reentered (k : SwSettings) : SwSettings := { k with prot := protReset, diag := swDiagReset, pgen := .reset }

/-- Every setting at its reset value (R51), for a mode and wiring: trim, learned inrush, wire model parameters and what
is no setting (θ_w, F, the bucket, the junction, the restart history, the shed class, the map entry, level 3, fired actions
of other channels) stay; the plan in force keeps the channel's rate until the plan without it takes effect (R72). -/
def Chan.entered (m : Mode) (wiring : Byte) (now : Nat) (ch : Chan) : Chan :=
  let carrier := false
  { ch with
    mode := m
    wiring := wiring
    l5 := deenergised m
    out := deenergised m
    conducting := false
    locks := .none
    safety := 0
    presag := none
    shedOff := false
    moved := none
    stored := ch.stored.map SwSettings.reentered
    thr := Vector.replicate 4 .reset
    stab := .reset
    filt := { (if m.usesFilter then Filt.default carrier .reset else .reset) with tstep := ch.filt.tstep }
    brg := { Brg.reset m with exOn := m == .brg || m == .res, rate := ch.brg.rate }
    watch := []
    loop := { Loop.reset ch.loop.trim with rampAt := now }
    mdm := { Mdm.reset m with rx := if bit wiring 6 then ch.mdm.rx else [] }
    din := .reset
    sw := { ch.sw with
      prot := protReset
      diag := swDiagReset
      pgen := .reset
      prun := .reset
      tb := none
      tbNext := none
      olLow := 0
      olHigh := 0
      limiting := false
      onOpen := false
      offOpen := false
      shortVf := false
      extDrive := false
      offSince := if ch.conducting then now else ch.sw.offSince } }

/-- The default chain of a mode keeps the bank's demand within capacity (Table 9 of 02_channel_modes). -/
def modeFits (s : State) (c : Ch) (m : Mode) (wiring : Byte) : Bool :=
  (!(m == .brg || m == .res) || decide (0 < (s.holm (bankOf c)).vx)) && (!m.usesFilter || decide (bankDemand s (bankOf c) c ((s.ch c).entered m wiring 0).chain ≤ capacity))

/-- A pair is divided (R58): θ_w and F of the pair for each member, half the learned values for each, and the leader's
restart history; the odd member takes back the settings it kept in store. -/
def divide (c : Ch) (s : State) : State :=
  let e := evenOf c
  let o := partnerOf e
  let l := (s.ch e).sw
  let half (x : Sw) : Sw :=
    { x with
      theta := l.theta
      fuseF := l.fuseF
      restarts := l.restarts
      learned := l.learned
      ipk := l.ipk / 2
      qin := l.qin / 2
      i100 := l.i100 / 2 }
  let back (x : Sw) : Sw :=
    match (s.ch o).stored with
    | some k => { x with prot := k.prot, wire := k.wire, fuse := k.fuse, diag := k.diag, pgen := k.pgen, prun := k.pgen }
    | none => x
  (s.setCh e (fun ch => { ch with paired := false, sw := half ch.sw })).setCh o (fun ch => { ch with
    paired := false
    stored := none
    acts := []
    sw := half (back ch.sw) })

/-- The loop event of a channel (Table 6 of 06_loops_and_modem): KIND and the readback current; its layout is the model's
(log entry 27). -/
def loopPayload (s : State) (c : Ch) (kind : Byte) : List Byte := [kind, 0] ++ leSigned (s.ch c).loop.actual 4

/-- A loop event that the Holm raises, with its Den record at WARN (R144). -/
def loopEvent (c : Ch) (kind : Byte) (s : State) : State := notifyCh c 7 (loopPayload s c kind) (some 3) s

/-- A loop event that the link layer on C4 or C5 raises (R156, R160). -/
def mdmEvent (c : Ch) (kind : Byte) (s : State) : State :=
  denEvent 3 (BitVec.ofNat 8 (chSrc c 7)) (chObj c) (loopPayload s c kind) (raise (chSrc c 7) (loopPayload s c kind) s)

/-- A new receive buffer entry, or its loss when eight are held (R156). -/
def mdmPush (c : Ch) (e : MdmEntry) (s : State) : State :=
  if (s.ch c).mdm.rx.length < 8 then
    mdmEvent c 7 (s.setCh c (fun ch => { ch with mdm := { ch.mdm with rx := ch.mdm.rx ++ [e] } }))
  else mdmEvent c 8 s

/-- A failure report (Table 12 of 06_loops_and_modem); its TS is the device time of the report (DESIGN CHOICE, log entry 147). -/
def mdmFailure (s : State) (c : Ch) (txn : BitVec 16) (attempts reason : Nat) : MdmEntry :=
  MdmEntry.mk 4 (BitVec.ofNat 8 (16 * attempts + reason)) txn (s.stamp (bankOf c)) []

/-- Transmissions stop, and every queued or running transaction is reported as KIND 0x04 with reason 5 (R160, Table 13); the report of
one that never started names 0 attempts (DESIGN CHOICE, log entry 147). -/
def mdmAbort (c : Ch) (s : State) : State :=
  let m := (s.ch c).mdm
  let ts := (match m.run with | some r => [(r.tx.txn, r.attempts)] | none => []) ++ m.txq.map (fun t => (t.txn, 0))
  let s := s.setCh c (fun ch => { ch with mdm := { ch.mdm with txq := [], run := none, sent := [] } })
  overAll ts (fun t s => mdmPush c (mdmFailure s c t.1 t.2 5) s) s

/-- The default direction of a strap state (Table 4 of 06_loops_and_modem). -/
def strapHigh : Strap → Bool
  | .high | .lockHigh => true
  | _ => false

/-- One channel takes its new mode; the modem's buffer is cleared, and what was queued or running reported (Table 13). ALMDIR
resets to the strap's default direction (Table 3 of 06_loops_and_modem; log entry 103). A STABLE detector that it resets raises no
UNSTABLE event (DESIGN CHOICE, log entry 119: R131 does not say that it does). -/
def enterMode (c : Ch) (m : Mode) (wiring : Byte) (s : State) : State :=
  let s := s.setCh c (fun ch => { ch with mdm := { ch.mdm with rx := [] } })
  let high := strapHigh (s.holm (bankOf c)).strap
  (mdmAbort c s).setCh c (fun ch =>
    let n := ch.entered m wiring s.sys.now
    { n with loop := { n.loop with dirHigh := high } })

/-- A lock that a mode change clears on its way is recorded in the Den (Table 7 of 02_channel_modes), at INFO as a clearance
(R214). -/
def noteClearedLock (c : Ch) (s : State) : State :=
  let l := (s.ch c).locks
  let rec1 (b : Bool) (k : Nat) (kind : Byte) (s : State) : State :=
    if b then denEvent 1 (BitVec.ofNat 8 (chSrc c k)) (chObj c) (swPayload s c kind) s else s
  let h := [BitVec.ofNat 8 4, BitVec.ofNat 8 (posOf c).val, 0, 0]
  let s := rec1 l.fuse 0 3 (rec1 l.clamp 1 3 (rec1 (l.thermHold || l.thermLatch) 2 7 (rec1 l.revHold 4 5 s)))
  if l.seqFault then denEvent 1 (BitVec.ofNat 8 (holmSrc (bankOf c) 2)) (chObj c) h s else s

/-- The old output and excitation go off, and the mode change stands in the channels (step 2 of Table 6 of 02_channel_modes). -/
def breakCh (g : ModeChange) (s : State) (c : Ch) : State :=
  s.setCh c (fun ch => { ch with
    changing := some g
    l5 := deenergised ch.mode
    brg := { ch.brg with exOn := false, next := none }
    loop := { ch.loop with alarm := false, fallback := false } })

/-- t_d has come (R50, R462): the old output is de-energised as a change at level 5, whose energy the clamp bucket takes; the new
mode follows by itself 1.5 ms later (`modeTick`). -/
def modeRun (c : Ch) (m : Mode) (wiring : Byte) (mm : ClampMeas) (op : BitVec 16) (r : Req) (s : State) : State :=
  let mem := s.members c
  let t := overAll mem (fun d s => endTrim d s) s
  let t := overAll mem (fun d t => breakCh
    (ModeChange.mk m wiring op (if d = s.lead c then some r else none) s.sys.raw false) t d) t
  clampAfter c mm s (evalOut c t)

/-- Replaces the mode change of the members. -/
def setChanging (mem : List Ch) (f : ModeChange → Option ModeChange) (s : State) : State :=
  overAll mem (fun d s => s.setCh d (fun ch => { ch with changing := ch.changing.bind f })) s

/-- The command of a mode change completes, if its completion is still owed. -/
def modeFinish (g : ModeChange) (s : State) : State :=
  match g.req with
  | some r => finish g.op r stOK [] 0 s
  | none => s

/-- Step 4 of Table 6 of 02_channel_modes (R50, R51, R52, R462): locks are cleared, the front end is set to the new mode, a pair
taken to OFF is divided, the timebases are given anew, and a carrier channel's place in the plan ends; the command then
completes no earlier than the plan's instant (R72). That the plan is recomputed at this step is a DESIGN CHOICE (log entry 141). A change
to OFF ends here. -/
def modeEnter (c : Ch) (g : ModeChange) (s : State) : State :=
  let b := bankOf c
  let mem := s.members c
  let wasCarrier := (s.ch c).carrierMode
  let s := overAll mem (fun d s => if s.locked d then noteClearedLock d s else s) s
  let s := if (s.ch c).paired && g.mode == .off then divide c s else s
  let s := legalTakes (chObj c) (overAll mem (enterMode · g.mode g.wiring) s)
  let s := tbSettle b s
  let s := if wasCarrier then
      planCommit b ((s.latestRates b).set (posOf c).val none)
        (match g.req with
         | some r => [PlanWait.mk g.op r (s.sys.now + if g.mode = .off then 0 else 5000)]
         | none => []) s
    else s
  let g := if wasCarrier then { g with req := none } else g
  if g.mode = .off then modeFinish g (overAll mem evalOut (setChanging mem (fun _ => none) s))
  else overAll mem evalOut (setChanging mem (fun h => some { h with entered := true, req := if wasCarrier then none else h.req }) s)

/-- Step 5: CH.MODE completes, a measuring channel starts to settle (R52), and an action that stays fired governs (R53). -/
def modeDone (c : Ch) (g : ModeChange) (s : State) : State :=
  let s := setChanging (s.members c) (fun _ => none) s
  let s := if (s.ch c).acts.isEmpty then s else evalOut c s
  modeFinish g (disturb c (s.setCh c (fun ch => { ch with filt := { ch.filt with seq := 0 } })))

/-- A mode change goes on by itself as time passes (Table 6 of 02_channel_modes): step 4 1.5 ms and step 5 2.0 ms after t_d. -/
def modeTick (c : Ch) (s : State) : State :=
  match (s.ch c).changing with
  | some g =>
    if c != s.lead c then s
    else if !g.entered && decide (g.start + 15000 ≤ s.sys.raw) then modeEnter c g s
    else if g.entered && decide (g.start + 20000 ≤ s.sys.raw) then modeDone c g s
    else s
  | none => s

/-- The rows of Table 5 of 02_channel_modes behind the legal ones (R49): the change is accepted, subject to the bank's checks. -/
def modeAllowed (s : State) (c : Ch) (m : Mode) : Bool :=
  let ch := s.ch c
  match (s.govern c).1 with
  | 1 => m == .off
  | 2 | 3 | 4 => false
  | _ => if ch.paired then m.isSwitch else if bit ch.bmap.bflags 7 then m.isOutput else true

/-- The forecast share of a command that did not take effect is released (Table 7 of 09_badger). -/
def releaseShare (c : Ch) (s : State) : State :=
  s.setBadger (fun b => { b with admitted := b.admitted.filter (fun p => p.ch != c) })

/-- A CH.MODE reaches the sequencer (R50): its comparators are disarmed and its stream stops; under edge scheduling the
de-energising step waits for the reversal instant (R212). A pending restore is cancelled (R253). Table 5 of 02_channel_modes
and what the bank can still carry are judged again, for a command that was deferred (R49, R60). -/
def modeAccept (c : Ch) (m : Mode) (wiring : Byte) (mm : ClampMeas) (op : BitVec 16) (r : Req) (s : State) : State :=
  let note := legalNote op r (s.isLegal c) (s.setCh c (fun ch => ch.entered m wiring s.sys.now)) s
  if !modeAllowed s c m then finish op r stE_STATE [] 0 (releaseShare c s)
  else if !modeFits s c m wiring then finish op r stE_RANGE [] 0 (releaseShare c s)
  else if note.1.isSome then finish op r (note.1.getD 0) [] 0 note.2
  else
    let s := overAll (s.members c) cancelRestore note.2
    let s := disarm c (fun _ => true) s
    match s.movedTo (bankOf c) with
    | some t => s.setCh c (fun ch => { ch with moved := some (Moved.mk (.mode m wiring ((s.govern c).1 == 1)) op r t) })
    | none => modeRun c m wiring mm op r s

/-- The alarm current in nA of the resolved direction (R136, R143). -/
def Chan.alarmNa (ch : Chan) (high : Bool) : Nat :=
  1000 * (if high then fld ch.loop.word 63 48 else fld ch.loop.word 47 32)

/-- What an alarm drives: the low alarm of a fall-back while the alarm is demanded (R140), else the resolved direction's current. -/
def Chan.alarmTarget (ch : Chan) : Nat := ch.alarmNa (ch.loop.dirHigh && !ch.loop.fallback)

/-- Level 5 takes a demand by command (R180, R136): a loop output's alarm, fall-back and readback fault follow the new
target (R140, R143). An alarm drives what it does at this instant. -/
def setDemand (c : Ch) (d : Demand) (alarm : Bool) (s : State) : State :=
  let s := setL5 c (if alarm then .cur (s.ch c).alarmTarget else d) s
  if (s.ch c).mode.isLoopOut then
    s.setCh c (fun ch => { ch with loop := { ch.loop with
      alarm := alarm
      fallback := ch.loop.fallback && alarm
      readback := false } })
  else s

/-- A change of level 5 in one evaluation: refused while a level from 1 to 4 governs (R39, R213). -/
def levelRun (c : Ch) (d : Demand) (alarm : Bool) (mm : ClampMeas) (op : BitVec 16) (r : Req) (s : State) : State :=
  if (s.govern c).1 ≠ 5 then finish op r stE_STATE [] 0 (releaseShare c s)
  else finish op r stOK [] 0 (clampAfter c mm s (evalOut c (setDemand c d alarm s)))

/-- A change of level 5 demanded by a command, moved under edge scheduling (R212). -/
def levelChange (c : Ch) (d : Demand) (alarm : Bool) (mm : ClampMeas) (op : BitVec 16) (r : Req) (s : State) : State :=
  if (s.govern c).1 ≠ 5 then levelRun c d alarm mm op r s
  else
    match s.movedTo (bankOf c) with
    | some t => s.setCh c (fun ch => { ch with moved := some (Moved.mk (.demand d alarm) op r t) })
    | none => levelRun c d alarm mm op r s

end Sys2Proof.Machine
end

