-- ==== Sys2Proof/Machine/LedgerOps.lean ====
section
/-! DEFINITION. The Badger's ledgers (R217 to R220), the cost of each priced operation (R222, R223) and the forecast (R224,
R225). Currents in µA, heat in µW, ten steps of 10 ms. -/

namespace Sys2Proof.Machine

/-- Own consumption of one channel in a mode (R219), µW. -/
def Chan.ownUw (m : Mode) (ch : Chan) : Nat :=
  if m = .off then 2000
  else if m.usesFilter then 6000 + 14000 * 4096 / ch.filt.mdiv.toNat
  else 6000

/-- Own consumption (R219), µW. -/
def State.ownUw (s : State) : Nat := 420000 + 2 * 380000 + (allCh.map (fun c => (s.ch c).ownUw (s.modeNow c))).sum

/-- The package ledger: own consumption and the field heat measured over the last 10 ms (R219), µW. -/
def State.pkgUw (s : State) : Nat := s.ownUw + (s.badger.meters[0]).heat + (s.badger.meters[1]).heat

/-- The ceiling in force in mW (R220): on the HY1624-LX PCEIL or the derated ceiling of R2. -/
def State.ceilingNow (s : State) : Nat :=
  if s.sys.order ≠ 1 then s.badger.pceil
  else
    let est : Int := max (s.holm 0).case (s.holm 1).case * 1000 - (128 * (s.pkgUw / 1000) : Nat)
    let amb : Int := if s.badger.tambx = 0 then est else max est (s.badger.tambx * 16000)
    let exc : Int := max 0 (amb - 85 * 16000)
    min s.badger.pceil (3500 - exc * 85 / 16000).toNat

/-- On-resistance in µΩ at a junction temperature in 1/16 °C (R219). -/
def ronMicro (tj : Int) : Nat := (50000 + 25 * tj).toNat

/-- Active current limit in µA (Table 2 of 08_load_switches). -/
def ilimUa (prot : BitVec 64) : Nat :=
  match fld prot 1 0 with
  | 0 => 1500000
  | 1 => 3000000
  | 2 => 6000000
  | _ => 9000000

/-- The inrush of a turn-on: its flat or steady part and, above it, the decaying part with its time constant in µs (R223). -/
structure Inrush where
  steady : Nat
  extra : Nat
  tau : Nat
  peak : Nat

/-- What the Badger takes for a turn-on of a channel (R222, R223); the limit of a pair is twice ILIM (R208). -/
def inrush (s : State) (c : Ch) : Inrush :=
  let ch := s.ch (s.lead c)
  let dop := (s.ch c).mode == .dop
  let scale (x : Nat) : Nat := if dop then x * ch.sw.pgen.duty.toNat / 65536 else x
  let ipk := ch.sw.ipk * 10000
  let i100 := ch.sw.i100 * 250
  if ipk = 0 then
    let l := ilimUa ch.sw.prot * (s.members c).length
    { steady := min l (s.badger.ifmax[bankOf c] * 1000 - 22500), extra := 0, tau := 1000, peak := l }
  else if ipk < i100 + 10000 then { steady := scale ipk, extra := 0, tau := 1000, peak := ipk }
  else
    let num := (ch.sw.qin * 10 - 25 * ch.sw.i100) * 1000000
    { steady := scale i100, extra := ipk - i100, tau := max 1000 (min 100000 (num / (ipk - i100))), peak := ipk }

/-- e^(−t/τ) at the beginning and end of step k (0 to 9), 40 fraction bits. -/
def stepExp (tau k : Nat) : Nat × Nat :=
  (expNeg (k * 10000 * one40 / tau), expNeg ((k + 1) * 10000 * one40 / tau))

/-- Mean current of a turn-on over step k. -/
def Inrush.mean (i : Inrush) (k : Nat) : Nat :=
  let e := stepExp i.tau k
  i.steady + i.extra * (i.tau * (e.1 - e.2) / 10000) / one40

/-- Mean square current over step k for a share 1/n of the current, µA². -/
def Inrush.meanSq (i : Inrush) (n k : Nat) : Nat :=
  let e := stepExp i.tau k
  let a := i.steady / n
  let d := i.extra / n
  let c1 := i.tau * (e.1 - e.2) / 10000
  let c2 := i.tau * (e.1 * e.1 / one40 - e.2 * e.2 / one40) / 20000
  a * a + 2 * a * d * c1 / one40 + d * d * c2 / one40

/-- The steps of a forecast. -/
def steps : List Nat := List.range 10
def flat (x : Nat) : List Nat := steps.map (fun _ => x)
def noSteps : List Nat := flat 0

/-- A profile that raises nothing. -/
def Profile.none_ (op : BitVec 16) (c : Ch) : Profile := Profile.mk op c (bankOf c) noSteps noSteps noSteps [] 0

/-- Heat of one member's switch over a step, µW. -/
def switchHeat (s : State) (c : Ch) (k : Nat) : Nat :=
  (inrush s c).meanSq (s.members c).length k * ronMicro (s.ch c).sw.tj / 1000000000000

/-- The cost of an excitation that rises by a current (R222): headroom (VX − |V_exc|) × ΔI. -/
def exciteProfile (s : State) (op : BitVec 16) (c : Ch) (ua vexc : Nat) : Profile :=
  let head := (s.holm (bankOf c)).vx.toNat - vexc
  { Profile.none_ op c with
    ix := flat ua
    pk := flat (head * ua / 1000) }

/-- The excitation current a measurement word adds (R222): V_exc / Z less the present current, or 60 mA while no Z has been
measured. -/
def exciteUa (ch : Chan) (vexc : Nat) : Nat :=
  match ch.brg.z with
  | some z => if z = 0 then 60000 else vexc * 4000 / z - (if ch.brg.exOn then ch.brg.iexc else 0)
  | none => 60000

/-- |V_exc| that the ledgers take for a mode and word: none in RES (log entry 28). -/
def vexcOf (m : Mode) (w : BitVec 32) : Nat := if m = .brg then vexcMv w else 0

/-- The excitation that VX can deliver, in mV (R61); 0 in RES, where no |V_exc| is given, so that the voltage criterion of a short is never
met there (DESIGN CHOICE, log entry 143). -/
def State.deliverable (s : State) (c : Ch) : Nat :=
  min (vexcOf (s.ch c).mode (s.ch c).brg.meas) ((s.holm (bankOf c)).vx - 1000).toNat

/-- An excited channel's driver stands at its limit of 75 mA, or the terminals carry less than half of the deliverable excitation
(Table 9 of 03_bridge_measurement, R79). -/
def State.shorted (s : State) (c : Ch) : Bool :=
  let b := (s.ch c).brg
  b.exOn && !b.latch && (decide (75000 ≤ b.iexc) || decide (2 * b.vpn.natAbs < s.deliverable c))

/-- Heat of a loop output's current at its terminals, per nA in pW: VF − V(P) for AOI, V(IP, IN) or 36 V for AOT (R222). -/
def loopMv (s : State) (c : Ch) : Nat :=
  let ch := s.ch c
  if ch.mode = .aot then ch.loop.vterm.getD 36000
  else ((s.holm (bankOf c)).vf - ch.sw.vp).toNat

/-- The present current of a loop output in nA. -/
def Chan.outNa (ch : Chan) : Nat := match ch.out with | .cur n => n | _ => 0

/-- The cost of a loop current that rises to a target (R138, R222). -/
def loopProfile (s : State) (op : BitVec 16) (c : Ch) (nA : Nat) : Profile :=
  let d := nA - (s.ch c).outNa
  { Profile.none_ op c with
    fs := flat (if (s.ch c).mode = .aoi then d / 1000 else 0)
    pk := flat (d * loopMv s c / 1000000) }

/-- The cost of a switch turn-on (R222, R223). -/
def turnOnProfile (s : State) (op : BitVec 16) (c : Ch) : Profile :=
  { Profile.none_ op c with
    fs := steps.map (inrush s c).mean
    pk := steps.map (fun k => ((s.members c).map (fun m => switchHeat s m k)).sum)
    power := (s.members c).map (fun m => (m, steps.map (switchHeat s m))) }

/-- Sink current limit in µA of an input word's TYPE (Table 1 of 07_digital_inputs). -/
def sinkUa (w : BitVec 32) : Nat := if fld w 15 14 = 2 then 7000 else 2400

/-- The cost of an input whose sink current limit rises (R163, R222): the last measured V(IP), or 30 V when there is none. -/
def inputProfile (s : State) (op : BitVec 16) (c : Ch) (w : BitVec 32) : Profile :=
  let d := sinkUa w - sinkUa (s.ch c).din.word
  { Profile.none_ op c with
    fs := flat d
    pk := flat (d * (match (s.ch c).din.vip with | some v => v.toNat | none => 30000) / 1000) }

/-- The declared cost of a priced operation (Table 3 of 09_badger). -/
def profileOf (s : State) (op : BitVec 16) (bytes : Nat) : PricedKind → Profile
  | .turnOn c => turnOnProfile s op c
  | .restore c .on => turnOnProfile s op c
  | .restore c (.cur n) => loopProfile s op c n
  | .restore c .off => Profile.none_ op c
  | .excite c w _ =>
    let v := vexcOf (s.ch c).mode w
    exciteProfile s op c (exciteUa (s.ch c) v) v
  | .mode c m wiring =>
    let vf := (s.holm (bankOf c)).vf
    if m = .brg || m = .res then exciteProfile s op c 60000 (vexcOf m 0)
    else if m = .aii then
      { Profile.none_ op c with
        fs := flat 30000
        pk := flat (30 * (vf - (s.ch c).sw.vp).toNat) }
    else if m.isDigital && bit wiring 5 then
      { Profile.none_ op c with
        fs := flat 30000
        pk := flat 45000 }
    else Profile.none_ op c
  | .loopSet c n _ => loopProfile s op c n
  | .input c w => inputProfile s op c w
  | .rate c w =>
    { Profile.none_ op c with
      pk := flat (14000 * 4096 / fld w 23 11 - 14000 * 4096 / (s.ch c).filt.mdiv.toNat) }
  | .mramTrim c _ _ _ => { Profile.none_ op c with mram := bytes }
  | .mramBdg => { Profile.none_ op 0 with mram := bytes }
  | .mramChunk => { Profile.none_ op 0 with mram := bytes }
  | .updBegin => { Profile.none_ op 0 with mram := bytes }
  | .updActivate => { Profile.none_ op 0 with mram := bytes }
  | .updConfirm => { Profile.none_ op 0 with mram := bytes }
  | .mramField b => { Profile.none_ op (chAt b 0) with mram := bytes }
  | .mramMap b => { Profile.none_ op (chAt b 0) with mram := bytes }

/-- The operation is a switch turn-on, and of which channel. -/
def PricedKind.turnOn? : PricedKind → Option Ch
  | .turnOn c => some c
  | .restore c .on => some c
  | _ => none

def Profile.raisesF (p : Profile) : Bool := p.fs.any (· > 0)
def Profile.raisesX (p : Profile) : Bool := p.ix.any (· > 0)
def Profile.raisesP (p : Profile) : Bool := p.pk.any (· > 0)

/-- Ledgers a profile raises, as (code of R472, scope). -/
def raisedBy (p : Profile) (on : Option Ch) : List (Nat × Nat) :=
  (if p.raisesF then [(1 + p.bank.val, 0)] else []) ++ (if p.raisesX then [(3 + p.bank.val, 0)] else []) ++
    (if p.raisesP then [(5, 0)] else []) ++
    (match on with | some c => [(6, c.val), (7, c.val)] | none => []) ++ (if p.mram > 0 then [(8, 0)] else [])

def at10 (l : List Nat) (k : Nat) : Nat := l.getD k 0

/-- Committed field supply of a bank at a step: measured, and admitted profiles not yet shown (R225). -/
def State.fsAt (s : State) (b : Bank) (k : Nat) : Nat :=
  (s.badger.meters[b]).f + ((s.badger.admitted.filter (fun p => p.bank == b)).map (fun p => at10 p.fs k)).sum
def State.ixAt (s : State) (b : Bank) (k : Nat) : Nat :=
  (s.badger.meters[b]).x + ((s.badger.admitted.filter (fun p => p.bank == b)).map (fun p => at10 p.ix k)).sum
def State.pkAt (s : State) (k : Nat) : Nat := s.pkgUw + (s.badger.admitted.map (fun p => at10 p.pk k)).sum

/-- The junction forecast of one switch at every step (R224), in 10⁻⁶ of 1/16 K. -/
def junctionSteps : Int → List Nat → List Int
  | _, [] => []
  | d, p :: rest =>
    let k : Int := (one40 - expNeg (one40 / 20) : Nat)
    let e := d + (640 * (p : Int) - d) * k / (one40 : Nat)
    e :: junctionSteps e rest

/-- The largest forecast over the steps, from a start in 1/16 K. -/
def junctionPeak (start : Int) (power : List Nat) : Int :=
  let l := junctionSteps (start * 1000000) power
  l.tail.foldl max (l.headD 0)

/-- Measured junction above case, 1/16 K. -/
def State.dtjc (s : State) (c : Ch) : Int := (s.ch c).sw.tj - (s.holm (bankOf c)).case

/-- The junction margin of a switch whose power is forecast, in 10⁻⁶ of 1/16 K (R225). -/
def junctionMargin (s : State) (c : Ch) (start : Int) (power : List Nat) : Int :=
  let ch := s.ch (s.lead c)
  ((fld ch.sw.prot 22 16 : Int) - s.badger.dtguard) * 16000000 - junctionPeak start power

/-- E_pred in 0.01 mJ at a current in 250 µA units (R193); 0 when no turn-off has given E_last. -/
def Sw.epred (w : Sw) (i : Nat) : Nat := if w.ilast = 0 then 0 else w.elast * i * i / (w.ilast * w.ilast)

/-- The bucket condition of R193 and R225 on a channel: at the leader's ILIM while nothing is learned, otherwise at the member's
share of the learned I100 (R208), an equal one (DESIGN CHOICE, log entry 132). -/
def bucketFits (s : State) (c : Ch) (bucket : Nat) : Bool :=
  let ld := (s.ch (s.lead c)).sw
  let n := (s.members c).length
  let i := if ld.ipk = 0 then ilimUa ld.prot / 250 else ld.i100 / n
  decide (bucket + (s.ch c).sw.epred i ≤ 100 * fld ld.prot 47 32)

/-- A limit: the budget, or for ELASTIC the budget less ERES (R225). -/
def limitOf (s : State) (prio : Nat) (budget : Nat) : Nat :=
  if prio = 1 then budget * (100 - s.badger.eres) / 100 else budget

/-- The ledgers on which a candidate does not fit, beside the committed state or, `alone`, beside ledgers otherwise idle
(R225, R228). -/
def failures (s : State) (alone : Bool) (prio : Nat) (p : Profile) (on : Option Ch) : List (Nat × Nat) :=
  let b := p.bank
  let fs (k : Nat) : Nat := if alone then 22500 else s.fsAt b k
  let ix (k : Nat) : Nat := if alone then 0 else s.ixAt b k
  let pk (k : Nat) : Nat := if alone then s.ownUw else s.pkAt k
  let fOk := !p.raisesF || steps.all (fun k => fs k + at10 p.fs k ≤ limitOf s prio (s.badger.ifmax[b] * 1000))
  let xOk := !p.raisesX || steps.all (fun k => ix k + at10 p.ix k ≤ limitOf s prio (s.badger.ixmax[b] * 1000))
  let lim := limitOf s prio (s.badger.ceiling * 1000)
  let sum := (steps.map (fun k => pk k + at10 p.pk k)).sum
  let pOk := !p.raisesP || (sum ≤ 10 * lim && pk 9 + at10 p.pk 9 ≤ lim)
  let jOk := match on with
    | some c => (s.members c).all (fun m =>
        decide (0 ≤ junctionMargin s m (if alone then 0 else s.dtjc m) (steps.map (switchHeat s m))))
    | none => true
  let bOk := match on with
    | some c => (s.members c).all (fun m => bucketFits s m (if alone then 0 else (s.ch m).sw.bucket))
    | none => true
  let mOk := p.mram = 0 || (if alone then 0 else s.den.bufBytes) + p.mram ≤ s.badger.reserveBytes
  (if fOk then [] else [(1 + b.val, 0)]) ++ (if xOk then [] else [(3 + b.val, 0)]) ++ (if pOk then [] else [(5, 0)]) ++
    (match on with
     | some c => (if jOk then [] else [(6, c.val)]) ++ (if bOk then [] else [(7, c.val)])
     | none => []) ++ (if mOk then [] else [(8, 0)])

end Sys2Proof.Machine
end

