-- ==== Sys2Proof/Machine/UpdOps.lean ====
section
/-! DEFINITION. What the UPD commands change (chapter 15): the session (R400), the boot record with its journal (R404), activations, trials
and confirmations (R403, R405, R406), and their records (Table 11; log entry 34). -/

namespace Sys2Proof.Machine

/-- The offset of a slot in MRAM (Table 2 of 01_architecture). -/
def slotBase (k : Fin 2) : Nat := 0x180000 * k.val

/-- Chunks of a session and whether its map is complete (R400). -/
def Upd.nch (u : Upd) : Nat := ceilDiv u.sessionLen 4096
def Upd.complete (u : Upd) : Bool := u.sessionLen > 0 && (List.range u.nch).all u.chunks.contains

/-- A trial runs. -/
def Upd.inTrial (u : Upd) : Bool := u.st[u.active] == .trial

/-- The sender is the session port (R400). -/
def State.sessionOf (s : State) (p : Port) : Bool := s.upd.sessionLen > 0 && s.upd.sessionPort == some p

/-- A port's ownership counts as lost (R328). -/
def State.portLost (s : State) (p : Port) : Bool := (s.port p).wdExpired

/-- NCH, NRX and MISS (R400). -/
def Upd.progress (u : Upd) : List Byte :=
  le16 u.nch ++ le16 u.chunks.length ++
    le16 (match (List.range u.nch).find? (fun k => !u.chunks.contains k) with | some k => k | none => 0xFFFF)

/-- A session begins or is resumed (R400). -/
def beginNow (p : Port) (len : Nat) (resume : Bool) (s : State) : State :=
  let k := s.upd.other
  let s := s.setUpd (fun u =>
    if resume then { u with sessionPort := some p }
    else
      { u with
        sessionLen := len
        sessionPort := some p
        chunks := []
        st := u.st.set k.val .downloading k.isLt
        info := u.info.set k.val none k.isLt })
  raise 240 [] (denWrite 0x0110 2 ([BitVec.ofNat 8 (b2n resume), BitVec.ofNat 8 p.val, 0, 0] ++ le32 len) s)

/-- The excerpt of a legal digest (R398). -/
def excerpt (l : List Byte) : List Byte := l.take 4

/-- LEGVER, excerpt and LEGDIG of an image. -/
def legId (i : Option ImgInfo) : List Byte :=
  match i with
  | some x => le16 x.legver.toNat ++ excerpt x.legdig ++ x.legdig
  | none => List.replicate 70 0

def State.infoOf (s : State) (k : Fin 2) : Option ImgInfo := s.upd.info[k]
def State.verOf (s : State) (k : Fin 2) : Nat := match s.infoOf k with | some i => i.ver.toNat | none => 0

/-- LEGACT's content (Table 11 of 15_start_update_security). -/
def legactContent (s : State) : List Byte :=
  legId (s.infoOf s.upd.active) ++ legId (s.infoOf s.upd.other) ++ le32 (s.verOf s.upd.other) ++
    [BitVec.ofNat 8 s.upd.other.val, 0, 0, 0]

/-- The boot record that the update state stands for. -/
def Upd.bootRec (u : Upd) : BootRec :=
  BootRec.mk u.bootSeq u.active (u.st[u.active] == .trial) u.twin u.tboot u.flipRtc u.trialStarts

/-- Both copies of the boot record as the update state has it. -/
def Upd.synced (u : Upd) : Upd := { u with copies := Vector.replicate 2 (u.bootRec, true), journal := none, work := none }

/-- The copy that governs (R404): of those with a valid check value the one of the higher sequence number. -/
def Upd.governing (u : Upd) : BootRec :=
  let a := u.copies[0]
  let b := u.copies[1]
  if a.2 && (!b.2 || decide (b.1.seq ≤ a.1.seq)) then a.1 else if b.2 then b.1 else u.bootRec

/-- The flip to the other slot: it is on trial, the old one is the fallback, and the session is closed (R403). -/
def Upd.flipped (twin tboot now : Nat) (lchg : Bool) (u : Upd) : Upd :=
  { u with
    active := u.other
    st := (u.st.set u.other.val .trial u.other.isLt).set u.active.val .fallback u.active.isLt
    sessionLen := 0
    sessionPort := none
    chunks := []
    twin := twin
    tboot := tboot
    trialStarts := 0
    flipRtc := now
    trialLegal := lchg
    warned60 := false
    bootSeq := u.bootSeq + 1 }

/-- A confirmation clears the trial flag, raises the rollback floor, and keeps or drops the former fallback (R406). -/
def Upd.confirmed (u : Upd) : Upd :=
  let arb := match u.info[u.active] with | some i => i.arb | none => 0
  let floor := if u.floor.toNat < arb.toNat then arb else u.floor
  let keep : Bool := match u.info[u.other] with | some i => decide (floor.toNat ≤ i.arb.toNat) | none => false
  { u with
    floor := floor
    trialLegal := false
    trialStarts := 0
    st := (u.st.set u.active.val .active u.active.isLt).set u.other.val (cond keep .verified .invalid) u.other.isLt
    bootSeq := u.bootSeq + 1 }

/-- The flip back; the failed slot becomes VERIFIED (R405). -/
def Upd.flippedBack (u : Upd) : Upd :=
  { u with
    active := u.other
    st := (u.st.set u.other.val .active u.other.isLt).set u.active.val .verified u.active.isLt
    trialStarts := 0
    trialLegal := false
    warned60 := false
    bootSeq := u.bootSeq + 1 }

/-- What a change of the boot record makes of the update state; `now` is the wall time of a flip. -/
def BootWhat.apply (now : Nat) (u : Upd) : BootWhat → Upd
  | .activate _ twin tboot lchg => u.flipped twin tboot now lchg
  | .confirm _ => u.confirmed
  | .revert _ => u.flippedBack
  | .count => { u with trialStarts := u.trialStarts + 1, bootSeq := u.bootSeq + 1 }

/-- A journaled change of the boot record begins; `bootTick` carries it through (R404). -/
def bootBegin (what : BootWhat) (s : State) : State :=
  s.setUpd (fun u => { u with work := some (BootWork.mk 0 (what.apply s.wall u).bootRec what) })

/-- A reason of LEGREV and UPD_REVERT (Table 11 of 15_start_update_security). -/
def revertCode : RevertReason → Byte
  | .window => 0
  | .starts => 1
  | .failedStart => 2
  | .notActivated => 3

/-- The records and events of a change that is complete: UPD_ACTIVATE, UPD_CONFIRM or UPD_REVERT (Table 11 of
15_start_update_security). -/
def bootRecorded (what : BootWhat) (s : State) : State :=
  let a := s.upd.active
  match what with
  | .activate _ twin tboot _ =>
    raise 240 [] (denWrite 0x0112 2 ([BitVec.ofNat 8 a.val, 0, 0, 0] ++ le32 (s.verOf a) ++ le16 twin ++ le16 tboot) s)
  | .confirm _ => raise 242 [] (denWrite 0x0113 2 (le32 (s.verOf a) ++ le32 s.upd.floor.toNat) s)
  | .revert why => denWrite 0x0114 3 ([revertCode why, 0, 0, 0] ++ le32 (s.verOf a)) s
  | .count => s

/-- The change of the boot record is complete: it takes effect with both copies equal and the journal cleared, and is recorded. -/
def bootApply (w : BootWork) (s : State) : State :=
  bootRecorded w.what (s.setUpd (fun u => (w.what.apply w.new.flipRtc u).synced))

/-- What follows when it was made in operation: the command's completion, and the cold start (R403, R405). -/
def bootFollow (what : BootWhat) (s : State) : State :=
  match what with
  | .activate r _ _ _ => finish 0x0B04 r stOK [] 0
      (s.setSys (fun y => { y with startDue := y.startDue ++ [StartDue.mk .cold (y.now + msTicks 5) 2] }))
  | .confirm r => finish 0x0B05 r stOK [] 0 s
  | .revert _ => (raise 243 [] s).setSys (fun y => { y with
      afterStart := y.afterStart ++ [(243, [])]
      startDue := y.startDue ++ [StartDue.mk .cold y.now 2] })
  | .count => s

/-- A journal that fails its read-back: the change is undone, and a command ends with E_INTERNAL (Table 5 of
13_check_value_units). -/
def bootFailed (what : BootWhat) (s : State) : State :=
  let s := s.setUpd (fun u => { u with work := none, journal := none })
  match what with
  | .activate r _ _ _ => finish 0x0B04 r stE_INTERNAL [] 0 (recordInternal 0x0B04 r.obj s)
  | .confirm r => finish 0x0B05 r stE_INTERNAL [] 0 (recordInternal 0x0B05 r.obj s)
  | .revert _ | .count => recordInternal 0 0x0500 s

/-- The next stage of a change of the boot record (R404). -/
def bootStage (w : BootWork) (s : State) : State :=
  match w.stage with
  | 0 => s.setUpd (fun u => { u with journal := some (w.new, false), work := some { w with stage := 1 } })
  | 1 =>
    if s.configReads then
      s.setUpd (fun u => { u with journal := some (w.new, true), work := some { w with stage := 2 } })
    else bootFailed w.what s
  | 2 => s.setUpd (fun u => { u with
      copies := u.copies.set 0 (w.new, true), work := some { w with stage := 3 } })
  | 3 => s.setUpd (fun u => { u with
      copies := u.copies.set 1 (w.new, true), work := some { w with stage := 4 } })
  | _ => bootFollow w.what (bootApply w s)

/-- A change of the boot record goes on by one stage in each tick, while C7 serves (R404; log entry 121). -/
def bootTick (s : State) : State :=
  match s.upd.work with
  | some w => if !s.sys.vddOk || s.coreDown 7 then s else bootStage w s
  | none => s

/-- The update state as a copy of the boot record gives it (R404, Table 8 of 15_start_update_security). -/
def Upd.asCopy (g : BootRec) (u : Upd) : Upd :=
  let other := 1 - g.active
  let kept : ImgState := match u.st[other] with
    | .active | .trial | .fallback => .verified
    | x => x
  { u with
    active := g.active
    st := (u.st.set g.active.val (cond g.trial .trial .active) g.active.isLt).set other.val (cond g.trial .fallback kept) other.isLt
    twin := g.twin
    tboot := g.tboot
    trialStarts := g.starts
    flipRtc := g.flipRtc
    bootSeq := g.seq }

/-- A start resolves the boot record (R404): a valid journal is completed into both copies, with the records of its change, an invalid
one is discarded, and the copy that governs is the boot record. -/
def resolveBoot (s : State) : State :=
  let t := match s.upd.work, s.upd.journal with
    | some w, some (_, true) => bootApply w s
    | none, some (n, true) => s.setUpd (fun u => { u with copies := Vector.replicate 2 (n, true), journal := none })
    | _, _ => s.setUpd (fun u => { u with work := none, journal := none })
  t.setUpd (fun u => u.asCopy u.governing)

/-- A change of the boot record that a start makes: all its stages, within the start (R404). -/
def bootNow (what : BootWhat) (s : State) : State :=
  if s.configReads then bootApply (BootWork.mk 4 (what.apply s.wall s.upd).bootRec what) s else bootFailed what s

/-- The checks of UPD.BEGIN (R400). -/
def beginChecks (r : Req) (s : State) : List (Bool × Byte) :=
  let d := r.payload
  let len := leAt d 0 4
  [(!s.upd.inTrial && (match s.upd.sessionPort with | some q => q == r.port || s.portLost q | none => true), stE_STATE),
    (d.length == 8 && rsvZero (byteAt d 4) 0xFE && zeroBytes d 5 3, stE_FORMAT),
    (0x4000 < len && len ≤ 0x180000, stE_RANGE),
    (!bit (byteAt d 4) 0 || s.upd.sessionLen == len, stE_STATE)]

/-- An admitted UPD.BEGIN (R222, R400): its session and map are a write of the configuration region. -/
def beginApply (r : Req) (s : State) : Res :=
  let t := beginNow r.port (leAt r.payload 0 4) (bit (byteAt r.payload 4) 0) s
  checked (beginChecks r s) s
    (if s.configReads then okData t.upd.progress t else .done (recordInternal 0x0B01 r.obj s) stE_INTERNAL [] 0)

/-- An accepted activation (R403): LEGACT first where legal software changes, then the journaled flip. -/
def activateNow (r : Req) (twin tboot : Nat) (s : State) : State :=
  let l := s.lchg
  let s := if l then
      (legalWrite 0x0101 2 (legactContent s) (some r.port) true false s).setUpd (fun u => { u with
        pendingLegact := (s.infoOf u.other).map (·.legdig)
        oldLeg := (legId (s.infoOf u.active)).take 6 })
    else s
  bootBegin (.activate r twin tboot l) s

/-- LEGCONF's content. -/
def legconfContent (s : State) : List Byte :=
  (legId (s.infoOf s.upd.active)).take 6 ++ [0, 0] ++ le32 (s.verOf s.upd.active)

/-- A confirmation (R406): LEGCONF first after a trial that changed legal software, then the journaled change. -/
def confirmNow (r : Req) (s : State) : State :=
  let s := if s.upd.trialLegal then
      (legalWrite 0x0103 2 (legconfContent s) (some r.port) true false s).setUpd (fun u => { u with pendingLegact := none })
    else s
  bootBegin (.confirm r) s

/-- The checks of R403 before the last. -/
def activateChecks (r : Req) (s : State) : List (Bool × Byte) :=
  let d := r.payload
  let tw := leAt d 0 2
  [(s.sessionOf r.port || s.recovery, stE_STATE), (d.length == 4 && zeroBytes d 3 1, stE_FORMAT),
    ((tw == 0 || (30 ≤ tw && tw ≤ 3600)) && leAt d 2 1 ≤ 10, stE_RANGE),
    (s.upd.st[s.upd.other] == .verified && !s.upd.inTrial, stE_STATE),
    (!s.lchg || (s.isLegalPort r.port && !s.legal.sealed), stE_LEGAL)]

/-- The last checks are those of the legal record that must be written: when it does not fit EV225 is raised (R366), and when
it does not read back the command ends with E_INTERNAL (R365). -/
def checkedLegal (l : List (Bool × Byte)) (op typ : BitVec 16) (content : Option (List Byte)) (r : Req) (s : State) (k : Res) : Res :=
  checked l s (match content with
    | some d =>
      if !s.den.legalFits (40 + d.length) false then .done (raise 225 [] s) stE_DEN_FULL [] 0
      else if !s.legalReadsBack d.length then
        .done (recordInternal op r.obj (legalWrite typ 2 d (some r.port) false false s)) stE_INTERNAL [] 0
      else k
    | none => k)

/-- The checks of UPD.ACTIVATE (R403), then `k`. -/
def activateIf (r : Req) (s : State) (k : Res) : Res :=
  checkedLegal (activateChecks r s) 0x0B04 0x0101 (if s.lchg then some (legactContent s) else none) r s k

/-- An admitted UPD.ACTIVATE (R222, R403); TWIN and TBOOT of 0 stand for 300 s and 3 starts. -/
def activateApply (r : Req) (s : State) : Res :=
  let tw := leAt r.payload 0 2
  let tb := leAt r.payload 2 1
  activateIf r s (.held (activateNow r (if tw = 0 then 300 else tw) (if tb = 0 then 3 else tb) s))

/-- The checks of UPD.CONFIRM (R406), then `k`. -/
def confirmIf (r : Req) (s : State) (k : Res) : Res :=
  let legal := s.upd.trialLegal && s.sys.order != 2
  checkedLegal [(s.upd.inTrial, stE_STATE), (r.payload.length == 4 && zeroBytes r.payload 0 4, stE_FORMAT),
      (!legal || s.isLegalPort r.port, stE_LEGAL)]
    0x0B05 0x0103 (if legal then some (legconfContent s) else none) r s k

/-- An admitted UPD.CONFIRM (R222, R406). -/
def confirmApply (r : Req) (s : State) : Res := confirmIf r s (.held (confirmNow r s))

end Sys2Proof.Machine
end

