-- ==== Sys2Proof/Machine/ApplyOps.lean ====
section
/-! DEFINITION. What an admitted operation does (R226), by its own chapter: turn-ons, excitation, modes, loop currents, input
types, filter swaps, and configuration writes. -/

namespace Sys2Proof.Machine

/-- The request and opcode of a head; an internal restore carries an empty request. -/
def noReq : Req := Req.mk 0 0 0 0 false false 0 0 []

/-- CH.DIAG with CLRX: the excitation returns on admission (R79, Table 12 of 03_bridge_measurement). -/
def exciteReturn (c : Ch) (op : BitVec 16) (r : Req) (s : State) : State :=
  finish op r stOK [] 0 (s.setCh c (fun ch => { ch with brg := { ch.brg with exOn := !ch.brg.latch } }))

/-- An accepted FLT.SWAP waits for its boundary (R100); a carrier channel's plan is recomputed with it (R70, Table 7 of
04_filter_chain), and the bank's checks are made before its legal record (R333). -/
def swapAccept (c : Ch) (w : BitVec 32) (op : BitVec 16) (r : Req) (s : State) : State :=
  let b := bankOf c
  let ch := s.ch c
  let smask : BitVec 3 := BitVec.ofNat 3 (fld w 27 25)
  let chw := bit w 24
  let mdiv : BitVec 13 := BitVec.ofNat 13 (fld w 23 11)
  let sdec : BitVec 8 := BitVec.ofNat 8 (fld w 7 0)
  let after := { ch with filt := ch.filt.swapped smask chw mdiv sdec }
  let put (plan : Bool) (s : State) : State :=
    s.setCh c (fun ch => { ch with filt := { ch.filt with
      swap := some (Swap.mk smask chw mdiv sdec r s.sys.now plan) } })
  let plan := if ch.carrierMode then s.newPlan b (posOf c) after else some (s.latestRates b)
  match plan with
  | none => finish op r stE_RANGE [] 0 (releaseShare c s)
  | some rates =>
    if !decide (bankDemand s b c after.chain ≤ capacity) then finish op r stE_RANGE [] 0 (releaseShare c s)
    else
      let note := legalNote op r (s.isLegal c) (s.setCh c (fun _ => after)) s
      if note.1.isSome then finish op r (note.1.getD 0) [] 0 note.2
      else if rates != s.latestRates b then put true (planCommit b rates [] note.2)
      else put false note.2

/-- A write of the configuration region that fails its read-back twice ends with E_INTERNAL and a Den record at FAULT (Table 5
of 13_check_value_units), and nothing changes. -/
def configFailed (op : BitVec 16) (r : Req) (s : State) : State :=
  finish op r stE_INTERNAL [] 0 (recordInternal op r.obj s)

/-- A committed trim (R148): written with its Den record at NOTICE; the session ends and level 5 governs again, under SLEW from the
current that its code stands for under the new trim (R146). -/
def trimApply (c : Ch) (m4 m20 : Nat) (factory : Bool) (op : BitVec 16) (r : Req) (s : State) : State :=
  let set (s : State) : State := s.setCh c (fun ch => { ch with
    loop := { ch.loop with trim := if factory then .factory else .user m4 m20 } })
  let note := legalNote op r (s.isLegal c) (set s) s
  if !s.configReads then configFailed op r s
  else if note.1.isSome then finish op r (note.1.getD 0) [] 0 note.2
  else
    let s := denEvent 2 0xFF (chObj c) (le32 m4 ++ le32 m20) (legalTakes r.obj (set note.2))
    let s := (evalOut c s).setCh c (fun ch => { ch with loop := { ch.loop with session := .none } })
    finish op r stOK [] 0 (evalOut c s)

/-- EV204 with its cause (Table 6 of 09_badger). -/
def setCeiling (cause : Byte) (new : Nat) (s : State) : State :=
  let old := s.badger.ceiling
  raise 204 ([cause, 0] ++ le16 new ++ le16 old) (s.setBadger (fun b => { b with ceiling := new }))

/-- BDG.SET takes effect for later evaluations (R221). -/
def bdgApply (op : BitVec 16) (r : Req) (s : State) : State :=
  let d := r.payload
  if !s.configReads then configFailed op r s
  else
    let s := s.setBadger (fun b => { b with
      ifmax := #v[leAt d 0 2, leAt d 2 2]
      ixmax := #v[leAt d 4 2, leAt d 6 2]
      pceil := leAt d 8 2
      dtguard := leAt d 10 1
      eres := leAt d 11 1
      tambx := leAt d 12 1 })
    finish op r stOK [] 0 (if s.ceilingNow = s.badger.ceiling then s else setCeiling 2 s.ceilingNow s)

/-- A chunk is written and read back, and its bit set; a map that becomes complete makes the slot DOWNLOADED and raises EV240.
A chunk that fails its read-back is missing, and the command ends with E_INTERNAL (R401; log entry 96). -/
def chunkApply (op : BitVec 16) (r : Req) (s : State) : State :=
  let off := leAt r.payload 0 4
  let k := s.upd.other
  let was := s.upd.complete && s.upd.st[k] == .downloaded
  let a := slotBase k + off
  let good := !s.mramFails a (r.payload.drop 8).length
  let s := { s with mram := mramStore s.mram a (s.cells a (r.payload.drop 8)) }
  let s := s.setUpd (fun u => { u with
    chunks := (if good then [off / 4096] else []) ++ u.chunks.filter (· != off / 4096) })
  let s := s.setUpd (fun u => { u with
    st := u.st.set k.val (if u.complete then .downloaded else .downloading) k.isLt
    info := u.info.set k.val none k.isLt })
  let s := if s.upd.complete && !was then raise 240 [] s else s
  finish op r (if good then stOK else stE_INTERNAL) [] 0 (if good then s else recordInternal op r.obj s)

/-- HOLD_T is written and kept in the Holm (R257). -/
def fieldApply (b : Bank) (op : BitVec 16) (r : Req) (s : State) : State :=
  if !s.configReads then configFailed op r s
  else finish op r stOK [] 0 (s.setHolm b (fun h => { h with holdT := word16 r.payload 0 }))

/-- The bank positions a CH.BMAP mask names, ascending. -/
def maskPositions (m : Byte) : List (Fin 8) := (List.finRange 8).filter (fun k => bit m k.val)

/-- Entry i of a CH.BMAP payload (Table 5 of 10_supplies_and_safe_states). -/
def mapEntry (d : List Byte) (i : Nat) : BurEntry :=
  BurEntry.mk (byteAt d (1 + 12 * i)) (word32 d (5 + 12 * i)) (word32 d (9 + 12 * i))

/-- The named entries are replaced in a single step (R264). -/
def mapApply (b : Bank) (op : BitVec 16) (r : Req) (s : State) : State :=
  let pos := maskPositions (byteAt r.payload 0)
  if !s.configReads then configFailed op r s
  else
    let s := overAll (List.zip pos (List.range pos.length)) (fun e s => s.setCh (chAt b e.1) (fun ch => { ch with
      bmap := mapEntry r.payload e.2 })) s
    finish op r stOK [] 0 (evalBank b s)

/-- An input word takes effect (R166): INV turns the reported state, at once, frozen or not, and with no edge reported (DESIGN CHOICE,
log entry 131), WBEN = 0 ends a wire break, and another DEB or TYPE restarts the debounce interval. -/
def setInput (c : Ch) (w : BitVec 32) (s : State) : State :=
  s.setCh c (fun ch => { ch with din := { ch.din with
    word := w
    state := if bit w 18 != bit ch.din.word 18 then !ch.din.state else ch.din.state
    wireBreak := ch.din.wireBreak && bit w 19
    debFrom := if fld w 8 0 != fld ch.din.word 8 0 || fld w 15 14 != fld ch.din.word 15 14 then s.sys.raw else ch.din.debFrom } })

/-- An admitted operation runs under its own chapter's rules. -/
def applyAdmitted (h : Head) (s : State) : State :=
  let r := h.req.getD noReq
  match h.kind with
  | .turnOn c => levelChange c .on false h.m h.opcode r s
  | .excite c w x =>
    match x with
    | some _ => exciteReturn c h.opcode r s
    | none => measApply c w h.opcode r s
  | .mode c m wiring => modeAccept c m wiring h.m h.opcode r s
  | .loopSet c n alarm => levelChange c (.cur n) alarm h.m h.opcode r s
  | .input c w =>
    let note := legalNote h.opcode r (s.isLegal c) (setInput c w s) s
    if note.1.isSome then finish h.opcode r (note.1.getD 0) [] 0 note.2
    else finish h.opcode r stOK [] 0 (legalTakes r.obj (setInput c w note.2))
  | .rate c w => swapAccept c w h.opcode r s
  | .mramTrim c m4 m20 factory => trimApply c m4 m20 factory h.opcode r s
  | .mramBdg => bdgApply h.opcode r s
  | .mramChunk => chunkApply h.opcode r s
  | .updBegin => (beginApply r s).ends h.opcode r
  | .updActivate => (activateApply r s).ends h.opcode r
  | .updConfirm => (confirmApply r s).ends h.opcode r
  | .mramField b => fieldApply b h.opcode r s
  | .mramMap b => mapApply b h.opcode r s
  | .restore c _ => s.setCh c (fun ch => { ch with restore := .admitted })

end Sys2Proof.Machine
end

