-- ==== Sys2Proof/Machine/BadgerOps.lean ====
section
/-! DEFINITION. The Badger's evaluation (R226 to R232), its report (R240) and threshold events (R241), and how a priced
command joins it. -/

namespace Sys2Proof.Machine

/-- The place of a priority in the order SAFETY, LEGAL, CONTROL, ELASTIC (R226). -/
def prioRank (p : BitVec 2) : Nat :=
  match p.toNat with
  | 3 => 0
  | 2 => 1
  | 0 => 2
  | _ => 3

/-- Heads in evaluation order: priority, then acceptance (R226, R230). -/
def sortHeads (l : List Head) : List Head :=
  l.mergeSort (fun a b => decide (prioRank a.prio < prioRank b.prio) ||
    (prioRank a.prio == prioRank b.prio && decide (a.at_ ≤ b.at_)))

/-- The same operation: a request, or the restore of one channel. -/
def Head.same (a b : Head) : Bool :=
  match a.req, b.req with
  | some r, some q => r.port == q.port && r.tag == q.tag && r.obj == q.obj
  | none, none => (match a.kind, b.kind with | .restore c _, .restore d _ => c == d | _, _ => false)
  | _, _ => false

def dropHead (h : Head) (s : State) : State :=
  s.setBadger (fun b => { b with heads := b.heads.filter (fun x => !x.same h) })

/-- EV197 and its Den record at NOTICE (R228, R232, Table 6 of 09_badger). -/
def budgetEvent (r : Req) (op : BitVec 16) (ledger cause : Byte) (s : State) : State :=
  let d := [BitVec.ofNat 8 r.port.val, ledger] ++ le16 r.tag.toNat ++ le16 op.toNat ++ le16 r.obj.toNat ++ [cause, 0, 0, 0]
  raise 197 d (if cause = 2 then denEvent 2 197 r.obj d s else s)

/-- The restore that can never fit ends (R228): its channel stays de-energised, and its internal slot is free (log entry 106). -/
def dropRestore (c : Ch) (ledger cause : Byte) (s : State) : State :=
  let d := [0xFF, ledger, 0, 0] ++ le16 0x0301 ++ le16 (chObj c).toNat ++ [cause, 0, 0, 0]
  let s := endInternal (.restore c) (s.setCh c (fun ch => { ch with restore := .none, presag := none }))
  raise 197 d (denEvent 2 197 (chObj c) d s)

/-- An operation ends with E_BUDGET. -/
def budgetEnd (h : Head) (ledger cause : Byte) (s : State) : State :=
  let s := dropHead h s
  match h.req, h.kind with
  | some r, _ => finishHere h.opcode r stE_BUDGET [] 0 (budgetEvent r h.opcode ledger cause s)
  | none, .restore c _ => dropRestore c ledger cause s
  | none, _ => s

/-- An operation is DEFERRED: its slot says so, and the ledger that held it is kept for EV197 (R231, R472). -/
def deferHead (h : Head) (code : Nat) (s : State) : State :=
  let s := s.setBadger (fun b => { b with heads := b.heads.map (fun x =>
    if x.same h then
      { x with
        lastLedger := BitVec.ofNat 8 code
        deferAt := if x.deferred then x.deferAt else s.sys.now
        deferred := true }
    else x) })
  match h.req with
  | some r => setSlot r.port r (fun sl => { sl with
      st := if sl.st == .completed then sl.st else .deferred
      deferAt := match sl.deferAt with | some t => some t | none => some s.sys.now }) s
  | none => s

/-- Bytes an operation writes to MRAM: the data of a chunk (R239, R401), otherwise its payload (log entry 24). -/
def Head.bytes (h : Head) : Nat :=
  match h.req, h.kind with
  | some r, .mramChunk => r.payload.length - 8
  | some r, _ => r.payload.length
  | none, _ => 0

/-- An operation leaves the Badger: its profile joins the forecast until the counters show its draw (R223, R225), a turn-on
of R227 takes the bank's step, and the operation runs. -/
def letRun (h : Head) (p : Profile) (s : State) : State :=
  let s := dropHead h s
  let big : Bool := match h.kind.turnOn? with | some c => decide ((inrush s c).peak > 1000000) | none => false
  let s := s.setBadger (fun b => { b with
    admitted := if p.raisesF || p.raisesX || p.raisesP then b.admitted ++ [p] else b.admitted
    stagger := if big then p.bank :: b.stagger else b.stagger })
  match h.req with
  | some r =>
    applyAdmitted h (setSlot r.port r (fun sl => { sl with
      st := .executing
      deferAt := none
      defTicks := sl.defTicks + (match sl.deferAt with | some t => s.sys.now - t | none => 0) }) s)
  | none => applyAdmitted h s

/-- The object whose Holm an operation of a head is sent to. -/
def Head.obj (h : Head) : BitVec 16 :=
  match h.req, h.kind with
  | some r, _ => r.obj
  | none, .restore c _ => chObj c
  | none, _ => 0x0200

/-- An operation whose Holm's link is lost completes with E_STATE in place of being sent (R29). -/
def unsendable (h : Head) (s : State) : State :=
  match h.req with
  | some r => finishHere h.opcode r stE_STATE [] 0 (dropHead h s)
  | none => s

/-- An operation that its Holm does not hear is sent all the same (R29, R30); a restore waits. -/
def sendHead (b : Bank) (h : Head) (s : State) : State :=
  match h.req with
  | some r => sendUnheard b h.opcode r (dropHead h s)
  | none => s

/-- EV202 for an MRAM write that waits for the reserve (R239, Table 6 of 09_badger). -/
def reserveEvent (cause : Byte) (s : State) : State :=
  raise 202 ([cause, 0] ++ le16 s.badger.bufLimit ++ le16 (satN (s.badger.eRes / 1000) 16)) s

/-- What an evaluation carries: the state, the budgets in force when it began (R221), the closed ledgers, the banks with an
ELASTIC admission (R226). -/
structure EvalAcc where
  s : State
  lims : Badger
  blocked : List (Nat × Nat)
  elastic : List Bank

/-- The state judged by the budgets of an evaluation's beginning: a BDG.SET of that evaluation counts from the next (R221). -/
def State.withLimits (s : State) (l : Badger) : State :=
  s.setBadger (fun b => { b with
    ifmax := l.ifmax
    ixmax := l.ixmax
    ceiling := l.ceiling
    dtguard := l.dtguard
    eres := l.eres })

/-- The operation's deadline has passed. -/
def Head.late (h : Head) (now : Nat) : Bool := match h.deadline with | some t => t ≤ now | none => false

/-- A restore can be evaluated once it holds an internal slot (R314). -/
def State.headHolds (s : State) (h : Head) : Bool :=
  match h.req, h.kind with
  | none, .restore c _ => !s.internalWaits (.restore c)
  | _, _ => true

/-- The head's change to the legal configuration has been recorded and taken effect, and only the excitation is still to come (R79,
R341). -/
def PricedKind.recorded : PricedKind → Bool
  | .excite _ _ x => x.isSome
  | _ => false

/-- What an operation that was DEFERRED meets at its admission, when rights have changed since it was accepted: its port owns the
channel no longer (R54, R328), or the channel's legal configuration is closed to it (R341). -/
def State.turnedAway (s : State) (h : Head) : Option Byte :=
  match h.req with
  | some r =>
    if !h.deferred then none
    else if s.lacksOwner h.opcode r then some (s.ownerStatus h.opcode r)
    else if legalOps h.opcode r && !h.kind.recorded && !(match chOf r.obj with | some c => s.legalOk r.port c | none => true) then some stE_LEGAL
    else none
  | none => none

/-- The operation ends with such a status. -/
def turnAway (h : Head) (st : Byte) (s : State) : State :=
  match h.req with
  | some r => finish h.opcode r st [] 0 (dropHead h s)
  | none => s

/-- One operation of an evaluation (R226). One that arrives with its deadline passed is deferred, to end under R232. -/
def evalHead (a : EvalAcc) (h : Head) : EvalAcc :=
  let s := a.s
  if !s.badger.heads.any (·.same h) then a
  else if !s.headHolds h then a
  else
    let on := h.kind.turnOn?
    let j := s.withLimits a.lims
    let p := profileOf j h.opcode h.bytes h.kind
    let raised := raisedBy p on
    let prio := h.prio.toNat
    let wait (code : Nat) : EvalAcc := { a with s := deferHead h code s }
    if h.late s.sys.now && (h.deferred || !raised.isEmpty) then (if h.deferred then a else wait 0)
    else if !s.linkOk h.obj then { a with s := unsendable h s }
    else if s.mustWait h.obj then a
    else if (s.unheard h.obj).isSome then { a with s := sendHead ((s.unheard h.obj).getD 0) h s }
    else if (match h.req with | some r => s.legalWaits h.opcode r | none => false) then a
    else if (s.turnedAway h).isSome then { a with s := turnAway h ((s.turnedAway h).getD 0) s }
    else if prio = 3 || raised.isEmpty then { a with s := letRun h p s }
    else
      match failures j true prio p on with
      | f :: _ => { a with s := budgetEnd h (BitVec.ofNat 8 f.1) 2 s }
      | [] =>
        let big := match on with | some c => decide ((inrush s c).peak > 1000000) | none => false
        if (s.holm p.bank).shed && p.raisesF then wait 9
        else if big && s.badger.stagger.contains p.bank then wait 0
        else
          match raised.find? a.blocked.contains with
          | some f => wait f.1
          | none =>
            if prio = 1 && a.elastic.contains p.bank then wait 0
            else
              match failures j false prio p on with
              | [] => EvalAcc.mk (letRun h p s) a.lims a.blocked (if prio = 1 then p.bank :: a.elastic else a.elastic)
              | f :: rest =>
                let t := deferHead h f.1 s
                let t := if p.mram > 0 then reserveEvent 2 (flush t) else t
                EvalAcc.mk t a.lims (a.blocked ++ f :: rest) a.elastic

/-- Highest step mean of a ledger. -/
def peak (f : Nat → Nat) : Nat := (steps.map f).foldl max 0

/-- Horizon mean of the committed forecast, µW. -/
def State.pkMean (s : State) : Nat := (steps.map s.pkAt).sum / 10

/-- The five compared forecasts with their budgets, in mW and mA (R241). -/
def compared (s : State) : List (Nat × Nat × Nat) :=
  [(192, max s.pkMean (s.pkAt 9) / 1000, s.badger.ceiling),
   (193, peak (s.fsAt 0) / 1000, s.badger.ifmax[0]), (194, peak (s.fsAt 1) / 1000, s.badger.ifmax[1]),
   (195, peak (s.ixAt 0) / 1000, s.badger.ixmax[0]), (196, peak (s.ixAt 1) / 1000, s.badger.ixmax[1])]

/-- EV192 to EV196 on crossing 90 % and falling below 85 % (R241). -/
def thresholdEvents (s : State) : State :=
  let one (k : Fin 5) (s : State) : State :=
    let e := (compared s).getD k.val (0, 0, 0)
    let payload (kind : Byte) : List Byte := [kind, 0] ++ le16 (satN e.2.1 16) ++ le16 e.2.2
    if s.badger.warned.contains k then
      if e.2.1 * 100 < 85 * e.2.2 then
        raise e.1 (payload 2) (s.setBadger (fun b => { b with warned := b.warned.filter (· != k) }))
      else s
    else if e.2.1 * 100 ≥ 90 * e.2.2 then
      raise e.1 (payload 1) (s.setBadger (fun b => { b with warned := k :: b.warned }))
    else s
  overAll [0, 1, 2, 3, 4] one s

/-- Smallest forecast junction margin in 1/16 K and its channel, over the switch channels (Table 5 of 09_badger). -/
def minMargin (s : State) : Int × Nat :=
  (allCh.filter (fun c => (s.ch c).mode.isSwitch)).foldl (fun a c =>
    let now := if (s.ch c).conducting then (s.ch c).sw.icur * 250 * ((s.ch c).sw.icur * 250) * ronMicro (s.ch c).sw.tj / 1000000000000 else 0
    let adm := s.badger.admitted.flatMap (fun p => (p.power.filter (fun e => e.1 == c)).map (·.2))
    let m := junctionMargin s c (s.dtjc c) (steps.map (fun k => now + (adm.map (fun l => at10 l k)).sum)) / 1000000
    if m < a.1 then (m, c.val) else a) (32767, 0)

/-- SHEDA or SHEDB (Table 5 of 09_badger). -/
def shedByte (h : Holm) : Byte :=
  if h.shed then BitVec.ofNat 8 (128 + (if h.shedLow < 8 then h.shedLow else 0)) else 0

/-- The report of an evaluation (R240). -/
def reportOf (s : State) : List Byte :=
  let ma (x : Nat) : List Byte := le16 (satN ((x + 500) / 1000) 16)
  let need := (50000 * 100 + s.den.bufBytes * 4883) / 100
  let m := minMargin s
  le16 s.badger.ceiling ++ ma s.pkgUw ++ ma s.pkMean ++ ma s.ownUw ++ ma (s.badger.meters[0]).f ++ ma (peak (s.fsAt 0)) ++
    ma (s.badger.meters[1]).f ++ ma (peak (s.fsAt 1)) ++ ma (s.badger.meters[0]).x ++ ma (s.badger.meters[1]).x ++
    le16 (satN (s.badger.eRes / 1000) 16) ++ le16 (satN (need / 1000) 16) ++
    le16 (s.badger.heads.filter (·.deferred)).length ++ [shedByte (s.holm 0), shedByte (s.holm 1)] ++ leSigned m.1 2 ++
    [BitVec.ofNat 8 m.2, 0] ++ le64 s.sys.now

/-- One evaluation (R226); none runs while C6 is in engine recovery (R233) or Mainland is unpowered. -/
def evaluate (s : State) : State :=
  if s.coreDown 6 || !s.sys.vddOk then s
  else
    let a := (sortHeads s.badger.heads).foldl evalHead (EvalAcc.mk s s.badger [] [])
    let s := thresholdEvents a.s
    s.setBadger (fun b => { b with report := reportOf s })

/-- The priority an operation runs at (R229): a LOOP.SET with ALARM at SAFETY, legal channels at LEGAL. -/
def effPrio (s : State) (r : Req) (kind : PricedKind) : BitVec 2 :=
  match kind with
  | .loopSet _ _ true => 3
  | _ =>
    match chOf r.obj with
    | some c => if s.isLegal c then 2 else r.prio
    | none => r.prio

/-- When an operation's deadline passes (R232): counted from its slot; none when it is 0. -/
def deadlineAt (s : State) (op : BitVec 16) (r : Req) : Option Nat :=
  if r.deadline = 0 then none
  else
    match s.slotOf op r with
    | some sl => some (sl.takenAt + msTicks r.deadline.toNat)
    | none => some (s.sys.now + msTicks r.deadline.toNat)

/-- A priced command reaches the head of its object queue: it is evaluated with all others (R226), one that raises no ledger
admitted at once (R222); while C6 is in engine recovery none is admitted (R19, R233). -/
def submit (op : BitVec 16) (r : Req) (kind : PricedKind) (m : ClampMeas) (s : State) : State :=
  let n := match s.slotOf op r with | some sl => sl.order | none => s.sys.accepted
  let h : Head := Head.mk kind op (some r) (effPrio s r kind) n (deadlineAt s op r) (if s.coreDown 6 then 0x0A else 0) false 0 m
  let s := s.setBadger (fun b => { b with heads := b.heads ++ [h] })
  if s.coreDown 6 then deferHead h 0x0A s else evaluate s

/-- An internal restore is submitted at CONTROL, without a deadline (R252), and takes an internal slot (R314). -/
def submitRestore (c : Ch) (s : State) : State :=
  match (s.ch c).presag with
  | none => s
  | some d =>
    let s := s.setCh c (fun ch => { ch with restore := .pending })
    let s := arise (.restore c) (s.setSys (fun y => { y with accepted := y.accepted + 1 }))
    let h : Head := Head.mk (.restore c (normDemand (s.ch c).mode d)) 0x0301 none 0 s.sys.accepted none 0 false 0 (ClampMeas.mk [])
    s.setBadger (fun b => { b with heads := b.heads ++ [h] })

end Sys2Proof.Machine
end

