-- ==== Sys2Proof/Machine/SwitchOps.lean ====
section
/-! DEFINITION. The wire model and the fuse table (R183 to R188), the conditions for clearing locks (R198), and timebase
moves (R199). -/

namespace Sys2Proof.Machine

/-- Conductor parameters of a cross-section code (Table 4 of 08_load_switches): r_20 in µΩ/m, R_th in K·m/W, τ in s. -/
def wireParams (xsec : Nat) : Nat × Nat × Nat :=
  match xsec with
  | 0 => (127600, 36, 8)
  | 1 => (71400, 30, 12)
  | 2 => (52500, 27, 15)
  | 3 => (35700, 23, 20)
  | 4 => (23800, 20, 28)
  | 5 => (17900, 18, 35)
  | 6 => (11900, 15, 50)
  | _ => (7140, 12, 75)

/-- The insulation class limit in °C (Table 3 of 08_load_switches). -/
def classLimit (w : BitVec 32) : Nat :=
  match fld w 21 20 with
  | 0 => 70
  | 1 => 90
  | _ => 105

/-- θ_trip in 10⁻¹² °C (R186). -/
def thetaTrip (w : BitVec 32) : Int := ((classLimit w : Int) - fld w 12 8) * 1000000000000

/-- One 100 µs update of θ_w (R185): θ and θ_a in 10⁻¹² °C, the current in 250 µA units. -/
def wireStep (w : BitVec 32) (theta thetaA : Int) (i : Nat) : Int :=
  let p := wireParams (fld w 19 16)
  let b4 : Int := 4 + fld w 27 24
  -- I² r_20 R_th b in 10⁻¹² K: (250 i µA)² × µΩ × K·m/W × b4 / 4, in 10⁻¹⁸ K
  let k : Int := ((i * 250) * (i * 250) * p.1 * p.2.1 : Nat) * b4 / 4 / 1000000
  let heat : Int := k + k * (393 * (theta - 20000000000000)) / 100000000000000000
  theta + divRound ((thetaA + heat - theta) * 4) (10000 * p.2.2 * b4.toNat)

/-- 100 µs of the fuse fraction (R188) in 2⁻⁴⁸, at a current in 250 µA units. -/
def fuseStep (f : Fuse) (frac i : Nat) : Nat :=
  match fuseTime (f.pts.map (fun p => (1000 * p.1, p.2))) (250 * i) with
  | some t => frac + 2 ^ 48 * 100 / t
  | none => frac * expNeg (one40 / (10000 * f.tcool)) / one40

/-- F has reached 1. -/
def fuseFull : Nat := 2 ^ 48

/-- ΔT sensing of a switch is faulty: its own junction reading, or the case reading of its bank (R195). -/
def State.sensingFaulty (s : State) (c : Ch) : Bool := (s.ch c).sw.sensFault || (s.holm (bankOf c)).caseFault

/-- θ_a: the case temperature, or its stand-in while the bank's ΔT sensing is faulty (R185), in 10⁻¹² °C. -/
def State.thetaA (s : State) (b : Bank) : Int :=
  if (s.holm b).caseFault then (if s.sys.order = 1 then 105 else 85) * 1000000000000 else (s.holm b).case * 62500000000

/-- The junction counts as cool (R194). -/
def State.cool (s : State) (c : Ch) : Bool :=
  decide (s.dtjc c < ((fld (s.ch (s.lead c)).sw.prot 22 16 : Int) - 15) * 16)

/-- The conditions under which named locks may be cleared (R198); a lock that is not set is ignored. -/
def clearAllowed (s : State) (c : Ch) (fl : Byte) : Bool :=
  let ld := (s.ch (s.lead c)).sw
  let mem := s.members c
  let has (f : Locks → Bool) : Bool := mem.any (fun m => f (s.ch m).locks)
  (!(bit fl 0 && has (·.fuse)) || (if bit ld.wire 31 then decide (ld.fuseF ≤ 2 ^ 47)
      else decide (ld.theta ≤ thetaTrip ld.wire - 5000000000000))) &&
    (!(bit fl 1 && has (·.clamp)) || mem.all (fun m => decide ((s.ch m).sw.bucket * 2 ≤ 100 * fld ld.prot 47 32))) &&
    (!(bit fl 2 && has (fun l => l.thermHold || l.thermLatch)) ||
      mem.all (fun m => decide ((s.ch m).sw.tj < 150 * 16) && (s.sensingFaulty m || s.cool m)))

/-- Clears the named locks on both members of a pair, with their events (R198, Table 10 of 08_load_switches, R214), and
sets level 5 to the de-energised state (R37) when a lock was cleared. -/
def clearLocks (c : Ch) (fl : Byte) (s : State) : State :=
  let mem := s.members c
  let has (f : Locks → Bool) : Bool := mem.any (fun m => f (s.ch m).locks)
  let fuse := bit fl 0 && has (·.fuse)
  let clamp := bit fl 1 && has (·.clamp)
  let therm := bit fl 2 && has (fun l => l.thermHold || l.thermLatch)
  let seqf := bit fl 4 && has (·.seqFault)
  let clr (l : Locks) : Locks :=
    { l with
      fuse := l.fuse && !fuse
      clamp := l.clamp && !clamp
      thermHold := l.thermHold && !therm
      thermLatch := l.thermLatch && !therm
      seqFault := l.seqFault && !seqf }
  let s := if fuse || clamp || therm || seqf then
      dropL5 c
        (overAll mem (fun m s => s.setCh m (fun ch => { ch with locks := clr ch.locks })) s)
    else s
  let s := if bit fl 3 then
      s.setCh (s.lead c) (fun ch => { ch with sw := { ch.sw with learned := false, ipk := 0, qin := 0, i100 := 0 } })
    else s
  let s := evalOut c s
  let s := if fuse then swEvent c 0 3 1 s else s
  let s := if clamp then swEvent c 1 3 1 s else s
  let s := if therm then swEvent c 2 7 1 s else s
  if seqf then notifyHolm (bankOf c) 2 4 (BitVec.ofNat 8 (posOf c).val) 0 (some 1) s else s

/-- A DOP channel alone on its timebase. -/
def aloneOn (s : State) (c : Ch) : Bool :=
  match (s.ch c).sw.tb with
  | some k => !(bankChs (bankOf c)).any (fun d => s.lead d != c && (s.ch d).mode == .dop && (s.ch d).sw.onTb k)
  | none => false

/-- A timebase can be had for a period (R199). -/
def tbAvailable (s : State) (c : Ch) (period : BitVec 32) : Bool :=
  (tbFind s (bankOf c) period).isSome || aloneOn s c

/-- The timebase of a channel that is its only user takes a new period at the end of its present one (R199). -/
def tbRenew (b : Bank) (k : Fin 4) (period : BitVec 32) (s : State) : State :=
  s.setHolm b (fun h => { h with
    tbs := h.tbs.set k.val (h.tbs[k].map (fun t => { t with next := some (period, t.nextStart (s.tbNow b)) })) k.isLt })

/-- The members of a channel move to a timebase at its next period start (R201). -/
def tbMove (c : Ch) (k : Fin 4) (s : State) : State :=
  let due := match (s.holm (bankOf c)).tbs[k] with | some t => t.nextStart (s.tbNow (bankOf c)) | none => s.tbNow (bankOf c)
  overAll (s.members c) (fun m s => s.setCh m (fun ch => { ch with sw := { ch.sw with tbNext := some (k, due) } })) s

/-- A DOP channel on a timebase changes its PERIOD (R199, R201). -/
def tbChange (c : Ch) (period : BitVec 32) (s : State) : State :=
  let b := bankOf c
  match (s.ch c).sw.tb, tbFind s b period with
  | some k0, some k =>
    let holds := match (s.holm b).tbs[k] with | some t => t.held == period | none => false
    if holds && k == k0 then s
    else if aloneOn s c && !holds then tbRenew b k0 period s
    else tbMove c k (tbSet b k period s)
  | some k0, none => if aloneOn s c then tbRenew b k0 period s else s
  | none, _ => s

/-- New pulse generator settings (R199 to R202): in DOP they come into force at the channel's next on edge (R201), in DO at
once. -/
def setPgen (c : Ch) (g : Pgen) (s : State) : State :=
  let same := g.period == (s.ch c).sw.pgen.period
  let s := overAll (s.members c) (fun m s => s.setCh m (fun ch => { ch with sw := { ch.sw with
    pgen := g
    prun := if ch.mode == .dop then ch.sw.prun else g
    tbNext := if same then ch.sw.tbNext else none } })) s
  if (s.ch c).mode != .dop then s
  else if (s.ch c).sw.tb.isNone then tbSettle (bankOf c) (tbTake c s)
  else tbSettle (bankOf c) (placePhase c (if same then s else tbChange c g.period s))

end Sys2Proof.Machine
end

