-- ==== Sys2Proof/Machine/RecOps.lean ====
section
/-! DEFINITION. Completions and records on their way to RSPQ: delivery (R304, R305), the response store and immediate records
(R315), release (R320), the replay cache and its copies (R310), and reading (R294). -/

namespace Sys2Proof.Machine

/-- Bytes of the 64 KiB response store in use: records of completed operations that do not wait for it (R315). -/
def PortSt.storeBytes (q : PortSt) : Nat :=
  ((q.slots.filter (fun sl => sl.st == .completed && !q.waiting.contains sl.req.tag)).map (fun sl => sl.record.length)).sum

/-- Completed operations that waited enter RSPQ in completion order while their records fit (R315). -/
def admitWaiting : List (BitVec 16) → PortSt → PortSt
  | [], q => { q with waiting := [] }
  | t :: rest, q =>
    match q.slots.find? (fun sl => sl.req.tag == t && sl.st == .completed) with
    | none => admitWaiting rest { q with waiting := rest }
    | some sl =>
      if q.storeBytes + sl.record.length ≤ 65536 then
        admitWaiting rest { q with
          waiting := rest
          rsp := q.rsp ++ [RspRec.mk 0 sl.record t sl.req.autorel] }
      else q

/-- A completed slot is released (R320): slot and tag are free, its record leaves RSPQ, and waiting records move up. -/
def PortSt.release (q : PortSt) (tag : BitVec 16) : PortSt :=
  if tag = 0 then q
  else
    let own (r : RspRec) : Bool := (r.kind == 0 || r.kind == 4) && r.tag == tag
    let q := { q with
      slots := q.slots.filter (fun sl => !(sl.req.tag == tag && sl.st == .completed))
      waiting := q.waiting.filter (· != tag)
      rdPos := match q.rsp with | r :: _ => if own r then 0 else q.rdPos | [] => 0
      rsp := q.rsp.filter (fun r => !own r) }
    admitWaiting q.waiting q

/-- The slot that holds a tag. -/
def PortSt.held (q : PortSt) (tag : BitVec 16) : Option Slot :=
  if tag = 0 then none else q.slots.find? (fun sl => sl.req.tag == tag && !sl.chain)

/-- The replay cache's latest entry of a tag (R310). -/
def PortSt.cached (q : PortSt) (tag : BitVec 16) : Option Replay := q.replay.find? (fun e => e.tag == tag)

/-- A cache of 64 entries, newest first (R310). -/
def PortSt.remember (q : PortSt) (e : Replay) : PortSt := { q with replay := (e :: q.replay).take 64 }

/-- Drops the oldest immediate record that no read has begun (R315). -/
def dropImmediate (begun : Bool) : List RspRec → List RspRec
  | [] => []
  | r :: rest => if r.kind == 1 && !begun then rest else r :: dropImmediate false rest

/-- An immediate record enters RSPQ (R305); a 33rd drops the oldest unread one and raises EV(166 + 8p) (R315). -/
def pushImmediate (p : Port) (bytes : List Byte) (s : State) : State :=
  let q := s.port p
  let put (l : List RspRec) : State := s.setPort p (fun q => { q with rsp := l ++ [RspRec.mk 1 bytes 0 true] })
  if (q.rsp.filter (fun r => r.kind == 1)).length < 32 then put q.rsp
  else raise (portSrc p 6) [] (put (dropImmediate (decide (0 < q.rdPos)) q.rsp))

/-- An immediate record answering a command's header. -/
def immediate (p : Port) (op : BitVec 16) (seq : Byte) (tag obj : BitVec 16) (st : Byte) (data : List Byte) (s : State) : State :=
  pushImmediate p (record p op st seq tag obj 1 0 s.sys.now 0 0 data) s

/-- The REPLAYED copy of a completion's record (R310): kind 0x01, status REPLAYED, OSTAT the original status; header alone
with TRUNC when only the header was kept. -/
def replayCopy (p : Port) (rec1 : List Byte) (headerOnly : Bool) : List Byte :=
  let payload := if headerOnly then [] else (rec1.drop 24).take (leAt rec1 6 2)
  let body := rec1.take 2 ++ [stREPLAYED, byteAt rec1 3] ++ (rec1.drop 4).take 2 ++ le16 payload.length ++
    (rec1.drop 8).take 2 ++ [1, if headerOnly then 1 else 0] ++ (rec1.drop 12).take 8 ++ [byteAt rec1 2, 0, 0, 0] ++ payload
  body ++ le32 (crc32c (foldIn p 1 (word16 rec1 4) (byteAt rec1 3) (word16 rec1 8) ++ body))

/-- A REPLAYED copy enters RSPQ and is counted (R309, R319). -/
def replayNow (p : Port) (rec1 : List Byte) (headerOnly : Bool) (s : State) : State :=
  pushImmediate p (replayCopy p rec1 headerOnly) (s.setPort p (fun q => { q with replayed := q.replayed + 1 }))

/-- ms an operation has spent DEFERRED (R304). -/
def Slot.defMs (sl : Slot) (now : Nat) : Nat :=
  (sl.defTicks + (match sl.deferAt with | some t => now - t | none => 0)) / 10000

/-- A chain operation completes (R299): its slot is free, no record enters RSPQ, and any status but OK counts as a refusal. -/
def deliverChain (c : Completion) (s : State) : State :=
  s.setPort c.req.port (fun q => { q with
    slots := q.slots.filter (fun sl => !(sl.chain && slotIs c.req sl))
    refused := q.refused || c.status != stOK })

/-- The completion of an operation that holds a slot (R305, R310, R315). -/
def deliverSlot (c : Completion) (sl : Slot) (s : State) : State :=
  let p := c.req.port
  let ms := sl.defMs s.sys.now
  let r := record p c.opcode c.status c.req.seq c.req.tag c.req.obj 0 0 c.tdone ms 0 c.payload
  let whole := decide (c.payload.length ≤ 512)
  let e : Replay :=
    { tag := sl.req.tag, seq := sl.req.seq, check := sl.check, record := if whole then r else r.take 24
      headerOnly := !whole, opcode := c.opcode, obj := c.req.obj, takenAt := sl.takenAt }
  let s := setSlot p c.req (fun x => { x with
    st := .completed
    status := c.status
    record := r
    deferAt := none
    defTicks := x.defTicks + (match x.deferAt with | some t => s.sys.now - t | none => 0) }) s
  s.setPort p (fun q =>
    let q := (q.remember e)
    admitWaiting (q.waiting ++ [sl.req.tag]) { q with waiting := q.waiting ++ [sl.req.tag] })

/-- A completion is delivered (R305). A command that ran without a slot (log entry 36) leaves its record in RSPQ until read. -/
def deliver (c : Completion) (s : State) : State :=
  if c.chain then deliverChain c s
  else
    match (s.port c.req.port).slots.find? (fun sl => slotIs c.req sl && sl.opcode == c.opcode && sl.st != .completed) with
    | some sl => deliverSlot c sl s
    | none =>
      let r := record c.req.port c.opcode c.status c.req.seq c.req.tag c.req.obj 0 0 c.tdone 0 0 c.payload
      s.setPort c.req.port (fun q => { q with rsp := q.rsp ++ [RspRec.mk 0 r 0 true] })

/-- The first response of RSPQ from which a read takes bytes: the current one, or the next once it is finished (R294). -/
def PortSt.atRsp (q : PortSt) : PortSt :=
  match q.rsp with
  | r :: r2 :: rest => if r.bytes.length ≤ q.rdPos then { q with rsp := r2 :: rest, rdPos := 0 } else q
  | _ => q

/-- The bytes that a read of n RSPQ positions returns (R294). -/
def PortSt.rspBytes (q : PortSt) (n : Nat) : List Byte :=
  match q.atRsp.rsp with
  | [] => List.replicate n 0
  | r :: _ =>
    let d := (r.bytes.drop q.atRsp.rdPos).take n
    d ++ List.replicate (n - d.length) 0

/-- RSPAVAIL (R294). -/
def PortSt.rspAvail (q : PortSt) : Nat :=
  match q.atRsp.rsp with
  | [] => 0
  | r :: _ => r.bytes.length - q.atRsp.rdPos

/-- A committed read of n RSPQ positions: the position advances; a record read in full that releases itself leaves, and an
AUTOREL completion frees its slot (R305, R320). -/
def PortSt.readRsp (q : PortSt) (n : Nat) : PortSt :=
  if n = 0 then q
  else
    let q := q.atRsp
    match q.rsp with
    | [] => q
    | r :: rest =>
      let pos := min r.bytes.length (q.rdPos + n)
      if pos < r.bytes.length then { q with rdPos := pos }
      else if r.kind == 1 || r.kind == 2 || r.kind == 3 then { q with rsp := rest, rdPos := 0 }
      else if r.autorel then
        ({ q with rsp := rest, rdPos := 0 }).release r.tag
      else { q with rdPos := pos }

end Sys2Proof.Machine
end

