-- ==== Sys2Proof/Machine/BadgerEv.lean ====
section
/-! DEFINITION. What the Badger and the mailbox do of themselves (chapters 09 and 12): the tick's evaluation (R226), deadlines
(R232, R318), completions (R305), the ceiling (R220), ledgers above budget (R242), shedding and restores (R235, R236, R252). -/

namespace Sys2Proof.Machine

/-- The Badger is at work: Mainland is powered and C6 is not in engine recovery (R233). -/
def State.badgerUp (s : State) : Bool := s.sys.vddOk && !s.coreDown 6

/-- C6 reads and differences the ledger counters (R218): the means of the frames since the last reading. -/
def Meter.read (m : Meter) : Meter :=
  if m.frames = 0 then m
  else
    { Meter.reset with
      f := m.accF / m.frames
      x := m.accX / m.frames
      heat := (m.accSw.toList.sum + m.accDrv.toList.sum) / m.frames }

/-- An admitted operation that is not applied yet (R223): moved by edge scheduling, or waiting for its boundary or instant. -/
def State.stillDue (s : State) (p : Profile) : Bool :=
  let ch := s.ch p.ch
  ch.moved.isSome || ch.changing.isSome || ch.filt.swap.isSome || ch.brg.next.isSome || ch.restore == .admitted ||
    (match (s.holm p.bank).pend with | some q => q.waiters.any (fun w => w.req.obj == chObj p.ch) | none => false)

/-- The measured value, budget and channel byte of each ledger code (R242, R472). -/
def measuredLedgers (s : State) : List (Byte × Byte × Nat × Nat) :=
  let b := s.badger
  let sw := allCh.filter (fun c => (s.ch c).mode.isSwitch)
  [((1 : Byte), (0xFF : Byte), (b.meters[0]).f / 1000, b.ifmax[0]), (2, 0xFF, (b.meters[1]).f / 1000, b.ifmax[1]),
   (3, 0xFF, (b.meters[0]).x / 1000, b.ixmax[0]), (4, 0xFF, (b.meters[1]).x / 1000, b.ixmax[1]),
   (5, 0xFF, s.pkgUw / 1000, b.ceiling)] ++
    sw.map (fun c => ((6 : Byte), BitVec.ofNat 8 c.val, (s.dtjc c).toNat, (fld (s.ch (s.lead c)).sw.prot 22 16 - b.dtguard) * 16)) ++
    sw.map (fun c => ((7 : Byte), BitVec.ofNat 8 c.val, (s.ch c).sw.bucket / 100, fld (s.ch (s.lead c)).sw.prot 47 32)) ++
    [((8 : Byte), (0xFF : Byte), (50000 * 100 + s.den.bufBytes * 4883) / 100000, b.eRes / 1000)]

/-- Ledgers above their budgets, with the time since when (R242). -/
def noteExcess (s : State) : State :=
  let above := (measuredLedgers s).filter (fun e => e.2.2.2 < e.2.2.1)
  s.setBadger (fun b => { b with excess := above.map (fun e =>
    match b.excess.find? (fun x => x.1 == e.1 && x.2.1 == e.2.1) with
    | some x => x
    | none => (e.1, e.2.1, some s.sys.now)) })

/-- Counters are read, and profiles that they now show end (R218, R223). -/
def readLedgers (s : State) : State :=
  s.setBadger (fun b => { b with
    meters := b.meters.map Meter.read
    admitted := b.admitted.filter s.stillDue })

/-- EV206 of a ledger counter that is found faulty as it is read (Table 6 of 09_badger; when one is, is free: log entry 124). -/
def noteCounterFaults (s : State) : State :=
  overAll [(0 : Bank), 1] (fun b t =>
    if Config.counterFault (2 * s.sys.raw + b.val) then raise 206 [1, BitVec.ofNat 8 b.val, 0, 0] t else t) s

/-- A 10 ms tick of device time has come since the last one that was taken (R226). -/
def State.tickDue (s : State) : Bool := s.sys.now / 100000 != s.badger.tickAt / 100000

/-- The evaluation of a 10 ms tick (R218, R226, R227): counters are read and every head is evaluated. -/
def badgerTick (s : State) : State :=
  if !s.badgerUp || !s.tickDue then s
  else
    noteExcess (evaluate ((noteCounterFaults (readLedgers s)).setBadger (fun b => { b with
      stagger := []
      tickAt := s.sys.now })))

/-- After an engine recovery of C6 every ledger is rebuilt from the counters and the operation slots before anything is admitted,
and EV206 says so (R218, Table 6 of 09_badger). The profiles in State are what the slots hold. -/
def rebuildLedgers (s : State) : State := evaluate (raise 206 [2, 0xFF, 0, 0] (readLedgers s))

def execBadgerEvaluation (s : State) : Host.Outcome State Fault Refusal := .next (badgerTick s)

/-- The head of an operation. -/
def State.headOf (s : State) (p : Port) (tag : BitVec 16) : Option Head :=
  s.badger.heads.find? (fun h => match h.req with | some r => r.port == p && r.tag == tag && tag != 0 | none => false)

/-- A deadline passes while DEFERRED (R232); during a recovery of C6 the port core ends it (R233). -/
def deadlineExpiry (p : Port) (tag : BitVec 16) (s : State) : State :=
  match s.headOf p tag with
  | some h =>
    match h.deadline with
    | some t =>
      if s.sys.vddOk && h.deferred && t ≤ s.sys.now then budgetEnd h (if s.coreDown 6 then 0x0A else h.lastLedger) 1 s else s
    | none => s
  | none => s

def execDeadlineExpiry (p : Port) (tag : BitVec 16) (s : State) : Host.Outcome State Fault Refusal :=
  .next (deadlineExpiry p tag s)

/-- A deadline passes while QUEUED or FENCED (R318). -/
def queueExpiry (p : Port) (tag : BitVec 16) (s : State) : State :=
  match (s.port p).held tag with
  | some sl =>
    if s.sys.vddOk && (sl.st == .queued || sl.st == .fenced) && sl.req.deadline != 0 &&
        decide (sl.takenAt + msTicks sl.req.deadline.toNat ≤ s.sys.now) then
      finishHere sl.opcode sl.req stE_TIMEOUT [] 0 s
    else s
  | none => s

def execQueueDeadlineExpiry (p : Port) (tag : BitVec 16) (s : State) : Host.Outcome State Fault Refusal :=
  .next (queueExpiry p tag s)

/-- Of the completions whose time has come and whose cores serve, the port's and the one that executes the command (R19, R356), the one
fixed first. -/
def State.dueCompletion (s : State) : Option Completion :=
  (s.completions.filter (fun c => c.tdone ≤ s.sys.now && !s.coreDown (portCore c.req.port) && s.coreServes c.opcode)).foldl (fun a c =>
    match a with
    | some x => if c.tdone < x.tdone then some c else some x
    | none => some c) none

/-- A completion arrives and its record enters the response store and RSPQ (R305). -/
def completeOne (s : State) : State :=
  if !s.sys.vddOk then s
  else
    match s.dueCompletion with
    | some c => deliver c { s with completions := s.completions.erase c }
    | none => s

def execOperationCompletion (s : State) : Host.Outcome State Fault Refusal := .next (completeOne s)

/-- The ceiling of the HY1624-LX follows the ambient, once in every second of device time; a change of more than 50 mW raises EV204 (R220). -/
def recomputeCeiling (s : State) : State :=
  if !s.badgerUp || s.sys.now / 10000000 == s.badger.ceilAt / 10000000 then s
  else
    let s := s.setBadger (fun b => { b with ceilAt := s.sys.now })
    let new := s.ceilingNow
    let old := s.badger.ceiling
    if 50 < (new - old) + (old - new) then setCeiling 1 new s else s.setBadger (fun b => { b with ceiling := new })

def execCeilingRecomputation (s : State) : Host.Outcome State Fault Refusal := .next (recomputeCeiling s)

/-- A ledger has been above its budget for 1 s: EV205, once (R242). -/
def ledgerExcess (code : BitVec 8) (c : Ch) (s : State) : State :=
  let k : Byte := if code = 6 ∨ code = 7 then BitVec.ofNat 8 c.val else 0xFF
  match s.badger.excess.find? (fun x => x.1 == code && x.2.1 == k), (measuredLedgers s).find? (fun e => e.1 == code && e.2.1 == k) with
  | some (_, _, some t), some e =>
    if s.badgerUp && t + 10000000 ≤ s.sys.now then
      raise 205 ([code, k] ++ le16 (satN e.2.2.1 16) ++ le16 (satN e.2.2.2 16))
        (s.setBadger (fun b => { b with excess := b.excess.map (fun x => if x.1 == code && x.2.1 == k then (code, k, none) else x) }))
    else s
  | _, _ => s

def execLedgerExcess (code : BitVec 8) (c : Ch) (s : State) : Host.Outcome State Fault Refusal :=
  .next (ledgerExcess code c s)

/-- VF in units of 10 mV. -/
def vf10 (vf : Int) : Nat := satN (vf / 10).toNat 16

/-- The Badger can shed a bank: it is at work and its link is up. -/
def State.canShed (s : State) (b : Bank) : Bool := s.badgerUp && s.whole b && s.holmLive b

/-- A channel counts as energised for shedding (R234, R235); a pair by its leader. -/
def State.sheddable (s : State) (c : Ch) : Bool :=
  let ch := s.ch c
  (ch.mode.isSwitch || ch.mode == .aoi) && energised ch.mode ch.l5 && ch.shcls != 0 && c == s.lead c

/-- Shedding sets level 5 off; the channel keeps the state it held (R235, R251). -/
def shedOne (c : Ch) (s : State) : State :=
  evalOut c (dropL5 c (s.setCh c (fun ch => { ch.sagged with shedOff := true })))

/-- The channels of the highest class present, highest number first. -/
def shedList (s : State) (b : Bank) : List Ch :=
  let l := (bankChs b).filter s.sheddable
  let cls := (l.map (fun c => (s.ch c).shcls.toNat)).foldl max 0
  (l.filter (fun c => (s.ch c).shcls.toNat == cls)).reverse

/-- Steps of shedding (R235): a step that changes no output is followed by the next at once. -/
def shedSteps (b : Bank) (vf : Int) : Nat → State → State
  | 0, s => s
  | n + 1, s =>
    match shedList s b with
    | [] => s.setHolm b (fun h => { h with shedAt := s.sys.now })
    | c :: rest =>
      let cls := (s.ch c).shcls.toNat
      let l := c :: rest
      let t := overAll l shedOne s
      let t := t.setHolm b (fun h => { h with shedLow := cls, shedAt := s.sys.now })
      let d := [BitVec.ofNat 8 cls, 0] ++ le16 (image16 l.contains) ++ le16 (vf10 vf)
      let t := denEvent 2 (BitVec.ofNat 8 (198 + b.val)) (BitVec.ofNat 16 (0x0100 + b.val)) d (raise (198 + b.val) d t)
      if l.any (fun c => (t.ch c).out != (s.ch c).out) then t else shedSteps b vf n t

/-- Shedding takes an internal slot for its steps, or waits for one (R314). -/
def shedNow (b : Bank) (vf : Int) (s : State) : State :=
  if 32 ≤ s.sys.internal.length then (if s.sys.internal.contains (.shed b) then s else arise (.shed b) s) else shedSteps b vf 8 s

/-- The shed state begins (R235). A Badger that is not at work, or whose link is lost, sheds once it can. -/
def enterShed (b : Bank) (vf : Int) (s : State) : State :=
  let s := s.setHolm b (fun h => { h with shed := true, shedLow := 8, shedAt := s.sys.now })
  if s.canShed b then shedNow b vf s else s

/-- The shed state begins when VF has stayed at or below 18.0 V for 1 ms (R235), from the Holm's restart on (R244). -/
def shedState (b : Bank) (x : SupplyRead) (s : State) : State :=
  if (s.holm b).up && !(s.holm b).shed && x.vf ≤ 18000 && msTicks 1 ≤ x.held then enterShed b x.vf s else s

def execShedState (b : Bank) (x : SupplyRead) (s : State) : Host.Outcome State Fault Refusal := .next (shedState b x s)

/-- The next class, 20 ms after a step (R235); the first at once. -/
def shedStep (b : Bank) (vf : Int) (s : State) : State :=
  let h := s.holm b
  if s.canShed b && h.shed && vf ≤ 18000 && (h.shedLow = 8 || h.shedAt + msTicks 20 ≤ s.sys.now) then shedNow b vf s else s

def execShedStep (b : Bank) (vf : Int) (s : State) : Host.Outcome State Fault Refusal := .next (shedStep b vf s)

/-- Channels of a bank whose restore may now be submitted (R252), lowest class and lowest number first (R236). -/
def restoreList (s : State) (b : Bank) : List Ch :=
  ((bankChs b).filter (fun c =>
    let ch := s.ch c
    c == s.lead c && ch.mode.isOutput && ch.restore == .none && ch.restoreDue)).mergeSort
    (fun a d => decide ((s.ch a).shcls.toNat < (s.ch d).shcls.toNat ∨
      ((s.ch a).shcls.toNat = (s.ch d).shcls.toNat ∧ a.val ≤ d.val)))

/-- The bank's faults and its shed state have ended, and the Badger can take restores (R252). -/
def State.restoresFree (s : State) (b : Bank) : Bool :=
  let h := s.holm b
  !(h.shed || h.uv || h.surge || h.gnd) && s.canShed b

/-- EV200 or EV201 tells that a shed state has ended (R236), once the Badger can raise it: the voltage at its end, the lowest class
shed, and the restores submitted. -/
def tellShedEnd (b : Bank) (n : Nat) (s : State) : State :=
  match (s.holm b).shedOver with
  | some (v, low) =>
    if s.canShed b then
      raise (200 + b.val) (le16 v ++ [BitVec.ofNat 8 (if low < 8 then low else 0), BitVec.ofNat 8 n])
        (s.setHolm b (fun h => { h with shedOver := none }))
    else s
  | none => s

/-- Restores are submitted, and a pre-sag state that none waits for is dropped (R252). -/
def submitRestores (b : Bank) (s : State) : State :=
  if !s.restoresFree b then tellShedEnd b 0 s
  else
    let l := restoreList s b
    let s := overAll l submitRestore s
    tellShedEnd b l.length (overAll (bankChs b) (fun c s =>
      if (s.ch c).restore == .none && !(s.ch c).locks.anySupply then
        s.setCh c (fun ch => { ch with presag := none, shedOff := false })
      else s.setCh c (fun ch => { ch with shedOff := false })) s)

/-- The shed state ends (R236); its event and restores that the Badger cannot take now follow once it can. -/
def endShed (b : Bank) (vf : Int) (s : State) : State :=
  evaluate (submitRestores b (s.setHolm b (fun h => { h with
    shed := false
    shedOver := some (vf10 vf, h.shedLow) })))

/-- It ends when VF has stayed at or above 19.2 V for 100 ms (R236); undervoltage, shed and warning end together (R244). -/
def shedEnd (b : Bank) (x : SupplyRead) (s : State) : State :=
  if (s.holm b).up && (s.holm b).shed && !(s.holm b).uv && 19200 ≤ x.vf && msTicks 100 ≤ x.held then endShed b x.vf s
  else s

def execShedStateEnd (b : Bank) (x : SupplyRead) (s : State) : Host.Outcome State Fault Refusal := .next (shedEnd b x s)

/-- An admitted restore writes the pre-sag state into level 5, with the alarm that it was (R140; DEDUCED, log entry 157) and its Den record (R252); edge
scheduling never moves it. -/
def restoreNow (c : Ch) (s : State) : State :=
  match (s.ch c).restore, (s.ch c).presag with
  | .admitted, some d =>
    let s := endInternal (.restore c) (s.setCh c (fun ch => { ch with restore := .none, presag := none }))
    denEvent 1 0xFF (chObj c) [] (evalOut c ((setL5 c (normDemand (s.ch c).mode d) s).setCh c (fun ch => { ch with
      loop := { ch.loop with alarm := ch.loop.sagAlarm.isSome, fallback := ch.loop.sagAlarm.getD false, sagAlarm := none } })))
  | _, _ => s

def execRestore (c : Ch) (s : State) : Host.Outcome State Fault Refusal := .next (restoreNow c s)

end Sys2Proof.Machine
end

