-- ==== Sys2Proof/Machine/BdgCmds.lean ====
section
/-! DEFINITION. The BDG family (chapter 09): BDG.SET (R221), BDG.QUERY (R240) and BDG.SHED (R234). -/

namespace Sys2Proof.Machine

/-- Excitation that the legal channels of a Holm draw now, µA (R221). -/
def legalExcitation (s : State) (b : Bank) : Nat :=
  ((bankChs b).map (fun c => if s.isLegal c && (s.ch c).brg.exOn then (s.ch c).brg.iexc else 0)).sum

/-- Field ranges of BDG.SET (Table 2 of 09_badger). -/
def bdgRange (d : List Byte) : Bool :=
  let within (lo x hi : Nat) : Bool := decide (lo ≤ x) && decide (x ≤ hi)
  within 500 (leAt d 0 2) 8000 && within 500 (leAt d 2 2) 8000 && within 0 (leAt d 4 2) 480 &&
    within 0 (leAt d 6 2) 480 && within 1500 (leAt d 8 2) 3500 && within 2 (leAt d 10 1) 15 &&
    within 0 (leAt d 11 1) 50 && (leAt d 12 1 == 0 || within 25 (leAt d 12 1) 105)

def bdgSet (r : Req) (s : State) : Res :=
  let d := r.payload
  checked [(d.length == 16 && zeroBytes d 13 3, stE_FORMAT), (bdgRange d, stE_RANGE),
      (decide (legalExcitation s 0 ≤ leAt d 4 2 * 1000) && decide (legalExcitation s 1 ≤ leAt d 6 2 * 1000), stE_LEGAL)] s
    (.held (submit 0x0801 r .mramBdg (ClampMeas.mk []) s))

def execBdgSet (r : Req) (s : State) : Host.Outcome State Fault Refusal := .next (runMail 0x0801 r s (bdgSet r))

def execBdgQuery (r : Req) (s : State) : Host.Outcome State Fault Refusal :=
  .next (runMail 0x0802 r s (fun s =>
    checked [(r.payload.length == 0, stE_FORMAT)] s (okData s.badger.report s)))

def bdgShed (r : Req) (c : Ch) (s : State) : Res :=
  let d := r.payload
  checked [(!s.isLegal c, stE_LEGAL), (d.length == 4 && rsvZero (byteAt d 0) 0xF8 && zeroBytes d 1 3, stE_FORMAT)] s
    (ok (s.setCh c (fun ch => { ch with shcls := BitVec.ofNat 3 (leAt d 0 1) })))

def execBdgShed (r : Req) (s : State) : Host.Outcome State Fault Refusal := .next (runCh 0x0803 r s (bdgShed r))

end Sys2Proof.Machine
end

