-- ==== Sys2Proof/Machine/StreamOps.lean ====
section
/-! DEFINITION. Stream units and blocks (R107 to R112, R324, R325) and the Holm's stream buffer (R19). -/

namespace Sys2Proof.Machine

/-- A computed sample with its flags (Table 10 of 04_filter_chain). -/
structure Smp where
  value : Int
  seq : BitVec 16
  ts : Nat
  ovr : Bool
  flt : Bool
  uns : Bool
  dist : Bool
  tunc : Bool
  deriving DecidableEq, Repr

/-- A unit closed by its CRC-8 (R111). -/
def closeUnit (c : Ch) (l : List Byte) : List Byte := l ++ [BitVec.ofNat 8 (crc8 (Nat.xor 0xFF c.val) l)]

/-- A sample unit (Tables 9 and 10 of 04_filter_chain). -/
def sampleUnit (c : Ch) (tstep : Bool) (x : Smp) : List Byte :=
  closeUnit c (leSigned x.value 4 ++ le16 x.seq.toNat ++ [bitsByte [tstep, x.tunc, x.dist, x.uns, x.flt, x.ovr]])

/-- A timestamp unit (kind 1) or a time base unit (kind 2). -/
def timeUnit (c : Ch) (kind : Nat) (tstep : Bool) (x : Smp) : List Byte :=
  closeUnit c (le48 (x.ts % 2 ^ 48) ++ [BitVec.ofNat 8 (64 * kind + 2 * b2n x.tunc + b2n tstep)])

/-- A time delta unit. -/
def deltaUnit (c : Ch) (delta : Nat) (x : Smp) : List Byte := closeUnit c (le32 delta ++ le16 x.seq.toNat ++ [0xC0])

/-- DELTA: the sample period in 1/256 tick as measured against device time (R108): the nominal period scaled by the Holm
oscillator's measured frequency. -/
def deltaOf (ch : Chan) (oscMilliHz : Nat) : Nat :=
  (ratRound (2560000000 * 24576000000 / (ch.chain.fout * (oscMilliHz : ℚ)))).toNat

/-- TSMODE, EN and UNS of a subscription (Table 11 of 04_filter_chain). -/
def StreamSub.en (u : StreamSub) : Bool := bit u.byte 7
def StreamSub.uns (u : StreamSub) : Bool := bit u.byte 6
def StreamSub.tsmode (u : StreamSub) : Nat := fld u.byte 5 4

/-- The subscription takes this sample (R105, R112). -/
def StreamSub.takes (u : StreamSub) (x : Smp) : Bool := u.en && (!x.uns || u.uns)

/-- A time record stands before this sample (R108). -/
def StreamSub.timeDue (u : StreamSub) (x : Smp) : Bool :=
  u.needTime || u.gap || x.seq.toNat % 64 == 0 || u.tstepS || x.tunc != u.lastTunc

/-- The units of one sample for one subscription (R108, R111). -/
def StreamSub.unitsOf (u : StreamSub) (c : Ch) (delta : Nat) (x : Smp) : List (List Byte) :=
  if !u.takes x then []
  else
    match u.tsmode with
    | 1 => [sampleUnit c u.tstepS x, timeUnit c 1 u.tstepT x]
    | 2 => (if u.timeDue x then [timeUnit c 2 u.tstepT x, deltaUnit c delta x] else []) ++ [sampleUnit c u.tstepS x]
    | _ => [sampleUnit c u.tstepS x]

/-- The time record before a sample for which none is due: it goes with the sample where the one before it is dropped (R108). -/
def StreamSub.spareTime (u : StreamSub) (c : Ch) (delta : Nat) (x : Smp) : List (List Byte) :=
  if u.tsmode = 2 && !u.timeDue x then [timeUnit c 2 u.tstepT x, deltaUnit c delta x] else []

/-- The bookkeeping of a sample: a delivered one takes the time record and TSTEP with it (R108, R109). -/
def StreamSub.noted (u : StreamSub) (x : Smp) : StreamSub :=
  if u.takes x then
    { u with
      needTime := false
      gap := false
      lastTunc := x.tunc
      tstepS := false
      tstepT := u.tstepT && !(u.tsmode == 1 || (u.tsmode == 2 && u.timeDue x)) }
  else u

/-- Replaces one subscription. -/
def PortSt.setSub (q : PortSt) (c : Ch) (f : StreamSub → StreamSub) : PortSt :=
  { q with subs := q.subs.set c.val (f q.subs[c]) c.isLt }

/-- A forward step of device time shows in the next sample and the next time unit of every subscription of a channel (R27,
R109). -/
def noteStep (c : Ch) (s : State) : State :=
  overAll allPorts (fun p s => s.setPort p (fun q => q.setSub c (fun u =>
    if u.en then { u with tstepS := true, tstepT := true } else u))) s

/-- A time record is due before the next delivered sample of a channel, at every port (R108). -/
def needTime (c : Ch) (s : State) : State :=
  overAll allPorts (fun p s => s.setPort p (fun q => q.setSub c (fun u => { u with needTime := true }))) s

/-- Closes an open stream block and enters it in RSPQ (R324, R304). -/
def PortSt.closeStream (p : Port) (c : Ch) (now : Nat) (q : PortSt) : PortSt :=
  let u := q.subs[c]
  if u.units.isEmpty then q
  else
    { q.setSub c (fun u => { u with units := [], lost := false }) with
      rsp := q.rsp ++ [RspRec.mk 3 (record p 0xFF02 stOK 0 0 (chObj c) 3 (if u.lost then 2 else 0) now 0 0
        u.units.flatten) 0 true] }

/-- One unit joins the open block; a block of 64 units is closed (R324). -/
def PortSt.pushUnit (p : Port) (c : Ch) (now : Nat) (unit : List Byte) (q : PortSt) : PortSt :=
  let q := q.setSub c (fun u => { u with
    openedAt := if u.units.isEmpty then now else u.openedAt
    units := u.units ++ [unit] })
  if q.subs[c].units.length ≥ 64 then q.closeStream p c now else q

/-- A sample's units enter a port's device-record buffer, or are dropped when it is full (R325). -/
def pushUnits (p : Port) (c : Ch) (units : List (List Byte)) (s : State) : State :=
  if units.isEmpty then s
  else if (s.port p).deviceBytes + 56 + 8 * units.length > 32768 then
    noteDrop p (s.setPort p (fun q => q.setSub c (fun u => { u with lost := true, gap := true })))
  else s.setPort p (fun q => (units.foldl (fun q u => q.pushUnit p c s.sys.now u) q).setSub c (fun u => { u with gap := false }))

/-- A held sample's units reach their port, behind its time record where the sample before it was dropped (R108, R325). -/
def pushHeld (c : Ch) (x : HeldUnits) (s : State) : State :=
  let late := ((s.port x.port).subs[c]).gap && !x.before.isEmpty
  let t := pushUnits x.port c ((if late then x.before else []) ++ x.units) s
  if late && !((t.port x.port).subs[c]).gap then t.setPort x.port (fun q => q.setSub c (fun u => { u with tstepT := false })) else t

/-- Streams of a bank flow: its link is up, Mainland powered and its measurement core serving (R19). -/
def State.streamUp (s : State) (b : Bank) : Bool := (s.holm b).link && s.sys.vddOk && !s.coreDown (bankCore b)

/-- A sample's stream records reach their ports, or wait in the Holm's buffer of 8192 samples; when it is full the sample
is dropped (R19). -/
def streamSample (c : Ch) (x : Smp) (s : State) : State :=
  let b := bankOf c
  let delta := deltaOf (s.ch c) (s.holm b).osc
  let units := (allPorts.map (fun p =>
    let u := (s.port p).subs[c]
    HeldUnits.mk p (u.spareTime c delta x) (u.unitsOf c delta x))).filter (fun e => !e.units.isEmpty)
  let note (s : State) : State :=
    overAll allPorts (fun p s => s.setPort p (fun q => q.setSub c (fun u => u.noted x))) s
  if units.isEmpty then note s
  else if s.streamUp b then overAll units (fun e s => pushUnits e.port c e.units s) (note s)
  else if (s.holm b).buf.length < 8192 then note (s.setHolm b (fun h => { h with buf := h.buf ++ [(c, units)] }))
  else needTime c s

/-- Samples held in the Holm are delivered late (R19). -/
def flushStream (b : Bank) (s : State) : State :=
  if s.streamUp b then
    overAll (s.holm b).buf (fun e s => overAll e.2 (pushHeld e.1) s)
      (s.setHolm b (fun h => { h with buf := [] }))
  else s

end Sys2Proof.Machine
end

