-- ==== Sys2Proof/Machine/InfoOps.lean ====
section
/-! DEFINITION. CH.INFO's common part and blocks (R340, R94, R145, R176, R211) and CH.PLAN's answer (R73). -/

namespace Sys2Proof.Machine

/-- Automatic restarts remaining (R196): RETRY less those of the last RTWIN seconds; a pair counts the leader's. -/
def State.restartsLeft (s : State) (c : Ch) : Nat :=
  let w := (s.ch (s.lead c)).sw
  fld w.prot 31 28 - (w.restarts.filter (fun t => s.sys.now < t + 10000000 * fld w.prot 63 48)).length

/-- The 8-byte common part (R340). -/
def infoCommon (s : State) (c : Ch) (blocks : Nat) : List Byte :=
  let ch := s.ch c
  let lead := ch.paired && c.val % 2 == 0
  let b3 := (s.govern c).1 + 8 * b2n (s.isLegal c) + 16 * b2n ch.paired + 32 * b2n lead + 64 * b2n (bit ch.bmap.bflags 7)
  let subs := bitsByte (allPorts.map (fun p => bit ((s.port p).subs[c]).byte 7))
  [BitVec.ofNat 8 ch.mode.code, ch.wiring, ownerByte ch.owner, BitVec.ofNat 8 b3, subs, BitVec.ofNat 8 blocks, 0, 0]

/-- The bridge block (R340): Z saturates, and reads all ones while none has been measured (log entry 29). -/
def infoBridge (s : State) (c : Ch) : List Byte :=
  let b := (s.ch c).brg
  le16 (match b.z with | some z => satN z 16 | none => 0xFFFF) ++ le16 (satN b.leak 16) ++
    [bitsByte [b.senseNow, b.signalNow, b.shortNow, b.impNow, b.leakNow, b.latch],
     (match b.rate with | some r => BitVec.ofNat 8 r.val | none => 0), 0, 0]

/-- Demand of the chains that a bank's channels run (BDEMAND of Table 2 of 04_filter_chain). -/
def runDemand (s : State) (b : Bank) : ℚ :=
  (bankChs b).foldl (fun a d => if (s.ch d).mode.usesFilter then a + (s.ch d).chain.demand else a) 0

/-- The filter block (Table 2 of 04_filter_chain); a disturbance of this very instant counts already. A
negative group delay reads 0 (DESIGN CHOICE, log entry 145). -/
def infoFilter (s : State) (c : Ch) : List Byte :=
  let ch := s.ch c
  let f := ch.filt
  let cfg := ch.chain
  let holds (b : BankContent) : Bool := match b with | .empty => false | _ => true
  le32 (satN ch.foutQ 32) ++
    le32 (match cfg.groupDelay with | some g => satN (ratRound (g * 16)).toNat 32 | none => 0xFFFFFFFF) ++
    le64 (match gdNs ch (s.holm (bankOf c)).osc with | some g => satN (ratRound g).toNat 64 | none => 2 ^ 64 - 1) ++
    le16 (satN cfg.settleFull 16) ++ le16 (satN (f.absorb (s.sys.now + 1)).supp 16) ++
    le32 (satN (ratRound (cfg.sbEdge * 65536)).toNat 32) ++ le32 (satN (ratRound cfg.demand).toNat 32) ++
    le32 (satN (ratRound (runDemand s (bankOf c))).toNat 32) ++
    [bitsByte [f.s1.activeB, f.s2.activeB, f.s3.activeB, holds f.s1.idle, holds f.s2.idle, holds f.s3.idle], f.sdecm1] ++
    le16 f.mdiv.toNat ++ le16 clatTicks ++ [0, 0]

/-- Strap state codes (Table 7 of 06_loops_and_modem). -/
def strapCode : Strap → Nat
  | .high => 0 | .low => 1 | .open_ => 2 | .lockLow => 3 | .lockHigh => 4 | .invalid => 5

/-- An alarm current is driven: one stands at level 5, and level 5 governs with it (R143, R145), no trim code and no parking current in
its place (R146, R159). -/
def Chan.alarmDriven (ch : Chan) : Bool := ch.loop.alarm && ch.level == 5 && !ch.parked && ch.loop.session == .none

/-- The alarm current at level 5 is a high one: ALMHI is at least 21 mA, ALMLO at most 3.6 mA (Table 3 of 06_loops_and_modem). -/
def Chan.highAlarm (ch : Chan) : Bool := match ch.l5 with | .cur n => decide (10000000 < n) | _ => false

/-- The loop block (R145). -/
def infoLoop (s : State) (c : Ch) : List Byte :=
  let ch := s.ch c
  let l := ch.loop
  let target := match ch.mode.isLoopOut, normDemand ch.mode (ch.putL5 ch.l5) with | true, .cur n => n | _, _ => 0
  let st := l.cls.val + 8 * b2n l.compl + 16 * b2n ch.alarmDriven + 32 * b2n l.fallback + 64 * b2n l.readback + 128 * b2n ch.parked
  let trim := if l.session ≠ .none then 2 else match l.trim with | .factory => 0 | .user _ _ => 1
  let m := match l.trim with | .factory => (0, 0) | .user a b => (a, b)
  le32 target ++ leSigned l.actual 4 ++ le16 (satN l.volts 16) ++
    [BitVec.ofNat 8 st, BitVec.ofNat 8 (strapCode (s.holm (bankOf c)).strap + 8 * b2n l.dirHigh), BitVec.ofNat 8 trim, 0, 0, 0] ++
    le32 m.1 ++ le32 m.2

/-- The gate of a counter is open (Table 2 of 07_digital_inputs); bit 4 of STATE reads 0 without the gate function. -/
def Din.gateOpen (d : Din) : Bool := fld d.word 23 22 == 1 && d.inLevel != bit d.word 21

/-- The digital block (R176). -/
def infoDigital (s : State) (c : Ch) : List Byte :=
  let ch := s.ch c
  let d := ch.din
  [bitsByte [d.state, d.raw, d.wireBreak, d.overload, ch.mode == .cnt && d.gateOpen, d.ovf], BitVec.ofNat 8 d.caps.length] ++
    le16 (satN d.isink 16) ++ le32 (if ch.mode = .cnt then d.count.toNat else 0) ++ le48 (d.tsRise % 2 ^ 48) ++
    le48 (d.tsFall % 2 ^ 48) ++ le16 d.capLost.toNat ++ [0, 0]

/-- The switch block (R211). -/
def infoSwitch (s : State) (c : Ch) : List Byte :=
  let ch := s.ch c
  let w := ch.sw
  let l := ch.locks
  [bitsByte [ch.conducting, ch.l5 == .on, w.limiting, l.thermHold, l.thermLatch, l.fuse, l.clamp, l.revHold],
   bitsByte [w.onOpen, w.offOpen, w.shortVf, w.extDrive, s.sensingFaulty c, ch.paired, ch.paired && c.val % 2 == 0, l.seqFault],
   BitVec.ofNat 8 (s.restartsLeft c), (match w.tb with | some k => BitVec.ofNat 8 (128 + k.val) | none => 0)] ++
    le16 (satN w.icur 16) ++ leSigned (s.dtjc c) 2 ++ leSigned (thetaSixteenths w.theta) 2 ++
    le16 (satN (w.fuseF / 2 ^ 32) 16) ++ le16 (satN (w.bucket / 100) 16) ++ le16 (satN (w.epred w.icur / 100) 16) ++
    le16 (satN w.ipk 16) ++ le16 (satN w.qin 16) ++ le16 (satN w.i100 16) ++ [w.prun.phase, 0]

/-- The whole answer of CH.INFO (R340). -/
def infoData (s : State) (c : Ch) : List Byte :=
  match (s.ch c).mode with
  | .off => infoCommon s c 0
  | .di | .cnt => infoCommon s c 1 ++ infoDigital s c
  | .dout | .dop => infoCommon s c 1 ++ infoSwitch s c
  | .brg | .res => infoCommon s c 2 ++ infoBridge s c ++ infoFilter s c
  | .aii | .aip => infoCommon s c 2 ++ infoFilter s c ++ infoLoop s c
  | .aoi | .aot => infoCommon s c 1 ++ infoLoop s c

/-- CH.PLAN's 20 bytes (Table 6 of 03_bridge_measurement). -/
def planData (s : State) (b : Bank) : List Byte :=
  let h := s.holm b
  let one (k : Fin 8) : Byte :=
    match (s.ch (chAt b k)).brg.rate with
    | some r => BitVec.ofNat 8 (128 + 64 * b2n (s.isLegal (chAt b k)) + r.val)
    | none => 0
  (List.finRange 8).map one ++
    [BitVec.ofNat 8 (rateCount ((List.finRange 8).filterMap (fun k => (s.ch (chAt b k)).brg.rate))), 0] ++
    le16 h.planSeq.toNat ++ le64 h.teff

end Sys2Proof.Machine
end

