-- ==== Sys2Proof/Machine/SupplyEv.lean ====
section
/-! DEFINITION. Field supply states (R244 to R251) and the lockout and restart of a Holm (R248, R249, R267). -/

namespace Sys2Proof.Machine

/-- A supply event of a Holm with its Den record: WARN for the warning state, FAULT for the others (R244, R245). -/
def supplyEvent (b : Bank) (kind : Byte) (vf : Int) (s : State) : State :=
  notifyHolm b 0 kind 0xFF (vf10 vf) (some (if kind = 1 ∨ kind = 2 then 3 else 4)) s

/-- The warning state is entered (Table 1). -/
def enterWarning (b : Bank) (vf : Int) (s : State) : State :=
  if (s.holm b).warn then s else supplyEvent b 1 vf (s.setHolm b (fun h => { h with warn := true }))

/-- VF has stayed below 19.2 V for 1 ms. -/
def warning (b : Bank) (x : SupplyRead) (s : State) : State :=
  if (s.holm b).up && decide (x.vf < 19200) && decide (msTicks 1 ≤ x.held) then enterWarning b x.vf s else s

def execWarning (b : Bank) (x : SupplyRead) (s : State) : Host.Outcome State Fault Refusal := .next (warning b x s)

/-- UVHOLD of a channel: a pair follows its leader (R246, R258). -/
def State.uvhold (s : State) (c : Ch) : Bool := bit (s.ch (s.lead c)).safety 5

/-- The undervoltage state is entered (R246); it lies within the warning and shed states (Table 1). -/
def enterUndervoltage (b : Bank) (vf : Int) (s : State) : State :=
  let s := enterWarning b vf s
  let s := supplyEvent b 3 vf ((assertFault s).setHolm b (fun h => { h with uv := true }))
  let s := overAll ((bankChs b).filter (fun c => !s.uvhold c)) (fun c s => supplyLock c (fun l => { l with supUv := true }) s) s
  if (s.holm b).shed then s else enterShed b vf s

/-- VF has stayed below 16.0 V for 100 µs. -/
def undervoltage (b : Bank) (x : SupplyRead) (s : State) : State :=
  if (s.holm b).up && !(s.holm b).uv && decide (x.vf < 16000) && decide (1000 ≤ x.held) then enterUndervoltage b x.vf s else s

def execUndervoltage (b : Bank) (x : SupplyRead) (s : State) : Host.Outcome State Fault Refusal := .next (undervoltage b x s)

/-- VF has stayed above 36.0 V for 10 µs: the surge state locks every output of the bank (R247). -/
def surge (b : Bank) (x : SupplyRead) (s : State) : State :=
  if (s.holm b).up && !(s.holm b).surge && decide (36000 < x.vf) && decide (100 ≤ x.held) then
    overAll (bankChs b) (fun c s => supplyLock c (fun l => { l with supSurge := true }) s)
      (supplyEvent b 5 x.vf ((assertFault s).setHolm b (fun h => { h with surge := true })))
  else s

def execSurge (b : Bank) (x : SupplyRead) (s : State) : Host.Outcome State Fault Refusal := .next (surge b x s)

/-- Loss of field ground, GNDF more than 2.5 V above its terminals for 20 µs, locks every output of the bank (R250). -/
def groundLoss (b : Bank) (x : SupplyRead) (s : State) : State :=
  if (s.holm b).up && !(s.holm b).gnd && decide (2500 < x.gnd) && decide (200 ≤ x.held) then
    overAll (bankChs b) (fun c s => supplyLock c (fun l => { l with supGnd := true }) s)
      (supplyEvent b 7 x.vf ((assertFault s).setHolm b (fun h => { h with gnd := true })))
  else s

def execGroundLoss (b : Bank) (x : SupplyRead) (s : State) : Host.Outcome State Fault Refusal := .next (groundLoss b x s)

/-- The AII loop supply or sensor supply of a channel is on: the surge state switches it off (R247), and neither works in
lockout (R248, R249) or before a restarted Holm has its link (R267). -/
def State.fieldSupplyOn (s : State) (c : Ch) : Bool :=
  let h := s.holm (bankOf c)
  h.up && !h.surge && (s.modeNow c == .aii || ((s.modeNow c).isDigital && (s.ch c).ssup))

/-- Locks of one kind end on a bank (R251); restores may then be submitted, and are evaluated (R252). -/
def afterSupply (b : Bank) (f : Locks → Locks) (s : State) : State :=
  evaluate (submitRestores b (supplyUnlockBank b f s))

/-- Undervoltage, shed and warning are left together at 19.2 V (Table 1). -/
def leaveSag (b : Bank) (vf : Int) (s : State) : State :=
  let h := s.holm b
  let s := if h.uv then
      supplyUnlockBank b (fun l => { l with supUv := false })
        (supplyEvent b 4 vf (s.setHolm b (fun h => { h with uv := false })))
    else s
  let s := if h.shed then endShed b vf s else s
  let s := if h.warn then supplyEvent b 2 vf (s.setHolm b (fun h => { h with warn := false })) else s
  evaluate (submitRestores b s)

/-- A supply state ends once its condition has held for its time (Table 1, R250): VF at or above 19.2 V for 100 ms, at or below
33.0 V for 10 ms, the ground difference below 1.0 V for 100 ms. -/
def supplyExit (b : Bank) (st : SupplyState) (x : SupplyRead) (s : State) : State :=
  let h := s.holm b
  match st with
  | .warning | .undervoltage =>
    if (h.warn || h.uv || h.shed) && decide (19200 ≤ x.vf) && decide (msTicks 100 ≤ x.held) then leaveSag b x.vf s else s
  | .surge =>
    if h.surge && decide (x.vf ≤ 33000) && decide (msTicks 10 ≤ x.held) then
      afterSupply b (fun l => { l with supSurge := false })
        (supplyEvent b 6 x.vf (s.setHolm b (fun h => { h with surge := false })))
    else s
  | .groundLoss =>
    if h.gnd && decide (x.gnd < 1000) && decide (msTicks 100 ≤ x.held) then
      afterSupply b (fun l => { l with supGnd := false })
        (supplyEvent b 8 x.vf (s.setHolm b (fun h => { h with gnd := false })))
    else s

def execSupplyStateExit (b : Bank) (st : SupplyState) (x : SupplyRead) (s : State) : Host.Outcome State Fault Refusal :=
  .next (supplyExit b st x s)

/-- A command that the lockout cuts off ends with E_ABORTED once the link is established again (R30, R101). -/
def cutOff (op : BitVec 16) (r : Req) (now : Nat) : Completion := Completion.mk r op (r.tag == 0) stE_ABORTED [] now

/-- Commands in a Holm that wait for an instant or a boundary. -/
def State.waitingIn (s : State) (b : Bank) : List Completion :=
  (bankChs b).flatMap (fun c =>
    (match (s.ch c).moved with | some m => [cutOff m.op m.req s.sys.now] | none => []) ++
      (match (s.ch c).changing with
       | some g => (match g.req with | some r => [cutOff g.op r s.sys.now] | none => [])
       | none => []) ++
      (match (s.ch c).filt.swap with | some w => [cutOff 0x0503 w.req s.sys.now] | none => [])) ++
    (match (s.holm b).pend with | some p => p.waiters.map (fun w => cutOff w.op w.req s.sys.now) | none => [])

/-- A comparator loses its state with its Holm and keeps its settings (log entry 39). -/
def Thr.stopped (t : Thr) : Thr :=
  { t with st := .disarmed, cond := false, timer := none, window := [], lastEval := none }

/-- A channel whose Holm stops (R248, R251, R267): the output is off, what level 5 demanded is the pre-sag state, mode and
settings wait to be restored; locks, fired actions, the timebase, counts, the fuse fraction, the bucket and the filter's history
are lost, and a mode change under way is cut off (log entry 39). -/
def Chan.stopped (now : Nat) (ch : Chan) : Chan :=
  let ch := if ch.mode.isOutput then ch.sagged else ch
  { ch with
    l5 := ch.putL5 (deenergised ch.mode)
    level := 0
    out := .off
    conducting := false
    locks := .none
    acts := []
    shedOff := false
    restore := .none
    moved := none
    changing := none
    watch := []
    reloading := false
    thr := ch.thr.map Thr.stopped
    stab := { ch.stab with window := [], stable := false }
    filt := { ch.filt with
      sinc := .reset
      s1 := ch.filt.s1.cleared
      s2 := ch.filt.s2.cleared
      s3 := ch.filt.s3.cleared
      supp := 0
      later := []
      settlePend := false
      gap := false
      swap := none }
    brg := { Brg.reset ch.mode with meas := ch.brg.meas, diag := ch.brg.diag, latch := ch.brg.latch, rate := ch.brg.rate }
    loop := { ch.loop with
      session := .none
      compl := false
      fallback := false
      readback := false
      wireBreak := false
      short := false
      folded := false
      alarm := false
      iWin := [] }
    legKept := ch.legKept.map (fun k => { k with exOn := false })
    din := { Din.reset with word := ch.din.word }
    sw := { ch.sw with
      prun := ch.sw.pgen
      tb := none
      tbNext := none
      offSince := if ch.conducting then now else ch.sw.offSince
      olLow := 0
      olHigh := 0
      fuseF := 0
      bucket := 0
      icur := 0
      limiting := false
      restarts := []
      onOpen := false
      offOpen := false
      shortVf := false
      extDrive := false } }

/-- The operation is a restore, shed step or journal transfer of a bank, which ends with its Holm. -/
def IntOp.inBank (b : Bank) : IntOp → Bool
  | .restore c => bankOf c == b
  | .load _ => false
  | .journal d _ => d == b
  | .shed d => d == b

/-- The Holm logic stops (R248, R249): every output, loop driver and excitation is off, Burrow map, journal, buffers and what
waits in it are lost. Its link falls silent, which LINK_LOSS reports. -/
def holmStop (b : Bank) (reversed : Bool) (s : State) : State :=
  let cut := s.waitingIn b
  let isR (h : Head) : Bool := match h.kind with | .restore d _ => bankOf d == b | _ => false
  let s := assertFault s
  let s := overAll (bankChs b) endTrim s
  let s := overAll (bankChs b) (fun c s => legalCutOff (chObj c) (s.setCh c (Chan.stopped s.sys.now))) s
  let s := (s.setBadger (fun g => { g with heads := g.heads.filter (fun h => !isR h) })).setSys
    (fun y => { y with internal := y.internal.filter (fun o => !o.inBank b) })
  s.setHolm b (fun h => { h with
    up := false
    reversed := reversed
    restarted := true
    warn := false
    shed := false
    shedLow := 8
    shedOver := none
    uv := false
    surge := false
    gnd := false
    pend := none
    mapHere := false
    burEn := false
    burIn := Vector.replicate 4 false
    tbs := Vector.replicate 4 none
    journal := []
    held := h.held ++ cut
    notices := []
    dropped := 0
    bus := []
    relay := []
    lost := []
    buf := []
    reloadDp := false
    edges := [] })

def holmLockout (b : Bank) (vf : Int) (s : State) : State :=
  if (s.holm b).up && decide (vf < 10000) then holmStop b false s else s

def execHolmLockout (b : Bank) (vf : Int) (s : State) : Host.Outcome State Fault Refusal := .next (holmLockout b vf s)

/-- A reversed VF (R249): the Holm logic is unpowered, whether or not it was locked out before. -/
def reverse (b : Bank) (s : State) : State :=
  if (s.holm b).up then holmStop b true s else (assertFault s).setHolm b (fun h => { h with reversed := true })

def execReverse (b : Bank) (s : State) : Host.Outcome State Fault Refusal := .next (reverse b s)

/-- The state that a strap's connection decodes to (Table 4 of 06_loops_and_modem). -/
def strapOf : StrapPin → Strap
  | .none_ => .open_
  | .toVf r => if r ≤ 22000 then .high else if 1000000 < r then .open_ else .invalid
  | .toGround r =>
    if r < 1000 then .low
    else if 9500 ≤ r && r ≤ 10500 then .lockLow
    else if 95000 ≤ r && r ≤ 105000 then .lockHigh
    else if 1000000 < r then .open_
    else .invalid

/-- The Holm leaves lockout when VF has risen above 11.0 V (R248, R267): every channel starts in OFF with its output de-energised, until its
link is established; the grid starts (R63), the strap is read (R141), θ_w starts at θ_a (R185), and its time is uncertain with no beacon
yet (R25). -/
def holmRestart (b : Bank) (pin : StrapPin) (x : RestartRead) (s : State) : State :=
  if (s.holm b).up || decide (x.vf ≤ 11000) then s
  else
    let strap := strapOf pin
    let s := s.setHolm b (fun h => { h with
      up := true
      reversed := false
      restarted := true
      strap := strap
      vf := x.vf
      case := x.case
      gridN := 0
      grid0 := s.sys.now
      allOff := some s.sys.raw
      slave := 0
      rate := 0
      beacons := 0
      tunc := true
      noBeacon := true })
    let s := overAll (bankChs b) (fun c s => s.setCh c (fun ch => { ch with sw := { ch.sw with
      theta := s.thetaA b
      tj := x.case } })) s
    let s := evalBank b s
    let s := if strap = .invalid then notifyHolm b 5 1 0xFF (strapCode strap) (some 3) s else s
    notifyHolm b 8 1 0xFF 0 none s

def execHolmRestart (b : Bank) (strap : StrapPin) (x : RestartRead) (s : State) : Host.Outcome State Fault Refusal :=
  .next (holmRestart b strap x s)

end Sys2Proof.Machine
end

