-- ==== Sys2Proof/Machine/ThrCmds.lean ====
section
/-! DEFINITION. The THR family (chapter 05): THR.SET (R119, R120), THR.GET (R470), THR.ARM and THR.DISARM (R124), THR.STAB
(R130, R131), and the events of comparators and detectors (R129, R131). -/

namespace Sys2Proof.Machine

/-- Fields of the control word (Table 3 of 05_thresholds_dosing). -/
def Thr.src (t : Thr) : Nat := fld t.ctrl 27 26
def Thr.falling (t : Thr) : Bool := bit t.ctrl 25
def Thr.arearm (t : Thr) : Bool := bit t.ctrl 24
def Thr.sreq (t : Thr) : Bool := bit t.ctrl 23
def Thr.dskip (t : Thr) : Bool := bit t.ctrl 22
def Thr.ffire (t : Thr) : Bool := bit t.ctrl 21
def Thr.gdadd (t : Thr) : Bool := bit t.ctrl 20
def Thr.act (t : Thr) : Nat := fld t.ctrl 19 18
def Thr.tgt (t : Thr) : Ch := ⟨fld t.ctrl 15 12 % 16, Nat.mod_lt _ (by decide)⟩
def Thr.armcen (t : Thr) : Bool := bit t.ctrl 11
def Thr.armcx (t : Thr) : Nat := fld t.ctrl 10 9

/-- The threshold event payload (Table 7 of 05_thresholds_dosing). It has no field for the value that an action applies on AOT, which
R126 says it shows, and none is shown (DESIGN CHOICE, log entry 117). -/
def thrPayload (idx : Fin 4) (byFlt : Bool) (tgt : Ch) (outcome : Byte) (e : EvalInfo) : List Byte :=
  [BitVec.ofNat 8 (idx.val + 4 * b2n byFlt + 16 * tgt.val), outcome] ++ le16 e.seq.toNat ++ le48 (e.ts % 2 ^ 48) ++
    leSigned e.value 4 ++ leSigned e.srcval 4

/-- A threshold event; a firing with an action is recorded at NOTICE for a legal channel, else INFO (R129). -/
def thrEvent (c : Ch) (action : Bool) (payload : List Byte) (s : State) : State :=
  notifyCh c 5 payload (if action then some (if s.isLegal c then 2 else 1) else none) s

/-- The settings of a THR.SET payload (Table 2 of 05_thresholds_dosing). -/
def thrOf (d : List Byte) (t : Thr) : Thr :=
  { t with
    rwin := byteAt d 1
    adly := word16 d 2
    ctrl := word32 d 4
    level := word32 d 8
    hyst := word32 d 12
    tpre := word32 d 16
    acur := word16 d 20 }

/-- The values of Tables 2 and 3 of 05_thresholds_dosing. -/
def thrRange (idx : Nat) (t : Thr) : Bool :=
  (t.rwin != 0 || t.src == 0) && decide (t.adly.toNat ≤ 10000) && (t.armcen || t.adly == 0) && t.src != 3 &&
    (!t.arearm || t.act == 0) && (!t.gdadd || t.src == 2) && (if t.armcen then t.armcx != idx else t.armcx == 0) &&
    decide (t.tpre.toNat ≤ 10000000) && (t.src == 2 || t.tpre == 0) && decide (t.acur.toNat ≤ 24000) &&
    (t.act == 3 || t.acur == 0)

/-- The comparator that a payload names. -/
def thrIdx (d : List Byte) : Fin 4 := ⟨fld (byteAt d 0) 1 0 % 4, Nat.mod_lt _ (by decide)⟩

/-- New settings; a change of SRC or RWIN empties the rate window (R120). -/
def setThr (c : Ch) (k : Fin 4) (n : Thr) (s : State) : State :=
  s.setCh c (fun ch => { ch with
    thr := ch.thr.set k.val { n with
      window := if n.src = ch.thr[k].src ∧ n.rwin = ch.thr[k].rwin then ch.thr[k].window else [] } k.isLt })

def thrSet (r : Req) (c : Ch) (s : State) : Res :=
  let d := r.payload
  let k := thrIdx d
  let old := (s.ch c).thr[k]
  let n := thrOf d old
  checked [(s.legalPortOk r.port c, stE_LEGAL), ((s.ch c).mode.usesFilter, stE_MODE),
      (d.length == 24 && rsvZero (byteAt d 0) 0xFC && rsvZero n.ctrl 0xF00301FF#32 && zeroBytes d 22 2, stE_FORMAT),
      (thrRange k.val n, stE_RANGE),
      (n.act == 0 || s.owns r.port (chObj n.tgt), stE_OWNER),
      (n.act == 0 || !s.oddMember n.tgt, stE_STATE),
      (!(old.st == .fired && (n.act != old.act || n.tgt != old.tgt)), stE_STATE)] s
    (ok (setThr c k n s))

def execThrSet (r : Req) (s : State) : Host.Outcome State Fault Refusal := .next (runCh 0x0401 r s (thrSet r))

/-- Comparator states as THR.GET reports them (R470). -/
def ThrState.code : ThrState → Nat
  | .disarmed => 0
  | .pending => 1
  | .armed => 2
  | .fired => 3

/-- The 28 bytes of one comparator (R470). -/
def thrBytes (k : Fin 4) (t : Thr) : List Byte :=
  [BitVec.ofNat 8 k.val, t.rwin] ++ le16 t.adly.toNat ++ le32 t.ctrl.toNat ++ le32 t.level.toNat ++ le32 t.hyst.toNat ++
    le32 t.tpre.toNat ++ le16 t.acur.toNat ++ [0, 0, BitVec.ofNat 8 t.st.code, 0] ++ le16 t.lastFire.toNat

def thrGet (r : Req) (c : Ch) (s : State) : Res :=
  checked [((s.ch c).mode.usesFilter, stE_MODE), (r.payload.length == 0, stE_FORMAT)] s
    (okData ((List.finRange 4).flatMap (fun k => thrBytes k (s.ch c).thr[k])) s)

def execThrGet (r : Req) (s : State) : Host.Outcome State Fault Refusal := .next (runCh 0x0402 r s (thrGet r))

/-- THR.ARM on masked comparators: DISARMED, PENDING or FIRED become ARMED, and a FIRED one's hold ends (R124). -/
def arm (c : Ch) (k : Fin 4 → Bool) (s : State) : State :=
  let leave (i : Fin 4) : Bool := k i && (s.ch c).thr[i].st != .armed
  let s := s.setCh c (fun ch => { ch with
    thr := Vector.ofFn (fun i => if k i then { ch.thr[i] with st := .armed, timer := none } else ch.thr[i]) })
  dropHolds c leave s

def thrArm (r : Req) (c : Ch) (s : State) : Res :=
  let m := byteAt r.payload 0
  checked [((s.ch c).mode.usesFilter, stE_MODE), (r.payload.length == 1 && rsvZero m 0xF0, stE_FORMAT)] s
    (ok (arm c (fun i => bit m i.val) s))

def execThrArm (r : Req) (s : State) : Host.Outcome State Fault Refusal := .next (runCh 0x0403 r s (thrArm r))

def thrDisarm (r : Req) (c : Ch) (s : State) : Res :=
  let m := byteAt r.payload 0
  checked [((s.ch c).mode.usesFilter, stE_MODE), (r.payload.length == 1 && rsvZero m 0xF0, stE_FORMAT)] s
    (ok (disarm c (fun i => bit m i.val) s))

def execThrDisarm (r : Req) (s : State) : Host.Outcome State Fault Refusal := .next (runCh 0x0404 r s (thrDisarm r))

/-- A source 6 event (R131): 0x01 settled, 0x02 STABLE, 0x03 UNSTABLE. -/
def settleEvent (c : Ch) (kind : Byte) (seq : BitVec 16) (ts : Nat) (s : State) : State :=
  notifyCh c 6 ([kind, 0] ++ le16 seq.toNat ++ le48 (ts % 2 ^ 48)) none s

/-- THR.STAB empties the window; a STABLE detector becomes UNSTABLE at the last sample (R131). -/
def setStab (c : Ch) (d : List Byte) (s : State) : State :=
  let ch := s.ch c
  let t := s.setCh c (fun ch => { ch with stab := Stab.mk (word16 d 0) (word32 d 4) (word32 d 8) [] false })
  if ch.stab.stable then settleEvent c 3 ch.filt.lastSeq ch.filt.lastTs t else t

def thrStab (r : Req) (c : Ch) (s : State) : Res :=
  let d := r.payload
  let w := leAt d 0 2
  checked [(s.legalPortOk r.port c, stE_LEGAL), ((s.ch c).mode.usesFilter, stE_MODE),
      (d.length == 12 && zeroBytes d 2 2, stE_FORMAT),
      ((w == 0 || (2 ≤ w && w ≤ 1024)) && decide (leAt d 4 4 ≤ leAt d 8 4), stE_RANGE)] s
    (ok (setStab c d s))

def execThrStab (r : Req) (s : State) : Host.Outcome State Fault Refusal := .next (runCh 0x0405 r s (thrStab r))

end Sys2Proof.Machine
end

