-- ==== Sys2Proof/Machine/LinkEv.lean ====
section
/-! DEFINITION. The Strait link (R29 to R33, R267), host loss in time (R254 to R256) and the cross-Holm relay (R32). -/

namespace Sys2Proof.Machine

/-- A Holm event that Mainland raises itself (R452). -/
def linkEvent (b : Bank) (kind : Byte) (value : Nat) (s : State) : State :=
  if s.sys.vddOk then raise (holmSrc b 1) ([kind, 0xFF] ++ le16 value) s else s

/-- Operations of a bank that the Badger still holds cannot be sent (R29). -/
def dropUnsendable (b : Bank) (s : State) : State :=
  overAll (s.badger.heads.filter (fun h => objBank h.obj == some b)) unsendable s

/-- Completions on their way in a Holm wait for its link (R30). -/
def holdCompletions (b : Bank) (s : State) : State :=
  let mine (c : Completion) : Bool := objBank c.req.obj == some b && decide (s.sys.now < c.tdone)
  { s.setHolm b (fun h => { h with held := h.held ++ s.completions.filter mine }) with
    completions := s.completions.filter (fun c => !mine c) }

/-- Mainland loses the lane from a Holm (R29): its link counts as lost, with the Holm's event. -/
def upLost (b : Bank) (s : State) : State :=
  if (s.holm b).link then
    dropUnsendable b (holdCompletions b (linkEvent b 1 0 ((assertFault s).setHolm b (fun h => { h with
      link := false
      lostAt := if h.deaf then h.lostAt else s.sys.now }))))
  else s

/-- A Holm loses the lane to it (R29) and applies its host-loss rules (Table 2 of 10_supplies_and_safe_states). -/
def downLost (b : Bank) (s : State) : State :=
  if (s.holm b).deaf then s
  else hostLossAll (bankChs b) (s.setHolm b (fun h => { h with
    deaf := true
    lostAt := if h.link then s.sys.now else h.lostAt }))

/-- The lanes of a Holm's link that have been silent for 50 µs count as lost at their receivers (R29), and the bank's modems stop
(R160). -/
def linkLoss (x : LostLanes) (s : State) : State :=
  let t := if x.up then upLost x.bank s else s
  let t := if x.down then downLost x.bank t else t
  if s.whole x.bank && !t.whole x.bank then overAll (bankChs x.bank) mdmAbort t else t

def execLinkLoss (x : LostLanes) (s : State) : Host.Outcome State Fault Refusal := .next (linkLoss x s)

/-- The journal is read (R30): results found complete their operations, at the time they were fixed; after a restart of the
Holm the journal is empty and every operation sent completes with E_ABORTED. -/
def readJournal (b : Bank) (gone : Bool) (s : State) : State :=
  let l := (s.holm b).held.map (fun c =>
    if gone then { c with status := stE_ABORTED, payload := [], tdone := s.sys.now } else c)
  { s.setHolm b (fun h => { h with held := [] }) with completions := s.completions ++ l }

/-- Notices kept in the Holm reach Mainland in their order, each with its own timestamp (R245, R452). -/
def deliverNotices (b : Bank) (s : State) : State :=
  overAll (s.holm b).notices (fun n s =>
    let s := raiseAt n.src.toNat n.payload n.ts s
    match n.den with
    | some sev => denEvent sev n.src n.obj n.payload s
    | none => s) (s.setHolm b (fun h => { h with notices := [] }))

/-- The payload of an undelivered action's report (Table 7 of 05_thresholds_dosing). -/
def lostPayload (m : ActMsg) : List Byte :=
  thrPayload m.idx m.byFlt m.tgt 5 { seq := m.seq, ts := m.ts, value := m.value, srcval := m.srcval }

/-- The report of an undelivered cross-Holm action (R33); its Den record was written with its firing when that was reported. -/
def reportLost (m : ActMsg) (s : State) : State :=
  let d := lostPayload m
  let s := raiseAt (chSrc m.src 5) d m.ts s
  if m.told then s
  else denEvent (if s.isLegal m.src then 2 else 1) (BitVec.ofNat 8 (chSrc m.src 5)) (chObj m.src) d s

/-- A cross-Holm action that cannot be delivered: reported, or recorded in the source Holm until its link returns (R33), among the
other notices of that Holm when its firing has not been reported yet. -/
def undelivered (m : ActMsg) (s : State) : State :=
  let b := bankOf m.src
  if (s.holm b).link && s.sys.vddOk then reportLost m s
  else if m.told then s.setHolm b (fun h => { h with lost := h.lost ++ [m] })
  else s.setHolm b (fun h => { h with notices := h.notices ++ [Notice.mk (BitVec.ofNat 8 (chSrc m.src 5)) (lostPayload m) m.ts
    (some (if s.isLegal m.src then 2 else 1)) (chObj m.src)] })

/-- After its Holm's restart a channel has its mode and settings again (R267): level 3 is active on every owned channel with
an output, its HOLD_T running from the establishment (log entry 40); the excitation stays off until a CH.MEAS is admitted (R434); a chain starts
afresh; the alarm direction stays as LOOP.CFG resolved it, whatever strap the power-up read (R142; DESIGN CHOICE, log entry 129); a supply fault that its Holm found before locks it now (R246, R247, R250). -/
def restoreCh (c : Ch) (s : State) : State :=
  let t := (s.holm (bankOf c)).holdT.toNat
  let s := s.setCh c (fun ch => { ch with
    l3 := if ch.owner.isSome && ch.mode.isOutput then
        some (HostLoss.mk (deenergised ch.mode) (if t = 0xFFFF || t = 0 then none else some (s.sys.raw + msTicks t))
          (decide (t = 0)) (deenergised ch.mode))
      else none })
  let h := s.holm (bankOf c)
  let s := if h.uv && !bit (s.ch (s.lead c)).safety 5 then supplyLock c (fun l => { l with supUv := true }) s else s
  let s := if h.surge then supplyLock c (fun l => { l with supSurge := true }) s else s
  let s := if h.gnd then supplyLock c (fun l => { l with supGnd := true }) s else s
  disturb c s

/-- A chain with its banks and chain word, its history empty (R98, R99). -/
def Filt.fresh (f : Filt) : Filt :=
  { Filt.reset with
    s1 := f.s1.cleared
    s2 := f.s2.cleared
    s3 := f.s3.cleared
    mdiv := f.mdiv
    sdecm1 := f.sdecm1 }

/-- A channel under the bank defaults of a cold start (R268, R386 step 9): what is no setting of a mode stays: the trim, the
map entry (R265), the conductor and the junction. -/
def Chan.coldDefault (now : Nat) (ch : Chan) : Chan :=
  { Chan.reset with
    sw := { Sw.reset with
      theta := ch.sw.theta
      tj := ch.sw.tj
      vp := ch.sw.vp
      offSince := now }
    loop := .reset ch.loop.trim
    bmap := ch.bmap }

/-- A legal channel after a start under bank defaults (R331, R333; log entry 43): the words of its stored legal configuration stand
unchanged: the measurement and diagnostic words, the input word, the filter banks and chain word, the carrier rate, the trim. At
a cold start its mode, wiring and excitation are in force too, the excitation only where the Holm is `up` (R434); a recovery start (`held`)
puts it in OFF and keeps them (R393). -/
def Chan.coldLegal (held up : Bool) (now : Nat) (ch : Chan) : Chan :=
  let k := ch.legStored
  let m := if held then .off else k.mode
  { ch.coldDefault now with
    mode := m
    wiring := if held then 0 else k.wiring
    shcls := if held then 4 else 0
    filt := ch.filt.fresh
    brg := { Brg.reset m with
      meas := ch.brg.meas
      diag := ch.brg.diag
      exOn := !held && up && k.exOn
      latch := ch.brg.latch
      rate := ch.brg.rate }
    mdm := .reset m
    din := { Din.reset with word := ch.din.word }
    legKept := if held then some k else none }

/-- Bank defaults of a cold start for a channel that Burrow mode kept through it (R268): who owns it and its shed class are as set
since that start. -/
def releaseKept (c : Ch) (s : State) : State :=
  if (s.ch c).burKept then
    s.setCh c (fun ch => { ch.coldDefault s.sys.now with owner := ch.owner, shcls := ch.shcls, ucode := ch.ucode })
  else s

/-- The channel sequencers are loaded from the active image (R17, R389). -/
def loadSequencers (l : List Ch) (s : State) : State :=
  overAll l (fun c s => s.setCh c (fun ch => { ch with ucode := s.ucodeNow, reloading := false })) s

/-- Mainland restores every channel of a restarted Holm (R267) and raises its event (R452); a channel that Burrow mode kept takes
the bank defaults when BUR_EN is no longer asserted (R268). -/
def restoreBank (b : Bank) (s : State) : State :=
  let s := loadSequencers (bankChs b) (s.setHolm b (fun h => { h with restarted := false }))
  let s := if (s.holm b).burEn then s else overAll (bankChs b) releaseKept s
  let s := tbSettle b (overAll (bankChs b) restoreCh s)
  notifyHolm b 7 1 0xFF 0 none (evalBank b s)

/-- Behind the journal of a bank (R30): what it holds completes, the map is there (R265), a restarted Holm is restored, and operations and
loads go out again. -/
def afterJournal (b : Bank) (gone : Bool) (s : State) : State :=
  let s := (readJournal b gone s).setHolm b (fun h => { h with mapHere := true })
  let s := if (s.holm b).restarted then restoreBank b s else evalBank b s
  evaluate (submitRestores b s)

/-- The journal's transfer takes an internal slot, or waits for one (R314); until it is read nothing of class 3 or 5 is sent (R30). -/
def journalNow (b : Bank) (s : State) : State :=
  let gone := (s.holm b).restarted
  if 32 ≤ s.sys.internal.length then arise (.journal b gone) s else afterJournal b gone s

/-- An internal operation that needs its slot for a transfer alone. -/
def IntOp.transfer : IntOp → Bool
  | .journal _ _ => true
  | .shed _ => true
  | .restore _ => false
  | .load _ => false

/-- A journal transfer or shed step that waited has its slot (R314). A journal whose link is lost again is read when it returns. -/
def internalTick (s : State) : State :=
  match (s.sys.internal.take 32).find? IntOp.transfer with
  | some (.journal b gone) =>
    let t := endInternal (.journal b gone) s
    if s.whole b then afterJournal b gone t else t
  | some (.shed b) =>
    let t := endInternal (.shed b) s
    if s.canShed b && (s.holm b).shed then shedSteps b (s.holm b).vf 8 t else t
  | _ => s

/-- The link is established on both lanes (R30, R31, R245; DEDUCED, log entry 151), with its event when Mainland had lost it. After a loss of more than 50 ms, as
after a restart, the slave copy has to be locked again (R25). -/
def linkUp (b : Bank) (s : State) : State :=
  let h := s.holm b
  let lost50 := decide (h.lostAt + 500000 < s.sys.now)
  let s := s.setHolm b (fun h => { h with
    link := true
    deaf := false
    beacons := if lost50 || h.restarted then 0 else h.beacons
    tunc := h.tunc || lost50
    dropped := 0 })
  let s := if h.link then s else linkEvent b 2 h.dropped s
  let s := if lost50 && !h.tunc then notifyHolm b 8 1 0xFF 0 none s else s
  let s := deliverNotices b s
  let s := overAll h.lost reportLost (s.setHolm b (fun h => { h with lost := [] }))
  journalNow b (flushStream b s)

def linkEstablishment (b : Bank) (s : State) : State :=
  if (s.holm b).up && !s.whole b && s.sys.vddOk then linkUp b s else s

def execLinkEstablishment (b : Bank) (s : State) : Host.Outcome State Fault Refusal := .next (linkEstablishment b s)

/-- HOLD_T has run: level 3 demands the safe state (R256, R259); the state at this instant is what DEF = 0b01 holds (R263). -/
def holdTExpiry (c : Ch) (s : State) : State :=
  match (s.ch c).l3 with
  | some h =>
    match h.due with
    | some t =>
      if !h.safe && decide (t ≤ s.sys.raw) && s.holmLive (bankOf c) then
        evalOut c (s.setCh c (fun ch => { ch with l3 := some { h with safe := true, atEnd := s.stateNow c } }))
      else s
    | none => s
  | none => s

def execHoldTExpiry (c : Ch) (s : State) : Host.Outcome State Fault Refusal := .next (holdTExpiry c s)

/-- The watchdog of a port runs: it is set, RDY is set and the port core serves (R255). -/
def State.wdDue (s : State) (p : Port) : Bool :=
  let q := s.port p
  q.wdt != 0 && q.rdy && !s.coreDown (portCore p) && s.sys.vddOk && !q.wdExpired &&
    decide (q.wdAt + msTicks q.wdt.toNat ≤ s.sys.now)

/-- A port watchdog expires (R254, R255). -/
def watchdogExpiry (p : Port) (s : State) : State :=
  if s.wdDue p then
    let s := s.setPort p (fun q => { q with wdExpired := true })
    let s := denEvent 2 (BitVec.ofNat 8 (portSrc p 2)) (portObj p) [] (raise (portSrc p 2) [] s)
    hostLossAll (allCh.filter (fun c => (s.ch c).owner == some p)) s
  else s

def execPortWatchdogExpiry (p : Port) (s : State) : Host.Outcome State Fault Refusal := .next (watchdogExpiry p s)

/-- A threshold event of a firing with its outcome; a Den record goes with an action (R129); that of an action that cannot be
delivered is R33's. -/
def ActMsg.report (m : ActMsg) (outcome : Byte) (s : State) : State :=
  if outcome = 5 then undelivered m s
  else thrEvent m.src (outcome != 0) (thrPayload m.idx m.byFlt m.tgt outcome (EvalInfo.mk m.seq m.ts m.value m.srcval)) s

/-- A firing whose outcome is known reports it, behind an action of its channel that still waits on the bus (Table 9 of
05_thresholds_dosing). -/
def reportInOrder (m : ActMsg) (outcome : Byte) (s : State) : State :=
  if (s.holm (bankOf m.src)).bus.any (·.src == m.src) then
    s.setHolm (bankOf m.src) (fun h => { h with bus := h.bus ++ [{ m with note := some outcome }] })
  else m.report outcome s

/-- The relay moves the first waiting action to the other Holm's action bus (R32), or counts it as undelivered (R33); its report goes
out behind what its channel has still to report (Table 9 of 05_thresholds_dosing). -/
def relayOne (src : Bank) (s : State) : State :=
  match (s.holm src).relay with
  | [] => s
  | m :: rest =>
    let s := s.setHolm src (fun h => { h with relay := rest })
    if s.whole src && s.whole (bankOf m.tgt) && s.sys.vddOk then
      s.setHolm (bankOf m.tgt) (fun h => { h with bus := h.bus ++ [m] })
    else reportInOrder m 5 s

def execCrossHolmRelay (src : Bank) (s : State) : Host.Outcome State Fault Refusal := .next (relayOne src s)

end Sys2Proof.Machine
end

