-- ==== Sys2Proof/Machine/StageOps.lean ====
section
/-! DEFINITION. The arithmetic of the chain (R75, R86 to R90): the sinc stage, the demodulator, FIR filters, biquad cascades,
decimators and the output word. -/

namespace Sys2Proof.Machine

/-- A 40-bit word: saturated at the guard limit, and whether it was (R88). -/
def sat40 (x : Int) : Int × Bool :=
  if 549755813887 < x then (549755813887, true) else if x < -549755813888 then (-549755813888, true) else (x, false)

/-- What feeding one word to a stage gives: the stage, the words it delivers, whether one was saturated. -/
structure StageOut where
  g : Stage
  out : List Int
  ovr : Bool

/-- The accumulator of a stage holds 56 bits, of which 16 stand below the LSB of a word; a sum beyond it saturates (R88; log
entry 108). -/
def acc56 (x : Int) : Int × Bool :=
  if 36028797018963967 < x then (36028797018963967, true)
  else if x < -36028797018963968 then (-36028797018963968, true) else (x, false)

/-- A product as it enters the accumulator, from a coefficient with `n` + 16 fraction bits. -/
def product (n : Nat) (k x : Int) : Int := k * x / 2 ^ n

/-- The word that a stage makes of its accumulator, and whether it saturated. -/
def accWord (x : Int) : Int × Bool :=
  let a := acc56 x
  let y := sat40 (divRound a.1 65536)
  (y.1, a.2 || y.2)

/-- One FIR output: the taps of the polyphase branch j against the history, newest first; Q1.31 (R90). -/
def firSum (cfg : SCfg) (j : Nat) (hist : List Int) : Int × Bool :=
  accWord ((List.range cfg.n).foldl (fun a k =>
    if k % cfg.l = j then a + product 15 (cfg.coef k) (hist.getD (k / cfg.l) 0) else a) 0)

/-- The positions of the taps' rate that one input opens: an output at every M-th of them (R90), the first at the M-th after the
history was cleared (DESIGN CHOICE, log entry 109). -/
def firPhases (cfg : SCfg) (hist : List Int) : List Nat → Nat → Nat × List (Int × Bool)
  | [], acc => (acc, [])
  | j :: rest, acc =>
    if acc + 1 < cfg.m then firPhases cfg hist rest (acc + 1)
    else
      let r := firPhases cfg hist rest 0
      (r.1, firSum cfg j hist :: r.2)

/-- One biquad section: Q2.30 (R90). The answer: the new history of the section and its output. -/
def bqStep (cfg : SCfg) (j : Nat) (h : Int × Int × Int × Int) (x : Int) : (Int × Int × Int × Int) × Int × Bool :=
  let k := 5 * j
  let y := accWord (product 14 (cfg.coef k) x + product 14 (cfg.coef (k + 1)) h.1 + product 14 (cfg.coef (k + 2)) h.2.1 -
    product 14 (cfg.coef (k + 3)) h.2.2.1 - product 14 (cfg.coef (k + 4)) h.2.2.2)
  ((x, h.1, y.1, h.2.2.1), y.1, y.2)

/-- The cascade: section 0 runs first. -/
def bqRun (cfg : SCfg) : List Nat → List (Int × Int × Int × Int) → Int → Bool → List (Int × Int × Int × Int) × Int × Bool
  | [], _, x, o => ([], x, o)
  | j :: rest, hs, x, o =>
    let r := bqStep cfg j (hs.headD (0, 0, 0, 0)) x
    let t := bqRun cfg rest hs.tail r.2.1 (o || r.2.2)
    (r.1 :: t.1, t.2)

/-- One word through one stage and its decimator. -/
def Stage.feed (cfg : SCfg) (x : Int) (g : Stage) : StageOut :=
  if cfg.typ = 1 then
    let hist := (x :: g.hist).take 256
    let r := firPhases cfg hist (List.range cfg.l) g.acc
    StageOut.mk { g with hist := hist, acc := r.1 } (r.2.map (·.1)) (r.2.any (·.2))
  else
    let r := if cfg.typ = 2 then bqRun cfg (List.range cfg.n) g.bq x false else (g.bq, x, false)
    if g.acc + 1 < cfg.m then StageOut.mk { g with bq := r.1, acc := g.acc + 1 } [] r.2.2
    else StageOut.mk { g with bq := r.1, acc := 0 } [r.2.1] r.2.2

/-- Several words through one stage. -/
def Stage.feedAll (cfg : SCfg) : List Int → Stage → StageOut
  | [], g => StageOut.mk g [] false
  | x :: rest, g =>
    let a := g.feed cfg x
    let b := Stage.feedAll cfg rest a.g
    StageOut.mk b.g (a.out ++ b.out) (a.ovr || b.ovr)

/-- A quotient by a number of either sign, rounded to nearest. -/
def divSigned (a b : Int) : Int := if b < 0 then divRound (-a) b.natAbs else divRound a b.natAbs

/-- How the front of a channel's chain stands: WIRE, BLANK, M_0, RANGE of BRG in mV/V, and in carrier excitation the modulator ticks of a
half-period. -/
structure Front where
  wire : Bool
  blank : Nat
  m0 : Nat
  range : Nat
  half : Option Nat

/-- The full scale of a BRG range in mV/V (Table 3 of 03_bridge_measurement). -/
def rangeMv (code : Nat) : Nat := [4, 8, 16, 80].getD code 4

/-- A modulator word of the selected range: in BRG the ratio of V_sig and V_sen (R68; in carrier excitation against the magnitude of
V_sen, which reverses with the excitation, so that the sign is that of the positive half-period), in RES from the voltages of four-wire or
(WIRE = 1) three-wire connection, with R_ref equal to the range's full scale (R74, R75). Without V_sen or a reference there is no quotient
(log entry 107). -/
def modWord (p : Front) : ModIn → Int
  | .word x => x
  | .bridge sig sen =>
    if sen = 0 then Config.noReference sig
    else divSigned (2147483648 * 1000 * sig) ((if p.half.isSome then (sen.natAbs : Int) else sen) * p.range)
  | .volts a n sp sn ref =>
    let v := if p.wire then (sp - n) - (a - sp) else sp - sn
    if ref = 0 then Config.noReference v else divSigned (2147483648 * v) ref

/-- One modulator word enters the accumulators of the sinc stage (R86). -/
def Sinc.put (g : Sinc) (x : Int) : Sinc :=
  let a := g.i1 + x
  let b := g.i2 + a
  let c := g.i3 + b
  { g with i1 := a, i2 := b, i3 := c, i4 := g.i4 + c }

/-- The sinc stage delivers a word (R86): four differences of the fourth accumulator at the output's rate, over M_0⁴. -/
def Sinc.take (g : Sinc) (m0 : Nat) : Sinc × Int :=
  let a := g.i4 - g.c1
  let b := a - g.c2
  let c := b - g.c3
  ({ g with c1 := g.i4, c2 := a, c3 := b, c4 := c }, divRound (c - g.c4) (m0 ^ 4))

/-- The mean of the sinc outputs of a half-period that end after BLANK, in 10 µs; an output takes 16 modulator ticks, 125/12 µs
(R64, R87). -/
def halfMean (blank : Nat) (l : List Int) : Int :=
  let k := ((List.range l.length).filter (fun i => blank * 120 < (i + 1) * 125)).map (fun i => l.getD i 0)
  divRound k.sum k.length

/-- One modulator word through the sinc stage: every M_0-th makes an output (R86). -/
def Sinc.step (m0 : Nat) (g : Sinc) (x : Int) : Sinc × List Int :=
  let g := g.put x
  if g.n + 1 < m0 then ({ g with n := g.n + 1 }, [])
  else
    let r := g.take m0
    ({ r.1 with n := 0 }, [r.2])

/-- Modulator words through the sinc stage. -/
def Sinc.run (m0 : Nat) : List Int → Sinc → Sinc × List Int
  | [], g => (g, [])
  | x :: rest, g =>
    let a := g.step m0 x
    let b := Sinc.run m0 rest a.1
    (b.1, a.2 ++ b.2)

/-- The modulator words of a half-period, of which those left out repeat the last one. -/
def halfWords (n : Nat) (l : List Int) : List Int := (l ++ List.replicate n (l.getLastD 0)).take n

/-- The words that enter the stages (R86, R87; log entry 41). The excitation picks the front: in carrier excitation the sinc stage with M_0
of 16 runs over both half-periods, and half the difference of their means is the ratio of R68. -/
def feedOne (p : Front) (g : Sinc) (x : ChainIn) : Sinc × List (Int × Bool) :=
  match p.half with
  | none =>
    let r := Sinc.run p.m0 ((x.pos ++ x.neg).map (modWord p)) g
    (r.1, r.2.map sat40)
  | some n =>
    let a := Sinc.run 16 (halfWords n (x.pos.map (modWord p))) g
    let b := Sinc.run 16 (halfWords n (x.neg.map (modWord p))) a.1
    (b.1, [sat40 (divRound (halfMean p.blank a.2 - halfMean p.blank b.2) 2)])

/-- Several of them. -/
def feedFront (p : Front) : List ChainIn → Sinc → Sinc × List (Int × Bool)
  | [], g => (g, [])
  | x :: rest, g =>
    let a := feedOne p g x
    let b := feedFront p rest a.1
    (b.1, a.2 ++ b.2)

/-- The words of one sample instant run through the front and the three stages: the chain, the last word delivered if any, and
whether one saturated (R88). -/
def Filt.run (p : Front) (f : Filt) (inputs : List ChainIn) : Filt × Option Int × Bool :=
  let z := feedFront p inputs f.sinc
  let a := Stage.feedAll (f.s1.active.cfg 0) (z.2.map (·.1)) f.s1
  let b := Stage.feedAll (f.s2.active.cfg 1) a.out f.s2
  let c := Stage.feedAll (f.s3.active.cfg 2) b.out f.s3
  ({ f with sinc := z.1, s1 := a.g, s2 := b.g, s3 := c.g }, c.out.getLast?, z.2.any (·.2) || a.ovr || b.ovr || c.ovr)

/-- The front of a channel's chain. In carrier excitation f_mod is 1.536 MHz (R85), so that a half-period at 75 Hz takes 10240 ticks. -/
def Chan.front (ch : Chan) : Front :=
  { wire := ch.wire1
    blank := fld ch.brg.meas 23 16
    m0 := ch.filt.sdecm1.toNat + 1
    range := rangeMv (fld ch.brg.meas 13 12)
    half := if ch.carrierMode then some (10240 / 2 ^ ch.rateNow.val) else none }

/-- The 32-bit word with its dither (R88): the n-th dither value, in 1/2^16 of an LSB and within ±1 LSB (log entry 13);
clipped, and whether it was. -/
def outWord (n : Nat) (y : Int) : Int × Bool :=
  let v := divRound (y * 65536 + max (-65536) (min 65536 (Config.dither n))) 65536
  if 2147483647 < v then (2147483647, true) else if v < -2147483648 then (-2147483648, true) else (v, false)

end Sys2Proof.Machine
end

