-- ==== Sys2Proof/Machine/SampleEv.lean ====
section
/-! DEFINITION. Samples (R77, R86 to R111, R134), comparators and the stability detector (R113 to R131), fast-path actions
(R38, R126, R127) and chained arming (R125). -/

namespace Sys2Proof.Machine

/-- The NE 43 class of a current in AII and AIP (Table 2 of 06_loops_and_modem), from the word of R133: thresholds in word
units of 32 mA / 2^31. -/
def ne43Class (word : Int) : Fin 5 :=
  let na := word * 32000000
  if na < 3600000 * 2147483648 then 0
  else if na < 3800000 * 2147483648 then 1
  else if na ≤ 20500000 * 2147483648 then 2
  else if na ≤ 21000000 * 2147483648 then 3
  else 4

/-- The sense-line break diagnostic exists for this mode and wiring (Table 9 of 03_bridge_measurement). -/
def Chan.sensed (ch : Chan) : Bool := (ch.mode == .brg || ch.mode == .res) && !ch.wire1

/-- A reading beyond ±105 % of the range (Table 9 of 03_bridge_measurement). -/
def beyond105 (y : Int) : Bool := decide (2254857830 < y) || decide (y < -2254857830)

/-- The diagnostic conditions of a channel with a sample's own facts (R77, R134, R144, R246, R247, R250). -/
def State.fltNow (s : State) (c : Ch) : Bool :=
  let ch := s.ch c
  let h := s.holm (bankOf c)
  let b := ch.brg
  let l := ch.loop
  h.uv || h.surge || h.gnd ||
    ((ch.mode == .brg || ch.mode == .res) && (b.senseNow || b.signalNow || b.shortNow || b.impNow || b.leakNow)) ||
    ((ch.mode == .aii || ch.mode == .aip) &&
      (l.wireBreak || l.short || (bit l.word 8 && (l.cls == 0 || l.cls == 4))))

/-- DIST (R110): the channel is QUIET and an output transition of its bank, not on one of its own reversal instants, lies in
the sample's span of T carrier periods, as the oscillator counts them (R63). -/
def State.distNow (s : State) (c : Ch) (ts : Nat) : Bool :=
  let ch := s.ch c
  let h := s.holm (bankOf c)
  ch.carrierMode && bit ch.brg.meas 10 &&
    h.edges.any (fun e =>
      !onReversal ch.rateNow e && decide (e.1 ≤ ts) &&
        decide ((ts : ℚ) - ch.chain.spanT true (fun _ => true) * h.carrierPeriod ch.rateNow ≤ e.1))

/-- Sample instants of a channel pass (R91, R101): it uses the filter datapath, its Holm is out of lockout, and no mode change is
past t_d (Table 6 of 02_channel_modes). -/
def State.samples (s : State) (c : Ch) : Bool :=
  (s.ch c).mode.usesFilter && (s.ch c).changing.isNone && (s.holm (bankOf c)).up && s.holmLive (bankOf c)

/-- The instant's sample is not computed: datapath reload (R102), short latch (R79), a mode change accepted (R50). -/
def State.uncomputed (s : State) (c : Ch) : Bool :=
  (s.holm (bankOf c)).reloadDp || (s.ch c).brg.latch || (s.ch c).modeMoving

/-- Spread of a window. -/
def spread (l : List Int) : Int := l.foldl max (l.headD 0) - l.foldl min (l.headD 0)

/-- The stability detector takes a sample (R131): the detector after it. -/
def Stab.feed (d : Stab) (x : Smp) (gap : Bool) : Stab :=
  if d.w = 0 then { d with window := [], stable := false }
  else if x.uns then { d with window := [], stable := false }
  else
    let w := (x.value :: if gap then [] else d.window).take d.w.toNat
    let stable := d.stable && !gap
    { d with
      window := w
      stable := if stable then decide (spread w ≤ d.uband.toNat) else decide (d.w.toNat ≤ w.length) && decide (spread w ≤ d.band.toNat) }

/-- The detector's part of a sample; a change of state raises source 6, first the emptying and then the filling (R131). -/
def stabSample (c : Ch) (x : Smp) (gap : Bool) (s : State) : State :=
  let d := (s.ch c).stab
  let n := d.feed x gap
  let t := s.setCh c (fun ch => { ch with stab := n })
  let t := if d.stable && (!n.stable || (gap && !x.uns)) then settleEvent c 3 x.seq x.ts t else t
  if n.stable && (!d.stable || gap) then settleEvent c 2 x.seq x.ts t else t

/-- t_eff in ns (R116). -/
def State.teffNs (s : State) (c : Ch) (t : Thr) : Int :=
  if t.gdadd then
    let gd : Int := match gdNs (s.ch c) (s.holm (bankOf c)).osc with | some g => ratRound g | none => 2 ^ 64 - 1
    let path : Int := if t.act = 0 then 0 else if bankOf t.tgt = bankOf c then 20000 else 150000
    (t.tpre.toNat : Int) * 1000 + gd + 100 * (clatTicks : Nat) + path
  else (t.tpre.toNat : Int) * 1000

/-- A value saturated between limits. -/
def clamp (lo hi x : Int) : Int := max lo (min hi x)

/-- The comparator's source for a sample whose window holds it (R115); none while a rate window is not full. -/
def State.source (s : State) (c : Ch) (t : Thr) (x : Int) : Option Int :=
  if t.src = 0 then some x
  else if t.window.length < t.rwin.toNat + 1 then none
  else
    let rt := clamp (-2147483647) 2147483647
      (Int.tdiv ((x - t.window.getLastD 0) * (s.ch c).foutQ) ((t.rwin.toNat * 65536 : Nat) : Int))
    if t.src = 1 then some rt
    else some (clamp (-2147483648) 2147483647 (x + Int.tdiv (rt * s.teffNs c t) 1000000000))

/-- The condition with hysteresis (R121). -/
def Thr.condAfter (t : Thr) (v : Int) : Bool :=
  if t.falling then
    if v ≤ t.level.toInt then true else if t.level.toInt + t.hyst.toNat < v then false else t.cond
  else if t.level.toInt ≤ v then true
  else if v < t.level.toInt - t.hyst.toNat then false
  else t.cond

/-- Rate window after a sample (R115, R117, R118). -/
def Thr.windowAfter (t : Thr) (x : Smp) (gap : Bool) : List Int :=
  if x.uns then [] else (x.value :: if gap then [] else t.window).take (t.rwin.toNat + 1)

/-- What a comparator makes of a sample: itself, and whether it fires by FFIRE or by its condition. -/
structure Judged where
  t : Thr
  byFlt : Bool
  byCond : Bool

/-- One comparator and one sample (R117, R118, R121 to R123); `free` stands for a source value that no rule states, when
FFIRE fires on a sample whose window is not full, and for the SRCVAL that R128's event of a comparator reports when such a sample
was its last (log entries 10 and 134). -/
def State.judge (s : State) (c : Ch) (x : Smp) (gap stable : Bool) (free : Int) (t : Thr) : Judged :=
  let t := { t with window := t.windowAfter x gap }
  let ff := x.flt && t.ffire && t.st == .armed
  let decides := !x.uns && !(t.sreq && !stable) && !(t.dskip && x.dist)
  let sv := s.source c t x.value
  let info : EvalInfo := EvalInfo.mk x.seq x.ts x.value (match t.src, sv with | 0, _ => x.value | _, some v => v | _, none => free)
  let t := { t with lastEval := some info }
  if ff then
    Judged.mk { t with
      st := .fired
      lastFire := x.seq
      cond := match sv with | some v => t.condAfter v | none => t.cond } true false
  else if !decides then Judged.mk t false false
  else
    match sv with
    | none => Judged.mk t false false
    | some v =>
      let t := { t with cond := t.condAfter v }
      if t.st == .armed && t.cond then Judged.mk { t with st := .fired, lastFire := x.seq } false true
      else if t.st == .fired && t.arearm && !t.cond then Judged.mk { t with st := .armed } false false
      else Judged.mk t false false

/-- What an action demands (Table 3 of 05_thresholds_dosing). -/
def Thr.actKind (t : Thr) : ActKind :=
  match t.act with
  | 1 => .off
  | 2 => .on
  | _ => .cur t.acur.toNat

/-- The reports of a bus that no earlier entry of their channel holds back, and what stays on the bus. -/
def splitNotes : List ActMsg → List ActMsg → List ActMsg × List ActMsg
  | [], kept => ([], kept)
  | m :: rest, kept =>
    if m.note.isSome && !kept.any (·.src == m.src) then
      let r := splitNotes rest kept
      (m :: r.1, r.2)
    else splitNotes rest (kept ++ [m])

/-- Those reports are made. -/
def flushNotes (b : Bank) (s : State) : State :=
  let r := splitNotes (s.holm b).bus []
  overAll r.1 (fun m s => m.report (m.note.getD 0) s) (s.setHolm b (fun h => { h with bus := r.2 }))

/-- A firing's event or action (R125, R127, R129, R33). -/
def fire (c : Ch) (k : Fin 4) (byFlt : Bool) (s : State) : State :=
  let t := (s.ch c).thr[k]
  let e := t.lastEval.getD (EvalInfo.mk 0 0 0 0)
  let s := s.setCh c (fun ch => { ch with thr := ch.thr.map (fun o =>
    if o.armcen && o.armcx == k.val && o.st == .disarmed then
      { o with st := .pending, timer := some (s.sys.now + msTicks o.adly.toNat) }
    else o) })
  let m : ActMsg := ActMsg.mk c k t.tgt t.actKind byFlt e.seq e.ts e.value e.srcval true false none
  if t.act = 0 then reportInOrder m 0 s
  else
    if bankOf t.tgt = bankOf c then s.setHolm (bankOf c) (fun h => { h with bus := h.bus ++ [m] })
    else if s.whole (bankOf c) && s.whole (bankOf t.tgt) && s.sys.vddOk then
      reportInOrder m 4
        (s.setHolm (bankOf c) (fun h => { h with relay := h.relay ++ [{ m with told := true }] }))
    else reportInOrder m 5 s

/-- The comparators take a sample, in index order (R117, Table 9 of 05_thresholds_dosing). -/
def thrSample (c : Ch) (x : Smp) (gap : Bool) (s : State) : State :=
  let stable := (s.ch c).stab.stable
  let d := s.draw
  let free : Int := (BitVec.ofNat 32 d.1).toInt
  let js : Vector Judged 4 := (s.ch c).thr.map (s.judge c x gap stable free)
  let s := d.2.setCh c (fun ch => { ch with thr := js.map Judged.t })
  overAll [(0 : Fin 4), 1, 2, 3] (fun k s => if (js[k]).byFlt || (js[k]).byCond then fire c k (js[k]).byFlt s else s) s

/-- A change of NE 43 class raises the loop event (R134). -/
def classSample (c : Ch) (value : Int) (s : State) : State :=
  let ch := s.ch c
  if (ch.mode == .aii || ch.mode == .aip) && bit ch.loop.word 8 && ch.loop.cls != ne43Class value then
    loopEvent c 6 (s.setCh c (fun ch => { ch with loop := { ch.loop with cls := ne43Class value } }))
  else s

/-- The device time at which a sample's last modulator bit came. -/
def State.sampleEnd (s : State) (x : SampleIn) : Nat := s.sys.now - x.age

/-- A sample's timestamp (R107, R25): the Holm's slave copy at its last modulator bit, 0 before the first beacon after a
restart. -/
def State.sampleStamp (s : State) (b : Bank) (x : SampleIn) : Nat :=
  if (s.holm b).noBeacon then 0 else (s.holm b).slave - x.age

/-- The sense-line break condition: |V_sen| below 70 % of |V(P) − V(N)|, or of the wrong sign (Table 9 of
03_bridge_measurement). -/
def SampleIn.senseBad (x : SampleIn) : Bool :=
  decide (10 * x.vsen.natAbs < 7 * x.vpn.natAbs) || decide (x.vsen < 0 ∧ 0 < x.vpn) || decide (0 < x.vsen ∧ x.vpn < 0)

/-- A computed sample: flags, settled event, detector, comparators, stream (R88, R103 to R111, R117, R131). The sense-line criterion is
judged here, at delivered samples, and its result holds between them (DESIGN CHOICE, log entry 144). -/
def sampleDone (c : Ch) (x : SampleIn) (y : Int) (ovr gap : Bool) (s : State) : State :=
  let b := bankOf c
  let broken := SampleIn.senseBad x && (s.ch c).sensed
  let w := outWord s.sys.freeCtr y
  let s := s.setSys (fun y => { y with freeCtr := y.freeCtr + 1 })
  let value := if broken then -2147483648 else w.1
  let s := s.setCh c (fun ch => { ch with
    brg := { ch.brg with senseNow := broken, signalNow := ch.mode == .brg && beyond105 y } })
  let s := classSample c value s
  let f := (s.ch c).filt
  let s := if f.tstep then noteStep c s else s
  let ts := s.sampleStamp b x
  let p : Smp := Smp.mk value f.seq ts (broken || ovr || w.2) (s.fltNow c) (decide (0 < f.supp)) (s.distNow c (s.sampleEnd x))
    (s.holm b).tunc
  let settled := f.supp = 0 && f.settlePend
  let s := s.setCh c (fun ch => { ch with
    filt := { ch.filt with
      supp := ch.filt.supp - 1
      settlePend := ch.filt.settlePend && !settled
      seq := ch.filt.seq + 1
      gap := false
      tstep := false
      lastSeq := ch.filt.seq
      lastTs := ts } })
  let s := if settled then needTime c (settleEvent c 1 p.seq p.ts s) else s
  let s := if gap then needTime c s else s
  streamSample c p (thrSample c p gap (stabSample c p gap s))

/-- A sample instant of a channel (R106, R117). Its words run through the stages; an instant that passes uncomputed uses its
number, and what suppresses samples takes effect before it (R103); such an instant is none of the S suppressed samples (DESIGN CHOICE, log
entry 146). -/
def sampleNow (c : Ch) (x : SampleIn) (s : State) : State :=
  if !s.samples c then s
  else
    let s := s.setCh c (fun ch => { ch with filt := ch.filt.absorb (s.sampleEnd x) })
    if s.uncomputed c then
      needTime c (s.setCh c (fun ch => { ch with filt := { ch.filt with
        seq := ch.filt.seq + 1
        gap := true } }))
    else
      let r := (s.ch c).filt.run (s.ch c).front x.inputs
      let gap := (s.ch c).filt.gap
      let s := s.setCh c (fun ch => { ch with filt := r.1 })
      match r.2.1 with
      | some y => sampleDone c x y r.2.2 gap s
      | none => s

def execSample (c : Ch) (x : SampleIn) (s : State) : Host.Outcome State Fault Refusal := .next (sampleNow c x s)

/-- Where a hold stands among those of its target: the earlier fired first, and off before any other on the same sample
instant (Table 12 of 01_architecture). -/
def insertHold (h : ActHold) : List ActHold → List ActHold
  | [] => [h]
  | x :: rest => if h.ts < x.ts || (h.ts == x.ts && h.kind == .off && x.kind != .off) then h :: x :: rest else x :: insertHold h rest

/-- A fast-path action reaches its target sequencer (R38, R126): it writes level 5, takes its hold while its comparator still
stands FIRED, and its outcome is found there (R129), before what its own turn-off may lock. A parked target never executes it
(R159). -/
def applyAction (g : ActMsg) (mm : ClampMeas) (s : State) : State :=
  let t := s.lead g.tgt
  let d := if (s.ch t).mode.isOutput then actDemand (s.ch t) g.kind else none
  let before := s
  let s := if g.live && !(s.ch t).parked then
      s.setCh t (fun ch => { ch with
        acts := insertHold (ActHold.mk g.src g.idx g.kind g.ts d.isSome)
          (ch.acts.filter (fun a => !(a.src == g.src && a.idx == g.idx))) })
    else s
  let s := match d with
    | some v => (setL5 t v s).setCh t (fun ch => { ch with loop := { ch.loop with alarm := false, fallback := false } })
    | none => s
  let s := evalOut t s
  let outcome : Byte := if d.isNone then 2 else if (s.govern t).1 < 4 then 3 else 1
  let s := clampAfter t mm before s
  if bankOf g.src = bankOf g.tgt then
    flushNotes (bankOf g.src) (s.setHolm (bankOf g.src) (fun h => { h with
      bus := h.bus.map (fun m => if m.note == some 0xFF then { m with note := some outcome } else m) }))
  else s

/-- What stays of an action that leaves the bus of a Holm: in the place of one of the same Holm its report, whose outcome (0xFF: not
yet known) follows. -/
def takeAction (c : Ch) : List ActMsg → List ActMsg
  | [] => []
  | m :: rest =>
    if m.tgt == c && m.note.isNone then
      if bankOf m.src = bankOf m.tgt then { m with note := some 0xFF } :: rest else rest
    else m :: takeAction c rest

/-- The first action waiting on a Holm's bus for a target is applied (R127); the events of one channel's firings go out in the order
of the firings (Table 9 of 05_thresholds_dosing). -/
def actionNow (c : Ch) (m : ClampMeas) (s : State) : State :=
  let b := bankOf c
  match (s.holm b).bus.find? (fun a => a.tgt == c && a.note.isNone) with
  | some g =>
    if s.holmLive b && (s.holm b).up then
      applyAction g m (s.setHolm b (fun h => { h with bus := takeAction c h.bus }))
    else s
  | none => s

def execAction (c : Ch) (m : ClampMeas) (s : State) : Host.Outcome State Fault Refusal := .next (actionNow c m s)

/-- ADLY has run: a PENDING comparator is ARMED (R125). -/
def chainedArming (c : Ch) (k : Fin 4) (s : State) : State :=
  let t := (s.ch c).thr[k]
  match t.st, t.timer with
  | .pending, some due =>
    if due ≤ s.sys.now then
      s.setCh c (fun ch => { ch with thr := ch.thr.set k.val { t with st := .armed, timer := none } k.isLt })
    else s
  | _, _ => s

def execChainedArming (c : Ch) (k : Fin 4) (s : State) : Host.Outcome State Fault Refusal := .next (chainedArming c k s)

end Sys2Proof.Machine
end

