-- ==== Sys2Proof/Machine/GridEv.lean ====
section
/-! DEFINITION. What takes effect at a boundary or an instant: filter swaps (R100, R101), carrier plans (R72, R73), moved
changes (R212, R213) and the end of a datapath reload (R102). -/

namespace Sys2Proof.Machine

/-- The lowest stage that a swap clears: the whole chain when the chain word changes (R100). -/
def Swap.low (w : Swap) : Nat := if w.chw then 0 else if bit w.smask 0 then 0 else if bit w.smask 1 then 1 else 2

/-- Clears the history from a stage onward. -/
def Filt.clearFrom (f : Filt) (low : Nat) : Filt :=
  { f with
    s1 := if low = 0 then f.s1.cleared else f.s1
    s2 := if low ≤ 1 then f.s2.cleared else f.s2
    s3 := f.s3.cleared }

/-- The boundary of a swap has come: at least one schedule round after its acceptance, and not before the plan instant it
waits for (R100). -/
def State.swapDue (s : State) (c : Ch) (w : Swap) : Bool :=
  decide (w.acceptedAt + 105 ≤ s.sys.now) && !(w.afterPlan && (s.holm (bankOf c)).pend.isSome)

/-- The swap takes effect and FLT.SWAP completes (R100, R101, R103, R104). -/
def swapNow (c : Ch) (w : Swap) (s : State) : State :=
  let s := s.setCh c (fun ch => { ch with
    filt := { (ch.filt.swapped w.smask w.chw w.mdiv w.sdecm1).clearFrom w.low with
      swap := none
      sinc := if w.chw then .reset else ch.filt.sinc } })
  let n := (s.ch c).chain.settle w.chw (fun k => decide (w.low ≤ k))
  let s := s.setCh c (fun ch => { ch with filt := { ch.filt with supp := max ch.filt.supp n, settlePend := true } })
  let s := releaseShare c (legalTakes w.req.obj s)
  finish 0x0503 w.req stOK
    (le16 (s.ch c).filt.seq.toNat ++ le16 (satN n 16) ++ le64 (s.stamp (bankOf c))) 0 (needTime c s)

def swapBoundary (c : Ch) (s : State) : State :=
  match (s.ch c).filt.swap with
  | some w => if s.samples c && s.swapDue c w then swapNow c w s else s
  | none => s

def execSwapBoundary (c : Ch) (s : State) : Host.Outcome State Fault Refusal := .next (swapBoundary c s)

/-- A command that waited for the plan's instant (R72, Table 11 of 03_bridge_measurement): a CH.MEAS applies its word, and
when it disturbs or its rate changed ends with the ramp, and a change between DC and carrier changes the output rate (R108); a CH.MODE completes. -/
def planWaiter (w : PlanWait) (rateChanged : Ch → Bool) (s : State) : State :=
  match chOf w.req.obj with
  | none => finish w.op w.req stOK [] 0 s
  | some c =>
    if w.op = 0x0203 then
      let word := word32 w.req.payload 0
      let dist := measDisturbs (s.ch c).mode (s.ch c).brg.meas word || rateChanged c
      let turned := ((s.ch c).withMeas word).carrierMode != (s.ch c).carrierMode
      let s := legalTakes w.req.obj (s.setCh c (Chan.withMeas word))
      let s := if turned then needTime c s else s
      if dist then finish w.op w.req stOK [] 5000 (disturbAt c (s.sys.now + 5000) s)
      else finish w.op w.req stOK [] 0 s
    else finish w.op w.req stOK [] (w.notBefore - s.sys.now) s

/-- The plan takes effect (R72, R73): its channels take their rates, those whose rate changed are disturbed, and a moved
change that waits for a reversal instant is due now (Table 12 of 03_bridge_measurement). -/
def planNow (b : Bank) (p : PlanPend) (s : State) : State :=
  let old := fun (c : Ch) => (s.ch c).brg.rate
  let new := fun (c : Ch) => p.rates.getD (posOf c).val none
  let changed := (bankChs b).any (fun c => old c != new c)
  let s := s.setHolm b (fun h => { h with
    pend := none
    planSeq := if changed then h.planSeq + 1 else h.planSeq
    teff := if changed then p.due else h.teff })
  let s := overAll (bankChs b) (fun c s => s.setCh c (fun ch => { ch with
    brg := { ch.brg with rate := new c }
    moved := ch.moved.map (fun m => { m with due := min m.due s.sys.now }) })) s
  let s := if changed then notifyHolm b 4 1 0xFF (s.holm b).planSeq.toNat none s else s
  let rc := fun (c : Ch) => old c != new c && (new c).isSome
  let s := overAll p.waiters (fun w s => planWaiter w rc s) s
  overAll ((bankChs b).filter rc) (fun c s => needTime c (disturb c s)) s

def planEffect (b : Bank) (s : State) : State :=
  match (s.holm b).pend with
  | some p => if (s.holm b).up && decide (p.due ≤ s.sys.now) then planNow b p s else s
  | none => s

def execPlanEffect (b : Bank) (s : State) : Host.Outcome State Fault Refusal := .next (planEffect b s)

/-- A moved CH.MODE at its instant (R213): a level from 1 to 4 that has come to govern ends it with E_STATE; the lock that the
level-1 row of Table 5 of 02_channel_modes accepted it under is no such level (log entry 120), and neither is an action that fired while
it waited, over which the mode change takes precedence (R126, Table 7 of 02_channel_modes). -/
def movedMode (c : Ch) (md : Mode) (wiring : Byte) (underLock : Bool) (m : ClampMeas) (op : BitVec 16) (r : Req) (s : State) : State :=
  let g := (s.govern c).1
  let s := s.setCh c (fun ch => { ch with moved := none })
  if 1 ≤ g && decide (g ≤ 4) && !(underLock && g == 1) then finish op r stE_STATE [] 0 (releaseShare c s)
  else modeRun c md wiring m op r s

/-- A change moved by edge scheduling is evaluated again and applied at its instant (R213). -/
def movedChange (c : Ch) (m : ClampMeas) (s : State) : State :=
  match (s.ch c).moved with
  | some v =>
    if decide (v.due ≤ s.sys.now) && s.holmLive (bankOf c) then
      match v.kind with
      | .demand d alarm => levelRun c d alarm m v.op v.req (s.setCh c (fun ch => { ch with moved := none }))
      | .mode md wiring lk => movedMode c md wiring lk m v.op v.req s
    else s
  | none => s

def execMovedChange (c : Ch) (m : ClampMeas) (s : State) : Host.Outcome State Fault Refusal := .next (movedChange c m s)

/-- A datapath reload ends (R102): its channels' histories are empty and they are disturbed with the full T. -/
def datapathReload (b : Bank) (s : State) : State :=
  if (s.holm b).reloadDp && (s.holm b).up && !s.sys.failedEngines.any (·.engine == .datapath b) then
    let s := s.setHolm b (fun h => { h with reloadDp := false })
    overAll ((bankChs b).filter (fun c => (s.ch c).mode.usesFilter)) (fun c s =>
      disturb c (s.setCh c (fun ch => { ch with filt := ch.filt.clearFrom 0 }))) s
  else s

def execDatapathReload (b : Bank) (s : State) : Host.Outcome State Fault Refusal := .next (datapathReload b s)

end Sys2Proof.Machine
end

