-- ==== Sys2Proof/Machine/BridgeEv.lean ====
section
/-! DEFINITION. Bridge and resistance diagnostics (R77 to R81, R467), the excitation short (R79) and the excitation supply
(R61). -/

namespace Sys2Proof.Machine

/-- The channel measures a bridge or a resistance, in a Holm that is live. -/
def State.bridgeUp (s : State) (c : Ch) : Bool :=
  ((s.ch c).mode == .brg || (s.ch c).mode == .res) && s.holmLive (bankOf c) && (s.holm (bankOf c)).up

/-- Device time of the latest reversal instant of a rate (R63). -/
def lastReversal (h : Holm) (r : Fin 5) (t : Nat) : Nat :=
  let k := gridNext h (t + 1) (nOf r) - nOf r
  let p := gridPeriod h
  if k < h.gridN then (h.grid0 - ((h.gridN - k) * p.1 / p.2 : Nat)).toNat else gridAt h k

/-- How much of the last `ticks` lies outside a blanking time: in carrier excitation what follows the end of the latest BLANK
(R64, R81). -/
def State.unblanked (s : State) (c : Ch) (ticks : Nat) : Nat :=
  let ch := s.ch c
  if ch.carrierMode then
    s.sys.now - max (s.sys.now - ticks)
      (lastReversal (s.holm (bankOf c)) ch.rateNow s.sys.now + 100 * fld ch.brg.meas 23 16)
  else ticks

/-- V_sen has changed by more than 2 % from one raw result to the next (R81). -/
def stepsBy2 (last v : Int) : Bool := decide (last.natAbs < 50 * (v - last).natAbs)

/-- What an input shows, as the channel notes it, and whether it is a disturbed input event: a lasting condition begins or ends, or
V_sen steps (R81; log entry 139). -/
def State.disturbance (s : State) (c : Ch) : Disturb → Brg × Bool
  | .modLimit sig sen =>
    let b := (s.ch c).brg
    ({ b with modLim := sig || sen }, b.modLim != (sig || sen))
  | .driverLimit ua ticks =>
    let b := (s.ch c).brg
    let lim := decide (75000 ≤ ua) && (b.drvLim || decide (200 ≤ s.unblanked c ticks))
    ({ b with drvLim := lim }, b.drvLim != lim)
  | .senseStep v =>
    let b := (s.ch c).brg
    ({ b with vsen := some v }, match b.vsen with | some last => stepsBy2 last v | none => false)

/-- A disturbed input event begins or ends (R81). -/
def disturbedInput (c : Ch) (d : Disturb) (s : State) : State :=
  if !s.bridgeUp c then s
  else
    let r := s.disturbance c d
    let s := s.setCh c (fun ch => { ch with brg := r.1 })
    if r.2 then disturb c s else s

def execDisturbedInputEvent (c : Ch) (d : Disturb) (s : State) : Host.Outcome State Fault Refusal :=
  .next (disturbedInput c d s)

/-- The payload of R467. -/
def diagPayload (s : State) (c : Ch) (kind : Byte) (value : Nat) : List Byte :=
  [kind, 0] ++ le16 (satN value 16) ++ le48 (s.stamp (bankOf c) % 2 ^ 48)

/-- A bridge event with its Den record: WARN, for a legal channel FAULT (R78). -/
def diagEvent (c : Ch) (src : Nat) (kind : Byte) (value : Nat) (s : State) : State :=
  notifyCh c src (diagPayload s c kind value) (some (if s.isLegal c then 4 else 3)) s

/-- Table 9 gives this diagnostic to this mode and wiring. -/
def Chan.hasDiag (ch : Chan) : BrgDiag → Bool
  | .sense => ch.sensed
  | .signal => ch.mode == .brg
  | .impedance => ch.mode == .brg
  | .leakage => ch.mode == .brg || ch.mode == .res

/-- The enable bit of a diagnostic (Table 10 of 03_bridge_measurement). -/
def Brg.enabled (b : Brg) : BrgDiag → Bool
  | .sense => bit b.diag 40
  | .signal => bit b.diag 41
  | .impedance => bit b.diag 42
  | .leakage => bit b.diag 43

/-- A report is raised or cleared. -/
def Brg.setRep (b : Brg) (d : BrgDiag) (v : Bool) : Brg :=
  match d with
  | .sense => { b with senseRep := v }
  | .signal => { b with signalRep := v }
  | .impedance => { b with impRep := v }
  | .leakage => { b with leakRep := v }

def Brg.rep (b : Brg) : BrgDiag → Bool
  | .sense => b.senseRep
  | .signal => b.signalRep
  | .impedance => b.impRep
  | .leakage => b.leakRep

/-- The watched condition that a report needs, and the one that its clearance needs (R78). -/
def diagBad : BrgDiag → Watch
  | .sense => .senseBad
  | .signal => .signalBad
  | .impedance => .impBad
  | .leakage => .leakBad

def diagSound : BrgDiag → Watch
  | .sense => .senseOk
  | .signal => .signalOk
  | .impedance => .impOk
  | .leakage => .leakOk

/-- Event source, KIND of a report and VALUE (R467); a clearance has the next KIND. -/
def diagCode (b : Brg) : BrgDiag → Nat × Nat × Nat
  | .sense => (3, 1, 0)
  | .signal => (3, 3, 0)
  | .impedance => (3, 5, b.z.getD 0)
  | .leakage => (4, 3, b.leak)

/-- The condition has persisted for 20 ms: it is reported when its bit is set (R77, R78). -/
def diagReport (c : Ch) (d : BrgDiag) (s : State) : State :=
  if s.bridgeUp c && (s.ch c).hasDiag d && (s.ch c).brg.enabled d && !(s.ch c).brg.rep d && s.heldFor c (diagBad d) 200000 then
    let k := diagCode (s.ch c).brg d
    diagEvent c k.1 (BitVec.ofNat 8 k.2.1) k.2.2
      ((assertFault s).setCh c (fun ch => { ch with brg := ch.brg.setRep d true }))
  else s

def execDiagnosticReport (c : Ch) (d : BrgDiag) (s : State) : Host.Outcome State Fault Refusal := .next (diagReport c d s)

/-- The condition has been absent for 200 ms: its report is cleared (R78). -/
def diagClearance (c : Ch) (d : BrgDiag) (s : State) : State :=
  if s.bridgeUp c && (s.ch c).hasDiag d && (s.ch c).brg.rep d && s.heldFor c (diagSound d) 2000000 then
    let k := diagCode (s.ch c).brg d
    diagEvent c k.1 (BitVec.ofNat 8 (k.2.1 + 1)) k.2.2
      (s.setCh c (fun ch => { ch with brg := ch.brg.setRep d false }))
  else s

def execDiagnosticClearance (c : Ch) (d : BrgDiag) (s : State) : Host.Outcome State Fault Refusal :=
  .next (diagClearance c d s)

/-- An excitation short turns the excitation off and latches it, and disturbs the channel (R79, R81); the condition stands until the
latch is cleared (R77, log entry 29). It has stood for 200 µs, longer than the transient of a reversal. -/
def excitationShort (c : Ch) (s : State) : State :=
  if s.bridgeUp c && s.shorted c && s.heldFor c .excShort 2000 then
    let s := (assertFault s).setCh c (fun ch => { ch with
      brg := { ch.brg with latch := true, exOn := false, shortNow := true, iexc := 0 } })
    diagEvent c 4 1 0 (disturb c s)
  else s

def execExcitationShort (c : Ch) (s : State) : Host.Outcome State Fault Refusal := .next (excitationShort c s)

/-- The highest |V_exc| + 1.0 V that excited bridges of a bank need, in mV (R61). -/
def State.vxNeed (s : State) (b : Bank) : Nat :=
  ((bankChs b).map (fun c => if (s.ch c).mode == .brg && (s.ch c).brg.exOn then vexcMv (s.ch c).brg.meas + 1000 else 0)).foldl
    max 0

/-- VX falls below what an excited channel needs, or regulates again (R61, R452). -/
def excitationSupply (b : Bank) (vx : Int) (s : State) : State :=
  let h := s.holm b
  let low := decide (vx < s.vxNeed b)
  if !h.up then s
  else
    let t := s.setHolm b (fun h => { h with vx := vx, vxLow := low })
    if low == h.vxLow then t else notifyHolm b 3 (if low then 1 else 2) 0xFF (vf10 vx) none t

def execExcitationSupply (b : Bank) (vx : Int) (s : State) : Host.Outcome State Fault Refusal :=
  .next (excitationSupply b vx s)

end Sys2Proof.Machine
end

