-- ==== Sys2Proof/Machine/ChCmds.lean ====
section
/-! DEFINITION. The CH family: modes (R49, R339), information, measurement and diagnostic words (R465), the plan, streams
(R112), pairs (R56, R58), inputs and counters (R165, R174), HOLD_T (R257), safety words (R258) and Burrow maps (R264). -/

namespace Sys2Proof.Machine

/-- The wiring option byte is allowed in a mode (Table 4 of 02_channel_modes). -/
def wiringOk (m : Mode) (w : Byte) : Bool :=
  (!bit w 6 || m.isLoop) && (!bit w 5 || m.isDigital) && (!bit w 0 || m == .brg || m == .res)

/-- A CH.MODE that passed the checks of R49 (Table 5 of 02_channel_modes). -/
def modeDecide (r : Req) (mm : ClampMeas) (c : Ch) (m : Mode) (wiring : Byte) (s : State) : Res :=
  if m = (s.ch c).mode && wiring = (s.ch c).wiring then ok (evaluate s)
  else if !modeAllowed s c m then .done s stE_STATE [] 0
  else if modeFits s c m wiring then .held (submit 0x0201 r (.mode c m wiring) mm s)
  else .done s stE_RANGE [] 0

def chMode (r : Req) (mm : ClampMeas) (c : Ch) (s : State) : Res :=
  let d := r.payload
  let w := byteAt d 1
  checked [(s.legalOk r.port c, stE_LEGAL),
      (d.length == 4 && zeroBytes d 2 2 && rsvZero w 0x9E, stE_FORMAT),
      ((modeOf (byteAt d 0).toNat).isSome, stE_RANGE),
      ((match modeOf (byteAt d 0).toNat with | some m => wiringOk m w | none => false), stE_MODE),
      (!s.oddMember c, stE_STATE)] s
    (match modeOf (byteAt d 0).toNat with
     | some m => modeDecide r mm c m w s
     | none => .done s stE_RANGE [] 0)

def execChMode (r : Req) (m : ClampMeas) (s : State) : Host.Outcome State Fault Refusal :=
  .next (runCh 0x0201 r s (chMode r m))

def execChInfo (r : Req) (s : State) : Host.Outcome State Fault Refusal :=
  .next (runCh 0x0202 r s (fun c s =>
    checked [(r.payload.length == 0, stE_FORMAT)] s (okData (infoData s c) s)))

/-- Reserved bits of the measurement word (Table 3 of 03_bridge_measurement, R76). -/
def measReserved (m : Mode) : BitVec 32 := if m = .res then 0xFFFFFFFC#32 else 0xFF00C800#32

/-- Field ranges of the measurement word (Table 3 of 03_bridge_measurement, R67, R76). -/
def measRange (m : Mode) (w : BitVec 32) : Bool :=
  if m = .res then fld w 1 0 ≠ 3
  else
    (2 ≤ fld w 23 16 && fld w 23 16 ≤ 0x64) && decide (fld w 4 2 ≤ 4) && bit w (5 + fld w 4 2) && (!bit w 10 || bit w 1)

/-- VX allows the excitation that a word asks for (R61); with VX at the bank ground nothing can be excited (R423). -/
def vxAllows (s : State) (c : Ch) (w : BitVec 32) : Bool :=
  decide (0 < (s.holm (bankOf c)).vx) &&
    ((s.ch c).mode != .brg || decide ((vexcMv w : Int) + 1000 ≤ (s.holm (bankOf c)).vx))

/-- The plan after the command is feasible (R70, check 7 of R465). -/
def planOk (s : State) (c : Ch) (w : BitVec 32) : Bool :=
  let after := (s.ch c).withMeas w
  !(after.carrierMode || (s.ch c).carrierMode) || (s.newPlan (bankOf c) (posOf c) after).isSome

/-- The word raises the excitation (R83): a higher voltage in BRG, a higher current in RES (Table 8 of
03_bridge_measurement). -/
def measRaises (m : Mode) (old new : BitVec 32) : Bool :=
  if m = .res then decide (fld new 1 0 < fld old 1 0) else decide (vexcMv old < vexcMv new)

def chMeas (r : Req) (c : Ch) (s : State) : Res :=
  let ch := s.ch c
  let w := word32 r.payload 0
  checked [(s.legalOk r.port c, stE_LEGAL), (ch.mode == .brg || ch.mode == .res, stE_MODE),
      (r.payload.length == 4 && rsvZero w (measReserved ch.mode), stE_FORMAT), (measRange ch.mode w, stE_RANGE),
      (vxAllows s c w, stE_RANGE), (planOk s c w && s.chainFits c (ch.withMeas w), stE_RANGE)] s
    (if (measRaises ch.mode ch.brg.meas w || !ch.brg.exOn) && !ch.brg.latch then
      .held (submit 0x0203 r (.excite c w none) (ClampMeas.mk []) s)
     else .held (measApply c w 0x0203 r (evaluate s)))

def execChMeas (r : Req) (s : State) : Host.Outcome State Fault Refusal := .next (runCh 0x0203 r s (chMeas r))

/-- The payload of R467. -/
def brgPayload (s : State) (c : Ch) (kind : Byte) (value : Nat) : List Byte :=
  [kind, 0] ++ le16 (satN value 16) ++ le48 (s.stamp (bankOf c) % 2 ^ 48)

/-- Severity of a bridge diagnostic's record: WARN, for a legal channel FAULT (R78). -/
def brgSev (s : State) (c : Ch) : Nat := if s.isLegal c then 4 else 3

/-- A new diagnostic word; a report whose enable bit is now 0 no longer stands (R77). -/
def setDiag (c : Ch) (w : BitVec 64) (s : State) : State :=
  s.setCh c (fun ch => { ch with brg := { ch.brg with
    diag := w &&& ~~~(0x0000100000000000#64)
    senseRep := ch.brg.senseRep && bit w 40
    signalRep := ch.brg.signalRep && bit w 41
    impRep := ch.brg.impRep && bit w 42
    leakRep := ch.brg.leakRep && bit w 43 } })

/-- CLRX clears the excitation short latch: source 4 kind 0x02, and a disturbed input event (R79, R81, R467). -/
def clearShort (c : Ch) (s : State) : State :=
  let s := s.setCh c (fun ch => { ch with brg := { ch.brg with latch := false, shortNow := false } })
  disturb c (notifyCh c 4 (brgPayload s c 2 0) (some (brgSev s c)) s)

def chDiag (r : Req) (c : Ch) (s : State) : Res :=
  let ch := s.ch c
  let w := word64 r.payload 0
  checked [(s.legalOk r.port c, stE_LEGAL), (ch.mode == .brg || ch.mode == .res, stE_MODE),
      (r.payload.length == 8 && rsvZero w 0xFFFFE00000000000#64, stE_FORMAT),
      (2 ≤ fld w 39 32 && fld w 39 32 ≤ 0x64 && decide (fld w 15 0 ≤ fld w 31 16), stE_RANGE)] s
    (legalChange 0x0204 r (s.isLegal c) (setDiag c w) (fun s =>
      if bit w 44 && ch.brg.latch then
        .held (submit 0x0204 r (.excite c ch.brg.meas (some w)) (ClampMeas.mk []) (clearShort c s))
      else ok (if bit w 44 then evaluate s else s)) s)

def execChDiag (r : Req) (s : State) : Host.Outcome State Fault Refusal := .next (runCh 0x0204 r s (chDiag r))

def execChPlan (r : Req) (s : State) : Host.Outcome State Fault Refusal :=
  .next (runHolm 0x0205 r s (fun b s =>
    checked [(r.payload.length == 0, stE_FORMAT)] s (okData (planData s b) s)))

/-- CH.STREAM: the subscription byte of the sending port (R112). A new per-64 subscription starts with a time record (DESIGN CHOICE,
log entry 116: R108 does not list that case). -/
def chStream (r : Req) (c : Ch) (s : State) : Res :=
  let d := r.payload
  let w := byteAt d 0
  checked [(d.length == 4 && rsvZero w 0x0F && zeroBytes d 1 3, stE_FORMAT), (fld w 5 4 ≠ 3, stE_RANGE)] s
    (ok (s.setPort r.port (fun q => { q with
      subs := q.subs.set c.val { q.subs[c] with
        byte := w
        needTime := true
        tstepS := q.subs[c].tstepS && bit w 7
        tstepT := q.subs[c].tstepT && bit w 7 } c.isLt })))

def execChStream (r : Req) (s : State) : Host.Outcome State Fault Refusal := .next (runCh 0x0206 r s (chStream r))

/-- A comparator with an action targets a channel (R128). -/
def State.targeted (s : State) (c : Ch) : Bool :=
  s.chans.toList.any (fun ch => ch.thr.toList.any (fun t => fld t.ctrl 19 18 != 0 && fld t.ctrl 15 12 == c.val))

/-- The conditions of R56 on a new pair. A change of the odd member that still waits, for its reversal instant or for the end of its
mode change, makes it fail too (DESIGN CHOICE, log entry 114: R56 does not name that case). -/
def pairOk (s : State) (e o : Ch) : Bool :=
  let a := s.ch e
  let b := s.ch o
  b.owner == a.owner && a.mode.isSwitch && a.mode == b.mode && a.wiring == b.wiring &&
    (s.govern e).1 == 5 && (s.govern o).1 == 5 && normDemand a.mode a.l5 == .off && normDemand b.mode b.l5 == .off &&
    !a.locks.any && !b.locks.any && !b.paired && !s.targeted o && b.moved.isNone &&
    b.changing.isNone

/-- The pair is declared (R57, R208): the odd member keeps its settings in store and takes the leader's; the one wire model starts
from the hotter conductor and the larger fuse fraction of the two (DESIGN CHOICE, log entry 137). -/
def pairNow (e o : Ch) (s : State) : State :=
  let l := (s.ch e).sw
  let s := s.setCh e (fun ch => { ch with
    paired := true
    sw := { ch.sw with
      theta := max ch.sw.theta (s.ch o).sw.theta
      fuseF := max ch.sw.fuseF (s.ch o).sw.fuseF } })
  let s := s.setCh o (fun ch => { ch with
    paired := true
    stored := some (SwSettings.mk ch.sw.prot ch.sw.wire ch.sw.fuse ch.sw.diag ch.sw.pgen)
    sw := { ch.sw with
      prot := l.prot
      wire := l.wire
      fuse := l.fuse
      diag := l.diag
      pgen := l.pgen
      prun := l.prun
      tb := l.tb
      tbNext := l.tbNext
      lastOn := l.lastOn
      edgeFrom := l.edgeFrom
      olLow := 0
      olHigh := 0
      extDrive := false } })
  evalOut e (tbSettle (bankOf e) s)

def chPair (r : Req) (c : Ch) (s : State) : Res :=
  checked [(r.payload.length == 0, stE_FORMAT)] s
    (if (s.ch c).paired then ok s
     else if pairOk s c (partnerOf c) then ok (pairNow c (partnerOf c) s)
     else .done s stE_STATE [] 0)

def execChPair (r : Req) (s : State) : Host.Outcome State Fault Refusal := .next (runCh 0x0207 r s (chPair r))

/-- The pair is dissolved with both outputs off at level 5 (R58). -/
def unpairNow (c : Ch) (s : State) : State :=
  let o := partnerOf c
  let s := (divide c s).setCh o (fun ch => { ch with l5 := .off, sw := { ch.sw with tb := none } })
  evalOut o (evalOut c (tbSettle (bankOf c) s))

def chUnpair (r : Req) (c : Ch) (s : State) : Res :=
  let ch := s.ch c
  checked [(r.payload.length == 0, stE_FORMAT), (ch.paired, stE_STATE),
      ((s.govern c).1 == 5 && (s.govern (partnerOf c)).1 == 5, stE_STATE),
      (normDemand ch.mode ch.l5 == .off, stE_STATE)] s (ok (unpairNow c s))

def execChUnpair (r : Req) (s : State) : Host.Outcome State Fault Refusal := .next (runCh 0x0208 r s (chUnpair r))

/-- Fields of the input word that Table 2 of 07_digital_inputs does not list for a mode. -/
def inputForeign (m : Mode) : BitVec 32 := if m = .di then 0x03E30000#32 else 0x001C01FF#32

def chInput (r : Req) (c : Ch) (s : State) : Res :=
  let ch := s.ch c
  let w := word32 r.payload 0
  checked [(s.legalOk r.port c, stE_LEGAL), (ch.mode.isDigital, stE_MODE),
      (r.payload.length == 4 && rsvZero w 0xFC003E00#32, stE_FORMAT),
      (fld w 25 24 ≠ 3 && fld w 23 22 ≠ 3 && fld w 15 14 ≠ 3 && decide (fld w 8 0 ≤ 0x1F4), stE_RANGE),
      (rsvZero w (inputForeign ch.mode), stE_MODE)] s
    (if fld w 15 14 = 2 && fld ch.din.word 15 14 ≠ 2 then .held (submit 0x0209 r (.input c w) (ClampMeas.mk []) s)
     else legalChange 0x0209 r (s.isLegal c) (setInput c w) ok (evaluate s))

def execChInput (r : Req) (s : State) : Host.Outcome State Fault Refusal := .next (runCh 0x0209 r s (chInput r))

/-- A capture entry as CH.COUNT returns it (R174). -/
def capBytes (e : BitVec 32 × Nat) : List Byte := le32 e.1.toNat ++ le48 (e.2 % 2 ^ 48) ++ [0, 0]

/-- CH.COUNT's answer (R174). -/
def countData (s : State) (c : Ch) (take : Bool) : List Byte :=
  let d := (s.ch c).din
  let caps := if take then d.caps else []
  le32 d.count.toNat ++ le48 (s.stamp (bankOf c) % 2 ^ 48) ++
    [bitsByte [d.ovf, d.gateOpen], BitVec.ofNat 8 caps.length] ++ caps.flatMap capBytes

/-- CLEAR, PRESET and TAKE (R174). -/
def countChange (c : Ch) (fl : Byte) (v : BitVec 32) (s : State) : State :=
  s.setCh c (fun ch => { ch with din := { ch.din with
    count := if bit fl 0 then 0 else if bit fl 1 then v else ch.din.count
    ovf := ch.din.ovf && !bit fl 0 && !bit fl 1
    caps := if bit fl 2 then [] else ch.din.caps
    capLost := if bit fl 2 then 0 else ch.din.capLost } })

def chCount (r : Req) (c : Ch) (s : State) : Res :=
  let fl := byteAt r.payload 0
  let v := word32 r.payload 1
  checked [((s.ch c).mode == .cnt, stE_MODE), (r.payload.length == 5 && rsvZero fl 0xF8, stE_FORMAT),
      (!(bit fl 0 && bit fl 1) && (v == 0 || bit fl 1), stE_RANGE)] s
    (okData (countData s c (bit fl 2)) (countChange c fl v s))

def execChCount (r : Req) (s : State) : Host.Outcome State Fault Refusal := .next (runCh 0x020A r s (chCount r))

/-- CH.FIELD: HOLD_T (R257). -/
def chField (r : Req) (b : Bank) (s : State) : Res :=
  let t := leAt r.payload 0 2
  checked [(r.payload.length == 4 && zeroBytes r.payload 2 2, stE_FORMAT), (t ≤ 0xEA60 || t == 0xFFFF, stE_RANGE)] s
    (.held (submit 0x020B r (.mramField b) (ClampMeas.mk []) s))

def execChField (r : Req) (s : State) : Host.Outcome State Fault Refusal := .next (runHolm 0x020B r s (chField r))

/-- SCUR within its range (R258). -/
def scurOk (m : Mode) (w : BitVec 64) : Bool :=
  let i := fld w 63 32
  if fld w 2 0 = 3 then decide (i ≤ 24000000) && (m != .aot || decide (3500000 ≤ i)) else i == 0

/-- The SAFE code is allowed in a mode (Table 4 of 10_supplies_and_safe_states). -/
def safeAllowed (m : Mode) (code : Nat) : Bool :=
  if code = 1 then m.isSwitch else if code = 3 then m.isLoopOut else true

def chSafe (r : Req) (c : Ch) (s : State) : Res :=
  let ch := s.ch c
  let w := word64 r.payload 0
  checked [(s.legalPortOk r.port c, stE_LEGAL), (ch.mode.isOutput, stE_MODE), (!s.oddMember c, stE_STATE),
      (r.payload.length == 8 && rsvZero w 0x00000000FFFFFFC8#64, stE_FORMAT),
      (decide (fld w 2 0 ≤ 4) && scurOk ch.mode w, stE_RANGE), (safeAllowed ch.mode (fld w 2 0), stE_MODE)] s
    (ok (evalOut c (s.setCh c (fun ch => { ch with safety := w }))))

def execChSafe (r : Req) (s : State) : Host.Outcome State Fault Refusal := .next (runCh 0x020C r s (chSafe r))

/-- The bytes of a map entry. -/
def BurEntry.bytes (e : BurEntry) : List Byte := [e.bflags, 0, 0, 0] ++ le32 e.iact.toNat ++ le32 e.iinact.toNat

/-- The checks of Table 7 of 10_supplies_and_safe_states after the first. An entry with MAP = 0 that is not all zeros fails with
E_FORMAT (DESIGN CHOICE, log entry 115: R264 gives it no status). -/
def bmapChecks (r : Req) (b : Bank) (s : State) : List (Bool × Byte) :=
  let d := r.payload
  let pos := maskPositions (byteAt d 0)
  let es := (List.zip pos (List.range pos.length)).map (fun e => (chAt b e.1, mapEntry d e.2, e.2))
  [(es.all (fun e => s.owns r.port (chObj e.1)), stE_OWNER),
   (es.all (fun e => s.legalPortOk r.port e.1), stE_LEGAL),
   (d.length == 1 + 12 * pos.length && es.all (fun e => zeroBytes d (2 + 12 * e.2.2) 3 && fld e.2.1.bflags 1 0 == 0 &&
      fld e.2.1.bflags 3 2 != 3 && (bit e.2.1.bflags 7 || e.2.1 == BurEntry.empty)), stE_FORMAT),
   (es.all (fun e => e.2.1.iact.toNat ≤ 24000000 && e.2.1.iinact.toNat ≤ 24000000), stE_RANGE),
   (!(s.holm b).burEn, stE_STATE),
   (es.all (fun e => !bit e.2.1.bflags 7 || ((s.ch e.1).mode.isOutput && !s.oddMember e.1)), stE_STATE)]

def chBmap (r : Req) (b : Bank) (s : State) : Res :=
  if byteAt r.payload 0 = 0 then
    checked [(r.payload.length == 1, stE_FORMAT)] s
      (okData ((List.finRange 8).flatMap (fun k => (s.ch (chAt b k)).bmap.bytes)) s)
  else checked (bmapChecks r b s) s (.held (submit 0x020D r (.mramMap b) (ClampMeas.mk []) s))

def execChBmap (r : Req) (s : State) : Host.Outcome State Fault Refusal := .next (runHolm 0x020D r s (chBmap r))

end Sys2Proof.Machine
end

