-- ==== Sys2Proof/Machine/CrcCmds.lean ====
section
/-! DEFINITION. The check-value units (chapter 13): CRC.CFG (R343), CRC.RUN (R345 to R349), CRC.SAVE and CRC.LOAD (R351, R352)
and CRC.READ (R353). -/

namespace Sys2Proof.Machine

/-- An algorithm (Table 1 of 13_check_value_units). -/
structure CrcAlg where
  width : Nat
  poly : Nat
  init : Nat
  refl : Bool
  reflOut : Bool
  xorout : Nat

/-- The algorithm of a configuration (R342, R343). -/
def CrcCtx.alg (x : CrcCtx) : CrcAlg :=
  match fld x.cfg 27 24 with
  | 1 => ⟨32, 0x1EDC6F41, 0xFFFFFFFF, true, true, 0xFFFFFFFF⟩
  | 2 => ⟨32, 0x04C11DB7, 0xFFFFFFFF, true, true, 0xFFFFFFFF⟩
  | 3 => ⟨16, 0x1021, 0xFFFF, false, false, 0⟩
  | 4 => ⟨8, 0x2F, 0xFF, false, false, 0⟩
  | _ => ⟨8 * 2 ^ (fld x.cfg 23 22), x.poly.toNat, x.init.toNat, bit x.cfg 21, bit x.cfg 20, x.xorout.toNat⟩

/-- The conditions of R343. -/
def cfgRange (cfg poly init xorout : BitVec 32) : Bool :=
  let p := fld cfg 27 24
  if p = 0 then
    let w := fld cfg 23 22
    w != 3 && bit poly 0 && [poly, init, xorout].all (fun x => decide (x.toNat < 2 ^ (8 * 2 ^ w)))
  else decide (p ≤ 4) && fld cfg 23 20 == 0 && poly == 0 && init == 0 && xorout == 0

def cfgReserved (cfg : BitVec 32) : Bool := rsvZero cfg 0xF00CFFFF#32

/-- A context set to the start of a check. -/
def CrcCtx.fresh (x : CrcCtx) : CrcCtx :=
  { x with
    reg := BitVec.ofNat 32 x.alg.init
    count := 0
    open_ := false }

/-- The context after a CRC.CFG: INIT, count 0, sequence counter 0, no open run (R343). -/
def ctxOf (d : List Byte) : CrcCtx :=
  CrcCtx.fresh (CrcCtx.mk (word32 d 0) (word32 d 4) (word32 d 8) (word32 d 12) 0 0 0 false)

def crcCfg (r : Req) (u : Fin 4) (s : State) : Res :=
  let d := r.payload
  checked [(d.length == 16 && cfgReserved (word32 d 0), stE_FORMAT),
      (cfgRange (word32 d 0) (word32 d 4) (word32 d 8) (word32 d 12), stE_RANGE)] s
    (ok (s.setUnit u (fun x => { x with ctx := ctxOf d })))

def execCrcCfg (r : Req) (s : State) : Host.Outcome State Fault Refusal := .next (runUnit 0x0A01 r s (crcCfg r))

/-- The run header (Table 3 of 13_check_value_units). -/
structure RunHdr where
  kind : Nat
  cont : Bool
  final : Bool
  src : Nat
  foldn : Nat
  offset : Nat
  len : Nat
  expect : Nat

def runHdr (d : List Byte) : RunHdr :=
  let f := byteAt d 0
  ⟨fld f 1 0, bit f 2, bit f 3, leAt d 1 1, leAt d 2 1, leAt d 4 4, leAt d 8 4, leAt d 12 4⟩

/-- Size of a DMA region and its offset in MRAM (R347). -/
def regionOf (src : Nat) : Nat × Nat :=
  match src with
  | 1 => (0x180000, 0)
  | 2 => (0x180000, 0x180000)
  | 3 => (0x80000, 0x300000)
  | _ => (0x40000, 0x380000)

/-- The field values of Table 3 of 13_check_value_units. -/
def RunHdr.range (h : RunHdr) (width : Nat) : Bool :=
  h.kind != 3 && (h.kind == 0 || h.final) && decide (h.src ≤ 4) && decide (h.foldn ≤ 16) && (!h.cont || h.foldn == 0) &&
    decide (1 ≤ h.len) &&
    (if h.src = 0 then decide (h.len + h.foldn ≤ 8156) else decide (h.offset + h.len ≤ (regionOf h.src).1)) &&
    (h.kind != 2 || decide (width / 8 + 1 ≤ h.len)) && (h.kind == 1 || h.expect == 0)

/-- What the configuration and trim region holds (Table 2 of 01_architecture; log entry 14): the budgets, HOLD_T, the Burrow maps, the
loop trims, the saved index and HWM, the boot record with its journal, the failed-start record, and the update session with its chunk map (R400). -/
def configNums (s : State) : List Nat :=
  let boot (b : BootRec) : List Nat := [b.seq, b.active.val, b2n b.trial, b.twin, b.tboot, b.flipRtc, b.starts]
  let b := s.badger
  b.ifmax.toList ++ b.ixmax.toList ++ [b.pceil, b.dtguard, b.eres, b.tambx, s.den.hwm, s.den.head, s.den.legUsed, s.den.ringClear] ++
    s.holms.toList.map (fun h => h.holdT.toNat) ++
    s.chans.toList.flatMap (fun ch => [ch.bmap.bflags.toNat, ch.bmap.iact.toNat, ch.bmap.iinact.toNat] ++ trimNums ch.loop.trim) ++
    s.upd.copies.toList.flatMap (fun c => boot c.1) ++ (match s.upd.journal with | some j => boot j.1 | none => []) ++
    s.upd.fails.flatMap (fun f => [f.1, f.2.1.toNat, f.2.2.toNat]) ++ s.upd.sessionLen :: s.upd.chunks

/-- The data bytes of a run: payload or MRAM as it stands; the configuration region has no stated layout, so its bytes are
free values, the same while the region holds the same (log entry 14). -/
def runData (s : State) (h : RunHdr) (d : List Byte) : List Byte :=
  if h.src = 0 then d.drop (16 + h.foldn)
  else if h.src = 4 then (List.range h.len).map (fun i => Config.configRegionByte (configNums s) (h.offset + i))
  else mramBytes s.mram ((regionOf h.src).2 + h.offset) h.len

/-- Fold-in bytes of a run (R345). -/
def foldBytes (x : CrcCtx) (h : RunHdr) (d : List Byte) : List Byte :=
  if h.cont then []
  else (d.drop 16).take h.foldn ++ (if bit x.cfg 17 then le32 h.offset else []) ++
    (if bit x.cfg 16 then le16 x.seq.toNat else [])

/-- What a run computes: the register, the bytes counted, the final value, the expected one. -/
structure RunResult where
  reg : Nat
  count : Nat
  value : Nat
  expected : Nat

def runCompute (x : CrcCtx) (h : RunHdr) (fold data : List Byte) : RunResult :=
  let a := x.alg
  let n := if h.kind = 2 then h.len - a.width / 8 else h.len
  let reg0 := if h.cont then x.reg.toNat else a.init
  let reg := crcFeed a.width a.poly a.refl (crcFeed a.width a.poly a.refl reg0 fold) (data.take n)
  { reg := reg
    count := (if h.cont then x.count.toNat else 0) + n
    value := if h.final then crcFinal a.width a.reflOut a.xorout reg else reg
    expected := if h.kind = 2 then leAt (data.drop n) 0 (a.width / 8) else h.expect }

/-- RESULT (R348, R349). -/
def RunHdr.result (h : RunHdr) (q : RunResult) : Byte := if h.kind = 0 then 0 else if q.value = q.expected then 1 else 2

/-- The unit after a run (R345, R348): a finished check closes the run. -/
def CrcCtx.afterRun (x : CrcCtx) (h : RunHdr) (q : RunResult) : CrcCtx :=
  if h.final then { x.fresh with seq := x.seq + 1 }
  else
    { x with
      reg := BitVec.ofNat 32 q.reg
      count := BitVec.ofNat 32 q.count
      open_ := true }

/-- A host mismatch: its count and its event EV244 to EV247 (R350). -/
def noteMismatch (u : Fin 4) (r : Req) (q : RunResult) (s : State) : State :=
  raise (244 + u.val) ([BitVec.ofNat 8 u.val, BitVec.ofNat 8 r.port.val] ++ le16 r.tag.toNat ++ le32 q.value ++ le32 q.expected)
    (s.setUnit u (fun x => { x with mism := if x.mism = 0xFFFF then 0xFFFF else x.mism + 1 }))

/-- A run that passed its checks (R345 to R349). -/
def crcRunNow (r : Req) (u : Fin 4) (s : State) : Res :=
  let d := r.payload
  let h := runHdr d
  let x := (s.unit u).ctx
  let q := runCompute x h (foldBytes x h d) (runData s h d)
  let out := le32 q.value ++ [h.result q, 0] ++ le16 (if bit x.cfg 16 && !h.cont then x.seq.toNat else 0) ++
    le32 q.count ++ [0, 0, 0, 0]
  let s := s.setUnit u (fun y => { y with ctx := x.afterRun h q })
  okData out (if h.result q = 2 then noteMismatch u r q s else s)

def crcRun (r : Req) (u : Fin 4) (s : State) : Res :=
  let d := r.payload
  let h := runHdr d
  let x := (s.unit u).ctx
  checked [(16 ≤ d.length && d.length == 16 + h.foldn + (if h.src = 0 then h.len else 0) && rsvZero (byteAt d 0) 0xF0 &&
        zeroBytes d 3 1, stE_FORMAT),
      (h.range x.alg.width, stE_RANGE), (h.cont == x.open_, stE_STATE)] s (crcRunNow r u s)

def execCrcRun (r : Req) (s : State) : Host.Outcome State Fault Refusal := .next (runUnit 0x0A02 r s (crcRun r))

/-- The 32 bytes of a context (Table 4 of 13_check_value_units). -/
def CrcCtx.bytes (x : CrcCtx) : List Byte :=
  let b := le32 x.cfg.toNat ++ le32 x.poly.toNat ++ le32 x.init.toNat ++ le32 x.xorout.toNat ++ le32 x.reg.toNat ++
    le32 x.count.toNat ++ le16 x.seq.toNat ++ [BitVec.ofNat 8 (b2n x.open_), 0]
  b ++ le32 (crc32c b)

/-- A context slot of a payload byte. -/
def ctxSlot (b : Byte) : Fin 4 := ⟨b.toNat % 4, Nat.mod_lt _ (by decide)⟩

def crcSave (r : Req) (u : Fin 4) (s : State) : Res :=
  let b := byteAt r.payload 0
  let x := (s.unit u).ctx
  checked [(r.payload.length == 4 && zeroBytes r.payload 1 3, stE_FORMAT), (b.toNat ≤ 3 || b == 0xFF, stE_RANGE)] s
    (okData x.bytes (if b = 0xFF then s
      else s.setUnit u (fun y => { y with slots := y.slots.set (ctxSlot b).val (some x) (ctxSlot b).isLt })))

def execCrcSave (r : Req) (s : State) : Host.Outcome State Fault Refusal := .next (runUnit 0x0A03 r s (crcSave r))

/-- A supplied context. -/
def ctxParse (d : List Byte) : CrcCtx :=
  CrcCtx.mk (word32 d 0) (word32 d 4) (word32 d 8) (word32 d 12) (word32 d 16) (word32 d 20) (word16 d 24) (byteAt d 26 == 1)

def crcLoad (r : Req) (u : Fin 4) (s : State) : Res :=
  let d := r.payload
  let b := byteAt d 0
  let given := b == 0xFF
  let c := d.drop 4
  let x := ctxParse c
  let saved := (s.unit u).slots[ctxSlot b]
  checked [(d.length == (if given then 36 else 4) && zeroBytes d 1 3 &&
        (!given || (leAt c 28 4 == crc32c (c.take 28) && cfgReserved x.cfg && zeroBytes c 27 1)), stE_FORMAT),
      (b.toNat ≤ 3 || (given && cfgRange x.cfg x.poly x.init x.xorout && leAt c 26 1 ≤ 1), stE_RANGE),
      (given || saved.isSome, stE_STATE)] s
    (ok (s.setUnit u (fun y => { y with ctx := if given then x else saved.getD y.ctx })))

def execCrcLoad (r : Req) (s : State) : Host.Outcome State Fault Refusal := .next (runUnit 0x0A04 r s (crcLoad r))

/-- The units in which the device's own jobs run that last longer than a step, the reloads of engines and sequencers (R354, Table 5
of 13_check_value_units): each takes the lowest unit that no port holds and no other job occupies, and CRC3 when ports hold all
four; a unit bound in append-and-strip mode serves its port. The host's run in CRC3 is not changed. -/
def State.jobUnits (s : State) : List (Fin 4) :=
  let n := s.sys.failedEngines.length + (s.chans.toList.filter (·.reloading)).length
  match [(0 : Fin 4), 1, 2, 3].filter (fun u => (s.unit u).owner == none && !(s.unit u).bound) with
  | [] => if n = 0 then [] else [3]
  | l => l.take n

/-- CRC.READ's 20 bytes (R353). -/
def crcReadData (s : State) (u : Fin 4) : List Byte :=
  let x := s.unit u
  le32 x.ctx.cfg.toNat ++ le32 x.ctx.reg.toNat ++ le32 x.ctx.count.toNat ++ le16 x.ctx.seq.toNat ++
    [BitVec.ofNat 8 (b2n x.ctx.open_), if x.bound then 2 else if s.jobUnits.contains u then 1 else 0] ++ le16 x.mism.toNat ++ [0, 0]

def execCrcRead (r : Req) (s : State) : Host.Outcome State Fault Refusal :=
  .next (runUnit 0x0A05 r s (fun u s =>
    checked [(r.payload.length == 0, stE_FORMAT)] s (okData (crcReadData s u) s)))

end Sys2Proof.Machine
end

