-- ==== Sys2Proof/Machine/Mldsa.lean ====
section
/-! DEFINITION. ML-DSA-87 verification in its pure form with an empty context (R411). FIPS 204, which the spec names and does not
reproduce, defines it (PRESUMED, log entry 17): polynomials are lists of 256 coefficients modulo q. -/

namespace Sys2Proof.Machine

/-- The modulus q. -/
def mlQ : Nat := 8380417

/-- The eight bits of a number in reverse. -/
def rev8 (m : Nat) : Nat := (List.range 8).foldl (fun a k => a + m / 2 ^ k % 2 * 2 ^ (7 - k)) 0

/-- A power of the 512th root of unity. -/
def zetaPow (e : Nat) : Nat := 1753 ^ (e % 512) % mlQ

/-- The value of a polynomial. -/
def polyAt (w : List Nat) (x : Nat) : Nat := w.foldr (fun a acc => (a + x * acc) % mlQ) 0

/-- The number-theoretic transform: the values at the odd powers of the root, in bit-reversed order. -/
def ntt (w : List Nat) : List Nat := (List.range 256).map (fun i => polyAt w (zetaPow (2 * rev8 i + 1)))

/-- Its inverse. -/
def nttInv (w : List Nat) : List Nat :=
  let v := (List.range 256).map (fun m => w.getD (rev8 m) 0)
  (List.range 256).map (fun j => 8347681 * zetaPow (512 - j) % mlQ * polyAt v (zetaPow (1024 - 2 * j)) % mlQ)

/-- Sum and product of transforms, coefficient by coefficient. -/
def polyAdd (a b : List Nat) : List Nat := List.zipWith (fun x y => (x + y) % mlQ) a b
def polySub (a b : List Nat) : List Nat := List.zipWith (fun x y => (x + mlQ - y) % mlQ) a b
def polyMul (a b : List Nat) : List Nat := List.zipWith (fun x y => x * y % mlQ) a b

/-- The n numbers of b bits that bytes hold, least significant bit first. -/
def unpackBits (b n : Nat) (l : List Byte) : List Nat :=
  let v := leAt l 0 l.length
  (List.range n).map (fun i => v / 2 ^ (b * i) % 2 ^ b)

/-- The coefficients below q among the 23-bit numbers of three bytes each. -/
def threeBytes : List Byte → List Nat
  | a :: b :: c :: rest =>
    let z := a.toNat + 256 * b.toNat + 65536 * (c.toNat % 128)
    if z < mlQ then z :: threeBytes rest else threeBytes rest
  | _ => []

/-- The entry (r, k) of the public matrix, as a transform: seven blocks hold 256 such numbers but for a chance below 2^−256. -/
def matrixEntry (rho : List Byte) (r k : Nat) : List Nat :=
  (threeBytes (shake 21 7 (rho ++ [BitVec.ofNat 8 k, BitVec.ofNat 8 r]))).take 256

/-- One swap of the challenge: the first byte that is at most i names the place. -/
def ballStep (i : Nat) (neg : Bool) (c : List Nat) : List Byte → List Nat × List Byte
  | [] => (c, [])
  | j :: rest =>
    if j.toNat ≤ i then ((c.set i (c.getD j.toNat 0)).set j.toNat (if neg then mlQ - 1 else 1), rest)
    else ballStep i neg c rest

/-- The challenge: 60 coefficients 1 or −1. -/
def sampleInBall (seed : List Byte) : List Nat :=
  let x := shake 17 4 seed
  let h := leAt x 0 8
  ((List.range 60).foldl (fun (a : List Nat × List Byte) k => ballStep (196 + k) (h.testBit k) a.1 a.2)
    (List.replicate 256 0, x.drop 8)).1

/-- The positions that one polynomial's hints take, strictly rising. -/
def risingTo (l : List Byte) : Bool :=
  match l with
  | [] => true
  | a :: rest =>
    match rest with
    | [] => true
    | b :: _ => decide (a.toNat < b.toNat) && risingTo rest

/-- The hints of the eight polynomials, each as its positions; none for an encoding that is not canonical. -/
def hintsOf (y : List Byte) : Option (List (List Byte)) :=
  let ends := (y.drop 75).map (·.toNat)
  let runs := (List.range 8).map (fun i =>
    let a := if i = 0 then 0 else ends.getD (i - 1) 0
    (a, ends.getD i 0))
  let parts := runs.map (fun r => (y.take r.2).drop r.1)
  if runs.all (fun r => decide (r.1 ≤ r.2) && decide (r.2 ≤ 75)) && parts.all risingTo &&
      ((y.take 75).drop (ends.getD 7 0)).all (· == 0) then some parts
  else none

/-- The high part of a coefficient under a hint (UseHint with 2γ₂ = 523776 and 16 high values). -/
def useHint (hint : Bool) (r : Nat) : Nat :=
  let high := (r + 261887) / 523776 % 16
  let low := r % 523776
  if !hint then high else if 0 < low ∧ low ≤ 261888 then (high + 1) % 16 else (high + 15) % 16

/-- 256 numbers of four bits as 128 bytes. -/
def packNibbles (l : List Nat) : List Byte := leBytes (l.foldr (fun a acc => a + 16 * acc) 0) 128

/-- The signature's polynomials z, whose coefficients stand for 2^19 less their value. -/
def respOf (sig : List Byte) : List (List Nat) :=
  (List.range 7).map (fun i => unpackBits 20 256 ((sig.drop (64 + 640 * i)).take 640))

/-- Every coefficient of z is smaller in magnitude than γ₁ − β = 2^19 − 120. -/
def respSmall (z : List (List Nat)) : Bool := z.all (fun w => w.all (fun v => decide (120 < v) && decide (v < 1048456)))

/-- The coefficients of z modulo q. -/
def respMod (z : List (List Nat)) : List (List Nat) := z.map (fun w => w.map (fun v => (524288 + mlQ - v) % mlQ))

/-- The polynomials t₁ · 2^13 of a public key. -/
def keyHigh (key : List Byte) : List (List Nat) :=
  (List.range 8).map (fun i => (unpackBits 10 256 ((key.drop (32 + 320 * i)).take 320)).map (· * 8192))

/-- The polynomial that the r-th row of the verification equation gives. -/
def rowOf (key : List Byte) (zh : List (List Nat)) (ch : List Nat) (r : Nat) (t : List Nat) : List Nat :=
  let rho := key.take 32
  let az := (List.range 7).foldl (fun a k => polyAdd a (polyMul (matrixEntry rho r k) (zh.getD k []))) (List.replicate 256 0)
  nttInv (polySub az (polyMul ch (ntt t)))

/-- A signature of 4627 bytes under a public key of 2592 bytes verifies over a message (R411). -/
@[irreducible] def mldsaVerify (key msg sig : List Byte) : Bool :=
  key.length == 2592 && sig.length == 4627 &&
    match hintsOf (sig.drop 4544) with
    | none => false
    | some hs =>
      let z := respOf sig
      let mu := (shake 17 1 ((shake 17 1 key).take 64 ++ [0, 0] ++ msg)).take 64
      let zh := (respMod z).map ntt
      let ch := ntt (sampleInBall (sig.take 64))
      let t := keyHigh key
      let w := (List.range 8).flatMap (fun r =>
        let h := hs.getD r []
        let row := rowOf key zh ch r (t.getD r [])
        packNibbles ((List.range 256).map (fun j => useHint (h.any (fun b => b.toNat == j)) (row.getD j 0))))
      respSmall z && (shake 17 1 (mu ++ w)).take 64 == sig.take 64

end Sys2Proof.Machine
end

