-- ==== Sys2Proof/Machine/DenCmds.lean ====
section
/-! DEFINITION. The DEN family (chapter 14): DEN.SNAP (R375), DEN.READ (R376, R377) and DEN.CLEAR (R378, R379). -/

namespace Sys2Proof.Machine

/-- Ring records that count: those a clear has not passed (R368, R379). -/
def Den.liveRing (d : Den) : List DenRec :=
  (d.ring.filter (fun e => d.ringClear ≤ e.2.seq)).map (·.2)

/-- The lowest SEQ of some records. -/
def lowSeq (l : List DenRec) : Nat :=
  match l with
  | [] => 0
  | h :: t => t.foldl (fun a r => min a r.seq) h.seq

/-- 32 bytes of a fresh nonce, and the state that has drawn it (log entry 10). -/
def State.drawNonce (s : State) : List Byte × State :=
  ((List.range 32).map (Config.nonceByte s.sys.freeCtr), s.setSys (fun y => { y with freeCtr := y.freeCtr + 1 }))

/-- DEN.SNAP's response (Table 6 of 14_den_recorder). -/
def snapData (s : State) (nonce : List Byte) : List Byte :=
  let d := s.den
  le64 d.head ++ le64 (lowSeq d.liveRing) ++ le64 (lowSeq (d.legal.map (·.2))) ++ le32 d.legUsed ++ le32 d.lec.toNat ++
    le32 (satN d.ndropTotal 32) ++ le32 d.boot.toNat ++ d.chain ++ nonce

/-- The snapshot that DEN.SNAP fixes for a port (R375). -/
def snapNow (p : Port) (s : State) : List Byte × State :=
  let s := flush s
  let n := s.drawNonce
  (snapData s n.1, n.2.setDen (fun d => { d with
    snaps := d.snaps.set p.val (some (Snap.mk d.head (d.liveRing.map (·.seq)) d.legWrites (some n.1))) p.isLt }))

def denSnap (r : Req) (s : State) : Res :=
  checked [(r.payload.length == 4 && zeroBytes r.payload 0 4, stE_FORMAT)] s
    (okData (snapNow r.port s).1 (snapNow r.port s).2)

def execDenSnap (r : Req) (s : State) : Host.Outcome State Fault Refusal := .next (runMail 0x0901 r s (denSnap r))

/-- A GAP record over lost numbers (R377, Table 4 of 14_den_recorder). -/
def gapRec (first last : Nat) : DenRec :=
  { typ := 0x0001, sev := 0, legReg := false, ovfl := false, winv := true, seq := first,
    uptime := Config.gapHeader 0 first, wall := Config.gapHeader 1 first,
    boot := BitVec.ofNat 32 (Config.gapHeader 2 first), payload := le64 first ++ le64 last, trailer := none }

/-- One place of a read: a record, or a number whose record has been overwritten. -/
inductive ReadItem where
  | kept (r : DenRec)
  | lost (seq : Nat)

def ReadItem.seq : ReadItem → Nat
  | .kept r => r.seq
  | .lost n => n

/-- Runs of lost numbers become one GAP each; the answers pair a record with the highest SEQ it accounts for. -/
def gapRuns : List ReadItem → Option (Nat × Nat) → List (Nat × DenRec)
  | [], none => []
  | [], some (a, b) => [(b, gapRec a b)]
  | .kept r :: rest, none => (r.seq, r) :: gapRuns rest none
  | .kept r :: rest, some (a, b) => (b, gapRec a b) :: (r.seq, r) :: gapRuns rest none
  | .lost n :: rest, none => gapRuns rest (some (n, n))
  | .lost n :: rest, some (a, _) => gapRuns rest (some (a, n))

/-- The records of a read in SEQ order, from FROM to the snapshot's HEAD (R376, R377); GAP records are returned whatever
MINSEV says (log entry 33). -/
def readList (d : Den) (sn : Snap) (region minsev from_ : Nat) : List (Nat × DenRec) :=
  let ok (n : Nat) : Bool := decide (from_ ≤ n) && decide (n ≤ sn.head)
  let ring := if region = 1 then [] else
    (sn.slots.filter ok).map (fun n => match d.liveRing.find? (fun r => r.seq == n) with
      | some r => ReadItem.kept r
      | none => ReadItem.lost n)
  let legal := if region = 0 then [] else ((d.legal.map (·.2)).filter (fun r => ok r.seq)).map ReadItem.kept
  let all := (ring ++ legal).mergeSort (fun a b => decide (a.seq ≤ b.seq))
  gapRuns (all.filter (fun i => match i with | .kept r => decide (minsev ≤ r.sev) | .lost _ => true)) none

/-- Whole records up to a number of bytes, and what follows. -/
def takeRecs : List (Nat × DenRec) → Nat → List (Nat × DenRec) × List (Nat × DenRec)
  | [], _ => ([], [])
  | e :: rest, n =>
    if e.2.len ≤ n then (e :: (takeRecs rest (n - e.2.len)).1, (takeRecs rest (n - e.2.len)).2) else ([], e :: rest)

/-- DEN.READ's response (R376). -/
def readData (d : Den) (sn : Snap) (region minsev maxb from_ : Nat) : List Byte :=
  let t := takeRecs (readList d sn region minsev from_) maxb
  let next := match t.2 with | [] => sn.head + 1 | e :: _ => e.2.seq
  le64 next ++ [BitVec.ofNat 8 (b2n (!t.2.isEmpty))] ++ List.replicate 7 0 ++ t.1.flatMap (fun e => e.2.bytes)

def denRead (r : Req) (s : State) : Res :=
  let p := r.payload
  let s := flush s
  let sn := s.den.snaps[r.port]
  checked [(p.length == 16 && zeroBytes p 12 4, stE_FORMAT),
      (leAt p 0 1 ≤ 2 && leAt p 1 1 ≤ 5 && 256 ≤ leAt p 2 2 && leAt p 2 2 ≤ 8148, stE_RANGE), (sn.isSome, stE_STATE),
      (match sn with | some x => decide (leAt p 4 8 ≤ x.head) | none => false, stE_RANGE)] s
    (match sn with
     | some x => okData (readData s.den x (leAt p 0 1) (leAt p 1 1) (leAt p 2 2) (leAt p 4 8)) s
     | none => .done s stE_STATE [] 0)

def execDenRead (r : Req) (s : State) : Host.Outcome State Fault Refusal := .next (runMail 0x0902 r s (denRead r))

/-- The checks of Table 7 of 14_den_recorder. -/
def clearChecks (r : Req) (s : State) : List (Bool × Byte) :=
  let p := r.payload
  let legal := byteAt p 0 == 1
  let sn := s.den.snaps[r.port]
  [(p.length == 4735 && zeroBytes p 1 3 && leAt p 0 1 ≤ 1, stE_FORMAT),
   (!legal || (s.sys.order != 2 && s.isLegalPort r.port && !s.legal.sealed), stE_LEGAL),
   (s.sec.ownerKey.isSome && sn.isSome, stE_STATE),
   (match s.sec.ownerKey, sn with
    | some k, some x => (p.drop 4).take 64 == identityDigest && x.nonce == some ((p.drop 68).take 32) &&
        decide (leAt p 100 8 = x.head) && mldsaVerify k (sha3_512 (p.take 108)) (p.drop 108)
    | _, _ => false, stE_AUTH),
   (!legal || (match sn with | some x => x.legalWrites == s.den.legWrites | none => false), stE_STATE)]

/-- Every snapshot ends. -/
def endSnaps (s : State) : State := s.setDen (fun d => { d with snaps := Vector.replicate 3 none })

/-- A clear of the ring up to HEAD (R379). When its CLEAR record does not read back, the clear does not take effect and the command
ends with E_INTERNAL (R365). -/
def clearRing (r : Req) (head : Nat) (s : State) : Res :=
  let gone := s.den.liveRing.filter (fun r => decide (r.seq ≤ head))
  let payload := le64 (lowSeq s.den.liveRing) ++ le64 head ++ le32 gone.length ++ List.replicate 4 0 ++ s.den.chain
  let t := flush (enterRec 0x0003 3 false payload 0 0
    (s.setDen (fun d => { d with ringClear := max d.ringClear (head + 1) })))
  if t.den.liveRing.any (fun r => s.den.seq ≤ r.seq && r.typ == 0x0003) then ok (endSnaps (raise 228 [] t))
  else
    .done (recordInternal 0x0903 r.obj (t.setDen (fun d => { d with ringClear := s.den.ringClear }))) stE_INTERNAL [] 0

/-- A clear of the legal region: its CLEAR record opens the new region at offset 0 and links to the old chain (R379). When that
record does not read back, nothing is cleared and the command ends with E_INTERNAL (R365). -/
def clearLegal (q : Req) (head : Nat) (s : State) : Res :=
  let s := flush s
  let d := s.den
  let payload := legalPrefix d (d.nextLec 0x0003) (some q.port) ++ le64 (lowSeq (d.legal.map (·.2))) ++ le64 head ++
    le32 d.legal.length ++ d.chain
  let t := nextSeq s
  let r : DenRec :=
    { typ := 0x0003, sev := 3, legReg := true, ovfl := false, winv := !s.sys.wallValid, seq := t.1,
      uptime := s.sys.now, wall := s.wall, boot := d.boot, payload := payload, trailer := none }
  if s.mramFails 0x300000 r.len then
    let t := raise 233 [] { t.2 with mram := mramStore s.mram 0x300000 (s.cells 0x300000 r.bytes) }
    .done (recordInternal 0x0903 q.obj t) stE_INTERNAL [] 0
  else
    let s := flush (t.2.setDen (fun x => { x with
      buf := x.buf ++ [r]
      lec := d.lec + 1
      legal := []
      legUsed := 0
      legTorn := 0
      leg90 := false }))
    ok (endSnaps (raise 228 [] (raise 224 [] s)))

def denClear (r : Req) (s : State) : Res :=
  let l := clearChecks r s
  let s := s.setDen (fun d => { d with
    snaps := d.snaps.set r.port.val (d.snaps[r.port].map (fun x => { x with nonce := none })) r.port.isLt })
  let head := leAt r.payload 100 8
  checked l s (if byteAt r.payload 0 = 1 then clearLegal r head s else clearRing r head s)

def execDenClear (r : Req) (s : State) : Host.Outcome State Fault Refusal := .next (runMail 0x0903 r s (denClear r))

end Sys2Proof.Machine
end

