-- ==== Sys2Proof/Machine/DinEv.lean ====
section
/-! DEFINITION. What digital inputs and counters sense (R167 to R173). Event payloads whose layout the spec does not give are
the model's (log entry 27). -/

namespace Sys2Proof.Machine

/-- An input channel whose Holm is live. -/
def State.dinUp (s : State) (c : Ch) : Bool :=
  (s.ch c).mode.isDigital && s.holmLive (bankOf c) && (s.holm (bankOf c)).up

/-- The stamp of an instant some ticks ago, by the slave copy (R24, R25). -/
def State.stampAgo (s : State) (b : Bank) (ticks : Nat) : Nat :=
  if (s.holm b).noBeacon then 0 else (s.holm b).slave - ticks

/-- The filtered level has differed from the reported state for DEB, and the state changes with the stamp of the transition
that began the interval; not while a wire break freezes it (R167, R168, R170). -/
def debounce (c : Ch) (s : State) : State :=
  let d := (s.ch c).din
  let new := d.raw != bit d.word 18
  if d.wireBreak || new == d.state || s.sys.raw < max d.rawSince d.debFrom + 1000 * fld d.word 8 0 then s
  else
    let ts := s.stampAgo (bankOf c) (s.sys.raw - d.rawSince)
    let s := s.setCh c (fun ch => { ch with
      din := { ch.din with
        state := new
        tsRise := if new then ts else ch.din.tsRise
        tsFall := if new then ch.din.tsFall else ts } })
    if bit d.word 20 then notifyCh c 5 ([if new then 1 else 0, 0] ++ le48 (ts % 2 ^ 48)) none s else s

/-- An input at a voltage for a number of ticks (R162, R167): past the glitch filter of 0.5 µs its level is the filtered level,
and the debounce is judged. -/
def edgeNow (c : Ch) (vip : Int) (held : Nat) (s : State) : State :=
  if !(s.dinUp c && (s.ch c).mode == .di) then s
  else
    let d := (s.ch c).din
    let level := inputLevel d.word d.raw vip
    debounce c (if level != d.raw && 5 ≤ held then
        s.setCh c (fun ch => { ch with din := { ch.din with raw := level, rawSince := s.sys.raw - held } })
      else s)

def execEdge (c : Ch) (vip : Int) (held : Nat) (s : State) : Host.Outcome State Fault Refusal := .next (edgeNow c vip held s)

/-- KIND and timestamp. -/
def dinPayload (s : State) (c : Ch) (kind : Byte) : List Byte := [kind, 0] ++ le48 (s.stamp (bankOf c) % 2 ^ 48)

/-- A wire break is declared when the sink current has stayed below 0.35 mA for 10 ms, and cleared when it has stayed above
0.45 mA for 50 ms (R170). -/
def dinBreak (c : Ch) (on : Bool) (s : State) : State :=
  let d := (s.ch c).din
  if s.dinUp c && (s.ch c).mode == .di && bit d.word 19 && d.wireBreak != on &&
      (if on then s.heldFor c .sinkLow 100000 else s.heldFor c .sinkHigh 500000) then
    let s := (if on then assertFault s else s).setCh c (fun ch => { ch with din := { ch.din with wireBreak := on } })
    notifyCh c 3 (dinPayload s c (if on then 1 else 2)) (some 3) s
  else s

def execWireBreak (c : Ch) (on : Bool) (s : State) : Host.Outcome State Fault Refusal := .next (dinBreak c on s)

/-- The sensor supply has stood at its 30 mA limit for 100 ms and folds back, each time it comes to that (R171); the overload
clears when its current, not folded back, has stayed below 25 mA for 200 ms. -/
def sensorOverload (c : Ch) (on : Bool) (s : State) : State :=
  let d := (s.ch c).din
  if !(s.dinUp c && (s.ch c).ssup) then s
  else if on && !d.folded && s.heldFor c .supplyLimit 1000000 then
    let s := (assertFault s).setCh c (fun ch => { ch with
      watch := ch.watch.filter (fun e => e.1 != .supplyLimit)
      din := { ch.din with overload := true, folded := true, foldAt := s.sys.raw } })
    notifyCh c 4 (dinPayload s c 1) none s
  else if !on && d.overload && s.heldFor c .supplyClear 2000000 then
    s.setCh c (fun ch => { ch with din := { ch.din with overload := false } })
  else s

def execSensorSupplyOverload (c : Ch) (on : Bool) (s : State) : Host.Outcome State Fault Refusal :=
  .next (sensorOverload c on s)

/-- CEDGE counts this edge (Table 2 of 07_digital_inputs). -/
def counts (w : BitVec 32) (rise : Bool) : Bool :=
  match fld w 25 24, rise with
  | 0, true => true
  | 1, false => true
  | 2, _ => true
  | _, _ => false

/-- The shortest pulse accepted on IP and IN, in ns (GLITCH, Table 2 of 07_digital_inputs). -/
def glitchNs (w : BitVec 32) : Nat :=
  match fld w 17 16 with
  | 0 => 500
  | 1 => 2000
  | 2 => 20000
  | _ => 200000

/-- The level of a counter's terminal at a reading (Table 1 and GLITCH of 07_digital_inputs): by the thresholds of its TYPE, once the
voltage has stood on its side of them for GLITCH. -/
def pinLevel (w : BitVec 32) (was : Bool) (e : PinEdge) : Bool := if glitchNs w ≤ e.widthNs then inputLevel w was e.mv else was

/-- A reading of IP in CNT mode with that of IN (R172): an edge on IP counts while no gate is closed; the count wraps and sets OVF.
Its stamp is that of the transition. -/
def countEdge (c : Ch) (e g : PinEdge) (s : State) : State :=
  let was := (s.ch c).din
  let level := pinLevel was.word was.raw e
  if !(s.dinUp c && (s.ch c).mode == .cnt) || level == was.raw then s
  else
    let ts := s.stampAgo (bankOf c) (e.widthNs / 100)
    s.setCh c (fun ch =>
      let d := { ch.din with
        raw := level
        state := level
        inLevel := if fld was.word 23 22 = 1 then pinLevel was.word ch.din.inLevel g else ch.din.inLevel
        tsRise := if level then ts else ch.din.tsRise
        tsFall := if level then ch.din.tsFall else ts }
      if counts d.word level && (fld d.word 23 22 != 1 || d.gateOpen) then
        { ch with din := { d with count := d.count + 1, ovf := d.ovf || d.count == 0xFFFFFFFF#32 } }
      else { ch with din := d })

def execCount (c : Ch) (e g : PinEdge) (s : State) : Host.Outcome State Fault Refusal := .next (countEdge c e g s)

/-- A reading of IN in CNT mode; a capture edge copies count and timestamp, or is dropped when four are held (R172, R173). -/
def captureEdge (c : Ch) (e : PinEdge) (s : State) : State :=
  let was := (s.ch c).din
  let level := pinLevel was.word was.inLevel e
  if !(s.dinUp c && (s.ch c).mode == .cnt) || level == was.inLevel then s
  else
    let s := s.setCh c (fun ch => { ch with din := { ch.din with inLevel := level } })
    let d := (s.ch c).din
    let ts := s.stampAgo (bankOf c) (e.widthNs / 100)
    if fld d.word 23 22 != 2 || level == bit d.word 21 then s
    else if d.caps.length < 4 then
      notifyCh c 5 (le32 d.count.toNat ++ le48 (ts % 2 ^ 48)) none
        (s.setCh c (fun ch => { ch with din := { ch.din with caps := ch.din.caps ++ [(ch.din.count, ts)] } }))
    else s.setCh c (fun ch => { ch with
      din := { ch.din with capLost := if ch.din.capLost == 0xFFFF then ch.din.capLost else ch.din.capLost + 1 } })

def execCapture (c : Ch) (e : PinEdge) (s : State) : Host.Outcome State Fault Refusal :=
  .next (captureEdge c e s)

end Sys2Proof.Machine
end

