-- ==== Sys2Proof/Machine/SysCmds.lean ====
section
/-! DEFINITION. The SYS family: SYS.INFO, SYS.RESET, SYS.TSYNC (R338), SYS.WDOG (R255) and SYS.CLOCK (R381). -/

namespace Sys2Proof.Machine

/-- Start kinds as SYS.INFO and START report them (R338). -/
def StartKind.code : StartKind → Nat
  | .cold => 0
  | .warm => 1
  | .recovery => 2

/-- The 32 bytes of SYS.INFO (R338). -/
def sysInfoData (s : State) : List Byte :=
  le32 s.devid ++ [Config.silrev, BitVec.ofNat 8 (b2n s.sys.intOsc), BitVec.ofNat 8 s.sys.start.code,
    BitVec.ofNat 8 s.upd.active.val] ++ le32 s.den.boot.toNat ++ le64 s.sys.now ++
    [BitVec.ofNat 8 s.sys.tsyncMode.val, 0, 0, 0] ++ le64 s.sys.tsyncCapture.toNat

def execSysInfo (r : Req) (s : State) : Host.Outcome State Fault Refusal :=
  .next (runMail 0x0101 r s (fun s =>
    checked [(r.payload.length == 0, stE_FORMAT)] s (okData (sysInfoData s) s)))

/-- SYS.RESET: 1 ms later a warm start begins; during a recovery start a cold start (R338, R394). -/
def sysReset (r : Req) (s : State) : Res :=
  let d := r.payload
  checked [(d.length == 8 && leAt d 0 4 == 0xA55A && zeroBytes d 5 3, stE_FORMAT), (byteAt d 4 == 1, stE_RANGE)] s
    (ok (s.setSys (fun y => { y with
      startDue := y.startDue ++ [StartDue.mk (if y.start == .recovery then .cold else .warm) (y.now + msTicks 1) 2] })))

def execSysReset (r : Req) (s : State) : Host.Outcome State Fault Refusal :=
  .next (runMail 0x0102 r s (sysReset r))

/-- SYS.TSYNC: mode and target (R338, Table 6 of 01_architecture). -/
def sysTsync (r : Req) (s : State) : Res :=
  let d := r.payload
  let m := (byteAt d 0).toNat
  checked [(d.length == 16 && zeroBytes d 1 7, stE_FORMAT), (m < 3, stE_RANGE),
      (m == 2 || leAt d 8 8 == 0, stE_RANGE)] s
    (ok (s.setSys (fun y => { y with
      tsyncMode := if m = 1 then 1 else if m = 2 then 2 else 0
      tsyncTarget := BitVec.ofNat 64 (leAt d 8 8) })))

def execSysTsync (r : Req) (s : State) : Host.Outcome State Fault Refusal :=
  .next (runMail 0x0103 r s (sysTsync r))

/-- SYS.WDOG: the port's watchdog time, 0 or 10 to 60 000 ms (R255). -/
def sysWdog (r : Req) (s : State) : Res :=
  let d := r.payload
  let w := leAt d 0 2
  checked [(d.length == 4 && zeroBytes d 2 2, stE_FORMAT), (w == 0 || (10 ≤ w && w ≤ 60000), stE_RANGE)] s
    (ok (s.setPort r.port (fun q => { q with wdt := BitVec.ofNat 16 w })))

def execSysWdog (r : Req) (s : State) : Host.Outcome State Fault Refusal :=
  .next (runMail 0x0104 r s (sysWdog r))

/-- The answer of SYS.CLOCK (R381). -/
def clockData (before after : State) : List Byte :=
  le48 before.wall ++ le48 after.wall ++
    [bitsByte [after.sys.wallValid, after.sys.vbat, after.sys.rtcStopped], 0, 0, 0]

/-- A set takes effect at once, writes a CLOCK record and raises EV229; set back, it is recorded at WARN and raises EV230
(R381). Without its crystal the clock still counts as stopped (R429). -/
def clockSet (p : Port) (w : Nat) (s : State) : State :=
  let t := s.setSys (fun y => { y with
    wallBase := w
    wallAt := y.now
    wallValid := y.rtcRuns
    rtcStopped := !y.rtcRuns })
  let back := decide (w < s.wall)
  let t := denWrite 0x0004 (if back then 3 else 2)
    (le48 s.wall ++ le48 w ++ [BitVec.ofNat 8 p.val, 0, 0, 0]) t
  let t := raise 229 [] t
  if back then raise 230 [] t else t

def sysClock (r : Req) (s : State) : Res :=
  let d := r.payload
  let act := byteAt d 0
  let w := leAt d 8 6
  checked [(d.length == 16 && zeroBytes d 1 7 && zeroBytes d 14 2, stE_FORMAT), (act == 0 || act == 1, stE_RANGE),
      (act == 1 || w == 0, stE_RANGE)] s
    (if act = 0 then okData (clockData s s) s
     else okData (clockData s (clockSet r.port w s)) (clockSet r.port w s))

def execSysClock (r : Req) (s : State) : Host.Outcome State Fault Refusal :=
  .next (runMail 0x0105 r s (sysClock r))

end Sys2Proof.Machine
end

