-- ==== Sys2Proof/Machine/TimeEv.lean ====
section
/-! DEFINITION. Device time (R22 to R27): beacons, uncertainty and TSYNC; the Burrow pins (R262, R263, R268) and the seal
(R332, R431). -/

namespace Sys2Proof.Machine

/-- The slave copy after a beacon: within ±100 ns, one tick, of device time once 20 beacons have followed the establishment of
the link, before that within the uncorrected link delay of at most 5 µs (R23, R25); where it lies is a free value (log entry
2). -/
def slaveNear (locked : Bool) (free now : Nat) : Nat :=
  let k := if locked then 1 else 50
  now + free % (2 * k + 1) - k

/-- Device time runs fast or slow by one tick in 1000 while a slew is taken up (R26). -/
def Sys.rate (y : Sys) : Int := y.slew.sign

/-- A beacon corrects the slave copy in phase and rate and carries a forward step (R23, R25, R27); twenty after the establishment
of the link lock it again. The grid is counted on at the measured oscillator frequency (R63). -/
def timeBeacon (b : Bank) (m : Beacon) (s : State) : State :=
  if s.whole b && (s.holm b).up && s.sys.vddOk then
    let locked := decide (20 ≤ (s.holm b).beacons + 1)
    let locks := (s.holm b).tunc && locked
    let e := s.draw
    let s := e.2.setHolm b (fun h => { h.setOsc s.sys.now m.oscMilliHz with
      rate := s.sys.rate
      delayNs := m.delayNs
      slave := slaveNear locked e.1 s.sys.now
      lastBeacon := s.sys.now
      beacons := h.beacons + 1
      noBeacon := false
      tunc := h.tunc && !locks })
    let s := if s.sys.tstepHolms.contains b then
        overAll (bankChs b) (fun c s => s.setCh c (fun ch => { ch with filt := { ch.filt with tstep := true } }))
          (s.setSys (fun y => { y with tstepHolms := y.tstepHolms.filter (· != b) }))
      else s
    if locks then notifyHolm b 8 2 0xFF 0 none s else s
  else s

def execTimeBeacon (b : Bank) (m : Beacon) (s : State) : Host.Outcome State Fault Refusal :=
  .next (timeBeacon b m s)

/-- 50 ms have passed without a beacon (R25). -/
def timeUncertain (b : Bank) (s : State) : State :=
  let h := s.holm b
  if h.up && !h.tunc && decide (h.lastBeacon + 500000 ≤ h.slave) then
    notifyHolm b 8 1 0xFF 0 none (s.setHolm b (fun h => { h with tunc := true, beacons := 0 }))
  else s

def execTimeUncertain (b : Bank) (s : State) : Host.Outcome State Fault Refusal := .next (timeUncertain b s)

/-- The instants a channel keeps, after a forward step of device time by k ticks (R26; log entry 98): what is
still to come, or is counted from an instant past, keeps its distance from device time; what is counted by `Sys.raw` stays. -/
def shiftChan (k : Nat) (ch : Chan) : Chan :=
  { ch with
    moved := ch.moved.map (fun m => { m with due := m.due + k })
    thr := ch.thr.map (fun t => { t with timer := t.timer.map (· + k) })
    filt := { ch.filt with
      later := ch.filt.later.map (fun x => (x.1 + k, x.2))
      swap := ch.filt.swap.map (fun w => { w with acceptedAt := w.acceptedAt + k }) }
    brg := { ch.brg with next := ch.brg.next.map (fun n => (n.1, n.2 + k)) }
    loop := { ch.loop with rampAt := ch.loop.rampAt + k }
    mdm := { ch.mdm with
      run := ch.mdm.run.map (fun r => { r with endAt := r.endAt + k })
      latest := ch.mdm.latest.map (fun r => { r with endAt := r.endAt + k })
      quietAt := ch.mdm.quietAt + k }
    sw := { ch.sw with
      restarts := ch.sw.restarts.map (· + k)
      onSince := ch.sw.onSince + k
      offSince := ch.sw.offSince + k
      pulse := (ch.sw.pulse.1 + k, ch.sw.pulse.2) } }

/-- A completion whose instant is still to come keeps its distance; a past TDONE stays. -/
def shiftDone (k now : Nat) (c : Completion) : Completion := { c with tdone := if now < c.tdone then c.tdone + k else c.tdone }

/-- The same for a Holm: the carrier grid, and with it the count of the oscillator by which pulse timebases run, the pending plan, the shed steps, the lost link and the edges. The time of the
plan in force (TEFF) and the slave copy stay. -/
def shiftHolm (k now : Nat) (h : Holm) : Holm :=
  { h with
    lostAt := h.lostAt + k
    shedAt := h.shedAt + k
    grid0 := h.grid0 + k
    pend := h.pend.map (fun p => { p with
      due := p.due + k
      waiters := p.waiters.map (fun w => { w with notBefore := w.notBefore + k }) })
    held := h.held.map (shiftDone k now)
    edges := h.edges.map (fun e => (e.1 + k, e.2)) }

/-- The same for a port; while RDY is clear its watchdog holds a duration, which stays. -/
def shiftPort (k : Nat) (q : PortSt) : PortSt :=
  { q with
    wdAt := if q.rdy then q.wdAt + k else q.wdAt
    slots := q.slots.map (fun x => { x with
      takenAt := x.takenAt + k
      deferAt := x.deferAt.map (· + k) })
    replay := q.replay.map (fun x => { x with takenAt := x.takenAt + k })
    evOpenedAt := q.evOpenedAt + k
    dropEvAt := q.dropEvAt.map (· + k)
    subs := q.subs.map (fun x => { x with openedAt := x.openedAt + k })
    viol := q.viol.map (fun v => { v with lastAt := v.lastAt + k }) }

/-- The same for the Badger's queue and the ledgers above budget. -/
def shiftBadger (k : Nat) (b : Badger) : Badger :=
  { b with
    heads := b.heads.map (fun h => { h with
      deadline := h.deadline.map (· + k)
      deferAt := h.deferAt + k })
    excess := b.excess.map (fun x => (x.1, x.2.1, x.2.2.map (· + k))) }

/-- A forward step of device time by k ticks (R26): device time jumps, wall time and every running duration do not (log
entry 98); each Holm hears of it in its next beacon (R27). -/
def stepForward (k : Nat) (s : State) : State :=
  { s with
    sys := { s.sys with
      now := s.sys.now + k
      wallAt := s.sys.wallAt + k
      slew := 0
      tstepHolms := [0, 1]
      tsyncLast := s.sys.tsyncLast.map (· + k)
      startAt := s.sys.startAt + k
      startDue := s.sys.startDue.map (fun d => { d with at_ := d.at_ + k })
      failedEngines := s.sys.failedEngines.map (fun f => { f with at_ := f.at_ + k })
      recoveries := s.sys.recoveries.map (fun r => (r.1, r.2 + k))
      nfaultAt := s.sys.nfaultAt + k }
    chans := s.chans.map (shiftChan k)
    holms := s.holms.map (shiftHolm k s.sys.now)
    ports := s.ports.map (shiftPort k)
    completions := s.completions.map (shiftDone k s.sys.now)
    badger := shiftBadger k s.badger
    den := { s.den with
      dropAt := s.den.dropAt.map (· + k)
      lastFlush := s.den.lastFlush + k } }

/-- Alignment by Table 7 of 01_architecture: device time is slewed, stepped forward, or left. A slew still under way goes on when
the offset is 0 or refused; a new one takes its place (DESIGN CHOICE, log entry 105). -/
def align (target now : Nat) (s : State) : State :=
  let off : Int := (target : Int) - now
  if off = 0 then s
  else if 10000 < off then stepForward off.toNat s
  else if off < -10000 then raise 251 [] s
  else s.setSys (fun y => { y with slew := off })

/-- A rising edge of TSYNC (R26): accepted after 1 µs high and 100 µs after the last accepted one; a loaded target is used
once. -/
def tsyncEdge (highNs : Nat) (s : State) : State :=
  let y := s.sys
  let late := match y.tsyncLast with | some t => decide (t + 1000 ≤ y.now) | none => true
  if y.tsyncMode = 0 || !y.vddOk || highNs < 1000 || !late then s
  else
    let t := y.tsyncTarget.toNat
    let s := s.setSys (fun y => { y with
      tsyncLast := some y.now
      tsyncCapture := BitVec.ofNat 64 y.now
      tsyncTarget := if y.tsyncMode = 2 then 0 else y.tsyncTarget })
    let s := raise 250 [] s
    if y.tsyncMode = 2 && t != 0 then align t y.now s else s

def execTsyncEdge (highNs : Nat) (s : State) : Host.Outcome State Fault Refusal := .next (tsyncEdge highNs s)

/-- The level of a Burrow pin after a reading: the thresholds of Type 3, and the debounce of 5 ms (R262). -/
def burLevel (was : Bool) (x : PinRead) : Bool := if 50000 ≤ x.held then inputLevel 0x4000 was x.mv else was

/-- A debounced change of BUR_EN (R262): level 2 begins or ends; its event and Den record follow. -/
def burEn (b : Bank) (x : PinRead) (s : State) : State :=
  let h := s.holm b
  let level := burLevel h.burEn x
  if h.up && h.burEn != level then
    let s := s.setHolm b (fun h => { h with burEn := level })
    let s := if level then s else overAll (bankChs b) releaseKept s
    notifyHolm b 6 (if level then 1 else 2) 0xFF 0 (some 2) (evalBank b s)
  else s

def execBurEn (b : Bank) (x : PinRead) (s : State) : Host.Outcome State Fault Refusal := .next (burEn b x s)

/-- A debounced change of a Burrow input (R262, R263). -/
def burIn (b : Bank) (k : Fin 4) (x : PinRead) (s : State) : State :=
  if (s.holm b).up then
    evalBank b (s.setHolm b (fun h => { h with burIn := h.burIn.set k.val (burLevel h.burIn[k] x) k.isLt }))
  else s

def execBurIn (b : Bank) (k : Fin 4) (x : PinRead) (s : State) : Host.Outcome State Fault Refusal :=
  .next (burIn b k x s)

/-- The seal takes a debounced state: a SEAL record, the legal event counter and EV186 (R332, Table 4 of 14_den_recorder). -/
def setSeal (asserted : Bool) (s : State) : State :=
  let s := { s with legal := { s.legal with sealed := asserted, sealRec := asserted } }
  raise 186 [] (legalWrite 0x0008 2 [if asserted then 1 else 0, 0, 0, 0] none true true s)

/-- A debounced state of LSEAL is recorded when it differs from that of the last SEAL record (R332, R431). -/
def takeSeal (asserted : Bool) (s : State) : State :=
  if s.legal.sealRec == asserted then { s with legal := { s.legal with sealed := asserted } } else setSeal asserted s

/-- LSEAL has stood at a level for the debounce of 10 ms (R332): sampled only while VIO is valid (R431), and ignored by the HY1624-PA
(R3). -/
def sealChange (x : PinHeld) (s : State) : State :=
  if s.sys.vddOk && s.sys.vio && s.sys.order != 2 && decide (msTicks 10 ≤ x.held) then takeSeal x.level s
  else s

def execSeal (x : PinHeld) (s : State) : Host.Outcome State Fault Refusal := .next (sealChange x s)

end Sys2Proof.Machine
end

