-- ==== Sys2Proof/Machine/UpdCmds.lean ====
section
/-! DEFINITION. The UPD family (chapter 15): UPD.BEGIN (R400), UPD.CHUNK (R401), UPD.VERIFY (R396 to R398, R402), UPD.ACTIVATE
(R403, R404), UPD.CONFIRM (R406) and UPD.STATUS (R407). The byte layout of the records of Table 11 is the model's
(log entry 34). -/

namespace Sys2Proof.Machine

def updBegin (r : Req) (s : State) : Res :=
  checked (beginChecks r s) s (.held (submit 0x0B01 r .updBegin (ClampMeas.mk []) s))

def execUpdBegin (r : Req) (s : State) : Host.Outcome State Fault Refusal := .next (runMail 0x0B01 r s (updBegin r))

def updChunk (r : Req) (s : State) : Res :=
  let d := r.payload
  let off := leAt d 0 4
  let len := s.upd.sessionLen
  checked [(s.sessionOf r.port, stE_STATE),
      (9 ≤ d.length && d.length ≤ 4104 && (len ≤ off || d.length - 8 == min 4096 (len - off)), stE_FORMAT),
      (off < len && off % 4096 == 0, stE_RANGE),
      (leAt d 4 4 == crc32c (le32 off ++ d.drop 8), stE_IMAGE)] s
    (.held (submit 0x0B02 r .mramChunk (ClampMeas.mk []) s))

def execUpdChunk (r : Req) (s : State) : Host.Outcome State Fault Refusal := .next (runMail 0x0B02 r s (updChunk r))

/-- Bytes of the image in a slot. -/
def State.img (s : State) (k : Fin 2) (off n : Nat) : List Byte := mramBytes s.mram (slotBase k + off) n

/-- A component entry of a manifest (Table 6 of 15_start_update_security). -/
structure Comp where
  cid : Nat
  legal : Bool
  coff : Nat
  clen : Nat
  cdig : List Byte
  rsvOk : Bool

def compAt (m : List Byte) (k : Nat) : Comp :=
  let o := 96 + 80 * k
  { cid := leAt m o 1, legal := bit (byteAt m (o + 1)) 0, coff := leAt m (o + 4) 4, clen := leAt m (o + 8) 4
    cdig := (m.drop (o + 16)).take 64
    rsvOk := rsvZero (byteAt m (o + 1)) 0xFE && zeroBytes m (o + 2) 2 && zeroBytes m (o + 12) 4 }

/-- Largest and exact lengths of Table 7 of 15_start_update_security. -/
def Comp.lenOk (c : Comp) : Bool :=
  if c.cid ≤ 7 then decide (c.clen ≤ 49152)
  else if c.cid = 0x10 then c.clen == 4096
  else if c.cid = 0x11 then decide (c.clen ≤ 2048)
  else decide (c.clen ≤ 65536)

/-- Bytes a component takes in the slot: its data and a check value per block of 1024 (R397). -/
def Comp.stored (c : Comp) : Nat := c.clen + 4 * ceilDiv c.clen 1024

/-- The component identifiers of Table 7. -/
def cids : List Nat := [0x00, 0x01, 0x02, 0x03, 0x04, 0x05, 0x06, 0x07, 0x10, 0x11]

/-- The data of a component, when every block carries its check value (R397). -/
def compData (s : State) (k : Fin 2) : Nat → Nat → Nat → Option (List Byte)
  | 0, _, _ => some []
  | fuel + 1, off, left =>
    if left = 0 then some []
    else
      let n := min 1024 left
      let b := s.img k off n
      if leAt (s.img k (off + n) 4) 0 4 = crc32c (le32 off ++ b) then (compData s k fuel (off + n + 4) (left - n)).map (b ++ ·)
      else none

/-- What a slot's manifest holds. -/
structure Manifest where
  bytes : List Byte
  comps : List Comp

def State.manifest (s : State) (k : Fin 2) : Manifest :=
  let h := s.img k 0 96
  let n := leAt h 6 1
  let m := s.img k 0 (96 + 80 * n)
  ⟨m, (List.range n).map (compAt m)⟩

/-- LEGDIG by R398. -/
def Manifest.legdig (m : Manifest) : List Byte := sha3_512 ((m.comps.filter (·.legal)).flatMap (·.cdig))

def Manifest.info (m : Manifest) : ImgInfo :=
  ImgInfo.mk (word32 m.bytes 8) (word32 m.bytes 12) (word16 m.bytes 20) ((m.bytes.drop 24).take 64) (sha3_512 m.bytes)

/-- The first group of checks of UPD.VERIFY (R402): fields, components, LEGDIG and the rollback floor. -/
def Manifest.fieldsOk (m : Manifest) (s : State) (len : Nat) : Bool :=
  let b := m.bytes
  leAt b 0 4 == 0x48594D46 && leAt b 4 2 == 1 && (leAt b 6 1 == 10 || leAt b 6 1 == 11) && rsvZero (byteAt b 7) 0xF8 &&
    bit (byteAt b 7) s.sys.order.toNat && leAt b 16 4 == len && zeroBytes b 22 2 && zeroBytes b 88 8 &&
    m.comps.all (fun c => c.rsvOk && c.lenOk && c.coff % 64 == 0 && decide (0x4000 ≤ c.coff) &&
      decide (c.coff + c.stored ≤ len) && (cids.contains c.cid || c.cid == 0x20)) &&
    cids.all (fun i => (m.comps.filter (fun c => c.cid == i)).length == 1) &&
    decide ((m.comps.filter (fun c => c.cid == 0x20)).length ≤ 1) && (b.drop 24).take 64 == m.legdig &&
    decide (s.upd.floor.toNat ≤ leAt b 12 4)

def vendorKey : List Byte := (List.range 2592).map Config.vendorKeyByte

/-- The owner co-signature of a slot; 0xFF throughout when absent (Table 5 of 15_start_update_security). -/
def State.cosig (s : State) (k : Fin 2) : List Byte := s.img k 0x2000 4627
def State.cosigned (s : State) (k : Fin 2) : Bool := (s.cosig k).any (· != 0xFF)

/-- The status of the full check of an image (R402); `len` is its length, none where the session's conditions do not apply. -/
def verifyStatus (s : State) (k : Fin 2) (len : Nat) : Byte :=
  let m := s.manifest k
  let dig := sha3_512 m.bytes
  if !m.fieldsOk s len then stE_IMAGE
  else if !mldsaVerify vendorKey dig (s.img k 0x800 4627) then stE_AUTH
  else if !(match s.sec.ownerKey with | some key => mldsaVerify key dig (s.cosig k) | none => true) then stE_AUTH
  else if !m.comps.all (fun c => (compData s k 1600 c.coff c.clen).map sha3_512 == some c.cdig) then stE_IMAGE
  else stOK

/-- UPD.VERIFY runs: the slot becomes VERIFIED or INVALID, with its record (Table 11 of 15_start_update_security). The response gives
LEGVER and the excerpt of the image on the HY1624-PA too, where R398 names other commands as reading zeros (DESIGN CHOICE, log
entry 133). -/
def verifyNow (s : State) : Res :=
  let k := s.upd.other
  let st := verifyStatus s k s.upd.sessionLen
  let m := s.manifest k
  let i := m.info
  let s := s.setUpd (fun u => { u with
    st := u.st.set k.val (if st = stOK then .verified else .invalid) k.isLt
    info := u.info.set k.val (if st = stOK then some i else none) k.isLt })
  let s := denWrite 0x0111 (if st = stOK then 2 else 3) ([st, 0, 0, 0] ++ le32 i.ver.toNat ++ le32 i.arb.toNat ++ i.mdig) s
  if st = stOK then
    okData (le32 i.ver.toNat ++ le32 i.arb.toNat ++ le16 i.legver.toNat ++ excerpt i.legdig ++
      [bitsByte [s.lchg, s.cosigned k], 0] ++ i.mdig) (raise 240 [] s)
  else .done s st [] 0

def updVerify (r : Req) (s : State) : Res :=
  checked [(s.sessionOf r.port && s.upd.complete, stE_STATE),
      (r.payload.length == 4 && zeroBytes r.payload 0 4, stE_FORMAT)] s (verifyNow s)

def execUpdVerify (r : Req) (s : State) : Host.Outcome State Fault Refusal := .next (runMail 0x0B03 r s (updVerify r))

/-- No byte of slot 0 has been written since manufacture: its content is the factory image's (log entry 18). -/
def State.factorySlot (s : State) (k : Fin 2) : Bool := k == 0 && s.mram.all (fun e => decide (0x180000 ≤ e.1))

/-- The SHA3-512 of a slot's manifest as it stands in MRAM. -/
def State.slotDigest (s : State) (k : Fin 2) : List Byte :=
  if s.factorySlot k then factoryInfo.mdig else sha3_512 (s.manifest k).bytes

/-- The co-signature that an installed owner key requires (R402, R414). -/
def State.cosignOk (s : State) (k : Fin 2) : Bool :=
  match s.sec.ownerKey with
  | some key => mldsaVerify key (s.slotDigest k) (s.cosig k)
  | none => true

/-- The full check of the active image at a cold start: R402 without the session's conditions (step 6 of Table 2 of
15_start_update_security). The image of manufacture passes the vendor's part of it (log entry 18). -/
def State.imageGood (s : State) : Bool :=
  let k := s.upd.active
  if s.factorySlot k then s.cosignOk k else verifyStatus s k (leAt (s.manifest k).bytes 16 4) == stOK

/-- What a warm start compares (R387): the SHA3-512 of the active manifest with MDIG, and each component with its CDIG. -/
def State.warmGood (s : State) : Bool :=
  let k := s.upd.active
  s.slotDigest k == s.upd.mdig &&
    (s.factorySlot k || (s.manifest k).comps.all (fun c => (compData s k 1600 c.coff c.clen).map sha3_512 == some c.cdig))

def updActivate (r : Req) (s : State) : Res :=
  activateIf r s (.held (submit 0x0B04 r .updActivate (ClampMeas.mk []) s))

def execUpdActivate (r : Req) (s : State) : Host.Outcome State Fault Refusal :=
  .next (runMail 0x0B04 r s (updActivate r))

def updConfirm (r : Req) (s : State) : Res :=
  confirmIf r s (.held (submit 0x0B05 r .updConfirm (ClampMeas.mk []) s))

def execUpdConfirm (r : Req) (s : State) : Host.Outcome State Fault Refusal := .next (runMail 0x0B05 r s (updConfirm r))

/-- Slot states by code (Table 8 of 15_start_update_security). -/
def ImgState.code : ImgState → Nat
  | .empty => 0 | .downloading => 1 | .downloaded => 2 | .verified => 3 | .active => 4 | .trial => 5 | .fallback => 6
  | .invalid => 7

/-- The image of a slot has been verified. -/
def State.vetted (s : State) (k : Fin 2) : Option ImgInfo :=
  match s.upd.st[k] with
  | .verified | .active | .trial | .fallback => s.infoOf k
  | _ => none

/-- Seconds of real-time clock time since the flip. -/
def State.trialSecs (s : State) : Nat := (s.wall - s.upd.flipRtc) / 65536

/-- Legal fields hold zeros on the HY1624-PA (R3, R398, R413). -/
def State.legalField (s : State) (l : List Byte) : List Byte := if s.sys.order = 2 then l.map (fun _ => 0) else l

/-- UPD.STATUS (Table 9 of 15_start_update_security). -/
def updStatusData (s : State) : List Byte :=
  let u := s.upd
  let ver (k : Fin 2) : List Byte := le32 (match s.vetted k with | some i => i.ver.toNat | none => 0)
  let leg (k : Fin 2) : List Byte :=
    s.legalField (match s.vetted k with | some i => le16 i.legver.toNat ++ excerpt i.legdig | none => List.replicate 6 0)
  [BitVec.ofNat 8 u.run.val, BitVec.ofNat 8 u.st[0].code, BitVec.ofNat 8 u.st[1].code,
    bitsByte [u.inTrial, s.recovery], ownerByte (if u.sessionLen = 0 then none else u.sessionPort),
    BitVec.ofNat 8 (if u.inTrial then u.tboot - u.trialStarts else 0)] ++
    le16 (if s.sys.rtcStopped then 0xFFFF else if u.inTrial then u.twin - s.trialSecs else 0) ++
    le32 u.sessionLen ++ u.progress ++
    [BitVec.ofNat 8 (satN u.fails.length 8), (match u.fails.getLast? with | some f => f.2.2 | none => 0)] ++
    ver 0 ++ ver 1 ++ le32 u.floor.toNat ++ leg u.run ++ leg (1 - u.run) ++ [0, 0, 0, 0]

def execUpdStatus (r : Req) (s : State) : Host.Outcome State Fault Refusal :=
  .next (runMail 0x0B06 r s (fun s =>
    checked [(r.payload.length == 0, stE_FORMAT)] s (okData (updStatusData s) s)))

end Sys2Proof.Machine
end

