-- ==== Sys2Proof/Machine/StartOps.lean ====
section
/-! DEFINITION. What the starts share (chapter 15): scheduled starts (R385), failed starts (R392), trial reverts (R405, R409),
the emptying of the mailbox (R311), START records (R361, R363), and the hold-up reserve's events (R239). -/

namespace Sys2Proof.Machine

/-- RDY clears: the watchdog's timer is frozen at what has run (R255, R280). -/
def PortSt.freeze (now : Nat) (q : PortSt) : PortSt :=
  if q.rdy then { q with rdy := false, wdAt := now - q.wdAt } else q

/-- RDY is set: the timer goes on. -/
def PortSt.serve (now : Nat) (q : PortSt) : PortSt :=
  if q.rdy then q else { q with rdy := true, wdAt := now - q.wdAt }

/-- Every port. -/
def overPorts (f : Port → PortSt → PortSt) (s : State) : State :=
  overAll allPorts (fun p s => s.setPort p (f p)) s

/-- An event is raised now, and again once the ports serve after the start that follows, which clears EVPEND (R288). -/
def raiseAcross (src : Nat) (payload : List Byte) (s : State) : State :=
  (raise src payload s).setSys (fun y => { y with afterStart := y.afterStart ++ [(src, payload)] })

/-- A start is scheduled for now. -/
def scheduleStart (kind : StartKind) (cause : BitVec 8) (s : State) : State :=
  s.setSys (fun y => { y with startDue := y.startDue ++ [StartDue.mk kind y.now cause] })

/-- The first scheduled start of a kind whose time has come. -/
def State.dueStart (s : State) (kind : StartKind) : Option StartDue :=
  s.sys.startDue.find? (fun d => d.kind == kind && decide (d.at_ ≤ s.sys.now))

/-- A LEGREV record: restored LEGVER and excerpt, reason (R405, R409); it is never refused (R366). -/
def writeLegrev (slot : Fin 2) (why : RevertReason) (s : State) : State :=
  (legalWrite 0x0102 2 ((legId (s.infoOf slot)).take 6 ++ [revertCode why, 0]) none true true s).setUpd
    (fun u => { u with pendingLegact := none })

/-- A trial reverts at a start (R405): LEGREV first when it changed legal software, then the flip and its record. -/
def revertTrial (why : RevertReason) (s : State) : State :=
  bootNow (.revert why) (if s.upd.trialLegal then writeLegrev s.upd.other why s else s)

/-- A revert that a cold start follows, with EV243 (R405). -/
def revertAndStart (why : RevertReason) (s : State) : State :=
  scheduleStart .cold 2 (raiseAcross 243 [] (revertTrial why s))

/-- The failed-start record counts three failed starts within 10 s of real-time clock time, or three in a row when the clock
has stopped (R392). -/
def State.thirdFailure (s : State) : Bool :=
  if s.sys.rtcStopped || !s.sys.rtcRuns then decide (3 ≤ s.upd.failRun)
  else decide (3 ≤ (s.upd.fails.filter (fun f => decide (s.wall ≤ f.1 + 655360))).length)

/-- A start has failed (R392): the boot record is resolved (R404), its record, START_FAIL and EV253, and what follows: a revert of a trial image, a recovery start
after the third failure or out of a recovery start (R394), otherwise `next` with its cause. With `left` the start that failed is
the one that has raised RDY; otherwise such a one has succeeded. -/
def failStart (kind : StartKind) (step : BitVec 8) (next : StartKind) (cause : BitVec 8) (left : Bool) (s : State) : State :=
  let s := (resolveBoot s).setUpd (fun u => { u with
    fails := u.fails ++ [(s.wall, BitVec.ofNat 8 kind.code, step)]
    failRun := (if u.served && !left then 0 else u.failRun) + 1
    served := false })
  let s := denWrite 0x0120 4 [BitVec.ofNat 8 kind.code, step, BitVec.ofNat 8 (satN s.upd.fails.length 8), 0] s
  let s := raiseAcross 253 [] s
  if s.upd.inTrial then revertAndStart .failedStart s
  else if s.thirdFailure || s.sys.start == .recovery || s.upd.afterRec then scheduleStart .recovery 5 s
  else scheduleStart next cause s

/-- The last step of a start's table. -/
def StartKind.lastStep : StartKind → BitVec 8
  | .warm => 6
  | _ => 12

/-- The device leaves operation by watchdog, double-bit error or escalated recovery (R385, R391): a warm start, and within 1 s
after RDY a failed start (R392), which a cold start follows when it was a warm one; a start already due takes it in. -/
def leaveOperation (cause : BitVec 8) (s : State) : State :=
  if s.sys.startDue.any (fun d => decide (d.at_ ≤ s.sys.now)) then s
  else if s.sys.now < s.sys.startAt + 10000000 then
    if s.sys.start == .warm then failStart .warm StartKind.warm.lastStep .cold 5 true s
    else failStart s.sys.start s.sys.start.lastStep .warm cause true s
  else scheduleStart .warm cause s

/-- Operations that have not completed end without a completion (R311); what waits in the Badger, in a sequencer or for a
boundary ends with them; a mode change that runs in the Holm and a measurement word that waits for its grid instant run to their end (log
entry 42), and a legal one still takes effect then (R333); what has been recorded of another change to the legal configuration counts
(R364; log entry 156). -/
def endOps (s : State) : State :=
  let goesOn (o : BitVec 16) : Bool :=
    match chOf o with
    | some c => (match (s.ch c).changing with | some g => !g.entered | none => false) || (s.ch c).brg.next.isSome
    | none => false
  { s with
    completions := []
    holms := s.holms.map (fun h => { h with held := [] })
    chans := s.chans.map (fun ch => { ch with
      restore := .none
      moved := none
      changing := ch.changing.map (fun g => { g with req := none })
      filt := { ch.filt with swap := none } })
    badger := { s.badger with heads := [], stagger := [], admitted := [], warned := [], excess := [] }
    den := { s.den with
      lec := s.den.lec + BitVec.ofNat 32 (s.den.legDue.filter (fun o => !goesOn o)).length
      legDue := s.den.legDue.filter goesOn }
    sys := { s.sys with internal := [] } }

/-- A port after a start: everything at its reset value but LPORT and, with a good warm state block, what R388 keeps. -/
def PortSt.restarted (p : Port) (keep : Bool) (q : PortSt) : PortSt :=
  if keep then
    { PortSt.reset p with
      rdy := q.rdy
      lport := q.lport
      evmask := q.evmask
      irqcfg := q.irqcfg
      opwindow := q.opwindow
      wdt := q.wdt
      wdAt := q.wdAt
      wdExpired := q.wdExpired
      subs := q.subs.map (fun u => { StreamSub.reset with byte := u.byte }) }
  else { PortSt.reset p with rdy := q.rdy, lport := q.lport }

/-- The owner of a channel after a start (R327): a legal channel belongs to the legal port. -/
def ownerAfter (s : State) (c : Ch) (o : Option Port) : Option Port := if s.isLegal c then s.legal.port else o

/-- Owners after a start: kept, or none. -/
def settleOwners (keep : Bool) (s : State) : State :=
  { s with
    chans := Vector.ofFn (fun c => { s.chans[c] with owner := ownerAfter s c (if keep then s.chans[c].owner else none) })
    holms := s.holms.map (fun h => { h with owner := if keep then h.owner else none })
    badger := { s.badger with owner := if keep then s.badger.owner else none }
    crc := s.crc.map (fun u => { CrcUnit.reset with owner := if keep then u.owner else none }) }

/-- Counts, snapshots and nonces that every start ends (Table 6 of 14_den_recorder, R375, R400), and the boot count (R361). -/
def bootCount (s : State) : State :=
  { s with
    den := { s.den with boot := s.den.boot + 1, ndropTotal := 0, dropAt := none, snaps := Vector.replicate 3 none }
    sec := { s.sec with nonces := Vector.replicate 3 none }
    upd := { s.upd with sessionPort := none } }

/-- The START record (Table 4 of 14_den_recorder), with EV231 and EV232 for what it reports (R383); a warm start skips the scan
(R369). -/
def startRecord (kind : StartKind) (cause : BitVec 8) (first last : Nat) (s : State) : State :=
  let d := s.den
  let torn := if kind = .warm then 0 else d.torn.length
  let s := denWrite 0x0002 (if kind = .recovery then 3 else 2)
    ([BitVec.ofNat 8 kind.code, cause] ++ le16 (satN torn 16) ++ le32 (satN d.lostInBuf 32) ++ le64 first ++ le64 last) s
  let s := if torn ≠ 0 || (kind ≠ .warm && d.legTorn ≠ 0) then raise 231 [] s else s
  let s := if d.lostInBuf ≠ 0 then raise 232 [] s else s
  s.setDen (fun d => { d with lostInBuf := 0 })

/-- A start that has raised RDY: its kind and time, and the events that waited for it; the one that ran before it without failing has
ended a run of failed starts (R392). -/
def serveAll (kind : StartKind) (cause : BitVec 8) (s : State) : State :=
  let l := s.sys.afterStart
  let s := s.setSys (fun y => { y with
    start := kind
    startAt := y.now
    lastCause := cause
    nresetLow := false
    rdyOnce := true
    afterStart := [] })
  let s := s.setUpd (fun u => { u with
    failRun := if u.served then 0 else u.failRun
    served := true })
  overAll l (fun e s => raise e.1 e.2 s) (overPorts (fun _ q => q.serve s.sys.now) s)

/-- A LEGACT whose software is not running is answered by LEGREV with reason 3 (R409). -/
def checkLegact (s : State) : State :=
  match s.upd.pendingLegact with
  | some d => if (s.infoOf s.upd.active).any (fun i => i.legdig == d) then s else writeLegrev s.upd.active .notActivated s
  | none => s

/-- EV202 and EV203 of the hold-up reserve (R239, R426, Table 6 of 09_badger): the limit below 16 KiB once after each cold
start, while VHOLD charges with cause 0x03, and a reserve below 62.5 µJ with its record, once while it lasts. -/
def noteReserve (s : State) : State :=
  let b := s.badger
  let limited := decide (b.bufLimit < 16384)
  let s := if limited && b.vholdMv < 3300 then reserveEvent 3 s
    else if limited && !b.ev202 then reserveEvent 1 (s.setBadger (fun b => { b with ev202 := true }))
    else s
  let low := decide (b.eRes < 62500)
  let d := le16 (satN (b.eRes / 1000) 16) ++ [0, 0]
  let s := if low && !b.ev203 then denEvent 5 203 0x0200 d (raise 203 d s) else s
  s.setBadger (fun b => { b with ev203 := low })

end Sys2Proof.Machine
end

