-- ==== Sys2Proof/Machine/EngineEv.lean ====
section
/-! DEFINITION. Engine failures and recoveries (R11, R17 to R19, R390, R391) and the supervisor watchdog (R385). -/

namespace Sys2Proof.Machine

/-- Engines by number in ENGINE records (log entry 34): cores 0 to 7, sequencers 0x10 + channel, datapaths 0x20 + bank. -/
def engineCode : Engine → Byte
  | .core n => BitVec.ofNat 8 n.val
  | .seqr c => BitVec.ofNat 8 (16 + c.val)
  | .datapath b => BitVec.ofNat 8 (32 + b.val)

/-- Cores C1 to C7 and the datapaths report heartbeats (R18). -/
def Engine.beats : Engine → Bool
  | .core n => n != 0
  | .seqr _ => false
  | .datapath _ => true

/-- The engine is failed and in recovery. -/
def State.engineDown (s : State) (e : Engine) : Bool := s.sys.failedEngines.any (·.engine == e)

/-- The engine has recovered within the last second (R391). -/
def State.recentlyRecovered (s : State) (e : Engine) : Bool :=
  s.sys.recoveries.any (fun r => r.1 == e && decide (s.sys.now < r.2 + 10000000))

/-- What stops with an engine (R19, R102, R160, R293). -/
def engineStops (e : Engine) (s : State) : State :=
  match e with
  | .core n =>
    if n = 1 ∨ n = 2 ∨ n = 3 then
      s.setPort ⟨(n.val - 1) % 3, Nat.mod_lt _ (by decide)⟩ (fun q => { q.freeze s.sys.now with cmdBuf := [] })
    else if n = 4 then overAll (bankChs 0) mdmAbort s
    else if n = 5 then overAll (bankChs 1) mdmAbort s
    else s
  | .seqr _ => s
  | .datapath b => s.setHolm b (fun h => { h with reloadDp := h.reloadDp || h.up })

/-- An engine counts as failed and its recovery begins; a second failure during a recovery, or within 1 s of the engine's own
recovery, is a warm start instead (R391). -/
def failEngine (e : Engine) (cause : Byte) (s : State) : State :=
  if s.engineDown e then s
  else
    let escalate := !s.sys.failedEngines.isEmpty || s.recentlyRecovered e
    let s := s.setSys (fun y => { y with failedEngines := y.failedEngines ++ [FailedEngine.mk e cause y.now] })
    let s := arise (.load e) (engineStops e s)
    if escalate then leaveOperation 3 s else s

def heartbeatMiss (e : Engine) (s : State) : State :=
  if s.sys.vddOk && Engine.beats e then failEngine e 1 s else s

def execHeartbeatMiss (e : Engine) (s : State) : Host.Outcome State Fault Refusal := .next (heartbeatMiss e s)

/-- Time from the fault to its detection, in µs (Table 4 of 15_start_update_security). -/
def detectUs (e : Engine) (cause : Byte) : Nat :=
  if cause = 3 then 0 else if cause = 2 then 1 else match e with | .datapath _ => 21 | _ => 200

/-- The ENGINE record and EV248 (R391, Table 11 of 15_start_update_security; layout in log entry 34). -/
def noteRecovery (e : Engine) (cause : Byte) (us : Nat) (s : State) : State :=
  let d := [engineCode e, cause] ++ le16 (satN us 16)
  let s := s.setSys (fun y => { y with recoveries := (e, y.now) :: y.recoveries.filter (fun r => r.1 != e) })
  raise 248 d (denWrite 0x0122 3 d s)

/-- What resumes with an engine: a port serves, late stream records are delivered, the Badger rebuilds its ledgers and evaluates,
the Den flushes (R19, R218, R374). -/
def engineResumes (e : Engine) (s : State) : State :=
  match e with
  | .core n =>
    if n = 1 ∨ n = 2 ∨ n = 3 then s.setPort ⟨(n.val - 1) % 3, Nat.mod_lt _ (by decide)⟩ (·.serve s.sys.now)
    else if n = 4 then flushStream 0 s
    else if n = 5 then flushStream 1 s
    else if n = 6 then submitRestores 0 (submitRestores 1 (rebuildLedgers s))
    else if n = 7 then (if s.den.buf.isEmpty && s.den.legWait.isEmpty then s else flush s)
    else s
  | .seqr _ => s
  | .datapath _ => s

/-- The engine is loaded over the link of a Holm whose journal is still to be read (R30). -/
def State.loadWaits (s : State) : Engine → Bool
  | .core _ => false
  | .seqr c => s.journalWaits (bankOf c)
  | .datapath b => s.journalWaits b

/-- A reload ends (R390), once it has had an internal slot (R314); a component that fails its check on a second read makes it a warm start (R391). -/
def engineRecovery (e : Engine) (checkOk : Bool) (s : State) : State :=
  match s.sys.failedEngines.find? (·.engine == e) with
  | some f =>
    if !s.sys.vddOk || s.internalWaits (.load e) || s.loadWaits e then s
    else if !checkOk then leaveOperation 3 s
    else
      let us := detectUs e f.cause + (s.sys.now - f.at_) / 10
      let s := s.setSys (fun y => { y with failedEngines := y.failedEngines.filter (fun x => x.engine != e) })
      let s := endInternal (.load e) s
      noteRecovery e f.cause us (engineResumes e s)
  | none => s

def execEngineRecovery (e : Engine) (checkOk : Bool) (s : State) : Host.Outcome State Fault Refusal :=
  .next (engineRecovery e checkOk s)

/-- C0's lockstep checker fires: the boot ROM reloads C0 alone (R17, R390), which ENGINE_RECOVERY ends, or a warm start begins when
it fires twice within 1 s or during another engine's recovery (R391). -/
def lockstepFault (s : State) : State :=
  if !s.sys.vddOk then s
  else if s.engineDown (.core 0) then leaveOperation 3 s
  else failEngine (.core 0) 2 s

def execLockstepFault (s : State) : Host.Outcome State Fault Refusal := .next (lockstepFault s)

/-- The double-bit error's own record (R11): an EVENT record that accompanies no event, at FAULT, with the engine's number or
0xFF for shared structures (log entry 34). -/
def recordDbe (code : Byte) (s : State) : State := denEvent 4 0xFF 0x0700 [code, 0, 0, 0] s

/-- A record of the buffer that an error destroyed is not written (R374). -/
def loseRecord (hit : Option Nat) (s : State) : State :=
  match hit with
  | some n =>
    if s.den.buf.any (fun r => r.seq == n) then
      s.setDen (fun d => { d with buf := d.buf.filter (fun r => r.seq != n), lostInBuf := d.lostInBuf + 1 })
    else s
  | none => s

/-- A double-bit error (R11): the core counts as failed, or a warm start begins. -/
def doubleBitError (place : DbePlace) (s : State) : State :=
  if !s.sys.vddOk then s
  else
    match place with
    | .engine n => failEngine (.core ⟨n.val + 1, by omega⟩) 3 (recordDbe (BitVec.ofNat 8 (n.val + 1)) s)
    | .shared hit => leaveOperation 4 (recordDbe 0xFF (loseRecord hit s))

def execDoubleBitError (place : DbePlace) (s : State) : Host.Outcome State Fault Refusal := .next (doubleBitError place s)

/-- C0 has not serviced the supervisor watchdog for 10 ms (R385). -/
def supervisorWatchdog (s : State) : State := if s.sys.vddOk then leaveOperation 3 s else s

def execSupervisorWatchdog (s : State) : Host.Outcome State Fault Refusal := .next (supervisorWatchdog s)

end Sys2Proof.Machine
end

