-- ==== Sys2Proof/Machine/FltCmds.lean ====
section
/-! DEFINITION. The FLT family (chapter 04): FLT.LOAD (R97), FLT.ROM (R98), FLT.SWAP (R99 to R101), with the order of R469. -/

namespace Sys2Proof.Machine

/-- Stage number of a filter, from 0. -/
def Filt.stage (f : Filt) (k : Nat) : Stage := if k = 0 then f.s1 else if k = 1 then f.s2 else f.s3

/-- A filter with the idle bank of one stage replaced. -/
def Filt.withIdle (f : Filt) (k : Nat) (b : BankContent) : Filt :=
  if k = 0 then { f with s1 := f.s1.setIdle b }
  else if k = 1 then { f with s2 := f.s2.setIdle b }
  else { f with s3 := f.s3.setIdle b }

/-- The coefficient words of a payload from a position. -/
def wordsAt (d : List Byte) (i n : Nat) : List (BitVec 32) := (List.range n).map (fun k => word32 d (i + 4 * k))

/-- n words put in place of those from `first` on; a bank holds 256 words. -/
def overlay (old new : List (BitVec 32)) (first : Nat) : List (BitVec 32) :=
  (List.range 256).map (fun i =>
    if first ≤ i ∧ i < first + new.length then new.getD (i - first) 0 else old.getD i 0)

/-- What a FLT.LOAD leaves in an idle bank of stage k (R97); none where DESC = 0 finds no descriptor to edit. -/
def loadBank (b : BankContent) (k : Nat) (desc : Option (BitVec 64)) (words : List (BitVec 32)) (first : Nat) :
    Option BankContent :=
  match desc with
  | some d => some (.desc d (overlay [] words first))
  | none =>
    match b with
    | .desc d w => some (.desc d (overlay w words first))
    | .copy e =>
      if words.isEmpty then some (.copy e) else some (.desc (romDesc e.val k) (overlay (romWords e.val k) words first))
    | .empty => none
    | .rom _ => none

/-- Reserved bits and field values of a stage descriptor (Table 1 of 04_filter_chain). -/
def descReserved (d : BitVec 64) : Bool := rsvZero d 0x3F00000F00FFFFFF#64
def descRange (d : BitVec 64) : Bool :=
  let t := fld d 63 62
  t != 3 && (t != 2 || (fld d 55 48 ≤ 7 && fld d 39 36 == 0)) && (t != 1 || fld d 39 36 ≤ fld d 47 40)

/-- Demand of the bank with some idle banks of a channel swapped in. -/
def idleFits (s : State) (c : Ch) (f : Filt) (mask : BitVec 3) : Bool :=
  let ch := { s.ch c with filt := f.swapped mask false 0 0 }
  decide (bankDemand s (bankOf c) c ch.chain ≤ capacity)

def fltLoad (r : Req) (c : Ch) (s : State) : Res :=
  let d := r.payload
  let fl := byteAt d 1
  let hd := if bit fl 0 then 12 else 4
  let n := (d.length - hd) / 4
  let first := leAt d 2 2
  let desc : Option (BitVec 64) := if bit fl 0 then some (word64 d 4) else none
  let stg := leAt d 0 1
  let f := (s.ch c).filt
  let old := (f.stage (stg - 1)).idle
  let new := loadBank old (stg - 1) desc (wordsAt d hd n) first
  let after := f.withIdle (stg - 1) (new.getD old)
  checked [(s.legalOk r.port c, stE_LEGAL), ((s.ch c).mode.usesFilter, stE_MODE),
      (d.length ≥ hd && (d.length - hd) % 4 == 0 && rsvZero fl 0xFE &&
        (match desc with | some x => descReserved x | none => true), stE_FORMAT),
      (1 ≤ stg && stg ≤ 3 && first ≤ 255 && first + n ≤ 256 && (match desc with | some x => descRange x | none => true) &&
        idleFits s c after (BitVec.ofNat 3 (2 ^ (stg - 1))), stE_RANGE),
      (new.isSome, stE_STATE)] s
    (legalChange 0x0501 r (s.isLegal c) (fun s => s.setCh c (fun ch => { ch with filt := after })) ok s)

def execFltLoad (r : Req) (s : State) : Host.Outcome State Fault Refusal := .next (runCh 0x0501 r s (fltLoad r))

/-- The idle bank that FLT.ROM leaves in stage k: a bypass where the entry defines none (R98). -/
def romBank (e : Fin 16) (copy : Bool) (k : Nat) : BankContent :=
  if (romStages e.val).length ≤ k then .desc 0 (List.replicate 256 0)
  else if copy then .copy e else .rom e

def fltRom (r : Req) (c : Ch) (s : State) : Res :=
  let d := r.payload
  let e : Fin 16 := ⟨leAt d 0 1 % 16, Nat.mod_lt _ (by decide)⟩
  let copy := byteAt d 1 == 1
  let f := (s.ch c).filt
  let after := ((f.withIdle 0 (romBank e copy 0)).withIdle 1 (romBank e copy 1)).withIdle 2 (romBank e copy 2)
  checked [(s.legalOk r.port c, stE_LEGAL), ((s.ch c).mode.usesFilter, stE_MODE),
      (d.length == 4 && zeroBytes d 2 2, stE_FORMAT),
      (leAt d 0 1 ≤ 15 && leAt d 1 1 ≤ 1 && idleFits s c after 7, stE_RANGE)] s
    (legalChange 0x0502 r (s.isLegal c) (fun s => s.setCh c (fun ch => { ch with filt := after })) ok s)

def execFltRom (r : Req) (s : State) : Host.Outcome State Fault Refusal := .next (runCh 0x0502 r s (fltRom r))

/-- Every pole of every section lies within radius 0.9999 (Table 7 of 04_filter_chain): the characteristic polynomial of
the poles scaled by 10000 / 9999 has no root outside the unit circle. -/
def polesOk (g : SCfg) : Bool :=
  g.typ != 2 || (List.range g.n).all (fun j =>
    let a1 := g.coef (5 * j + 3)
    let a2 := g.coef (5 * j + 4)
    let one : Int := 1073741824
    decide (a2 * 100000000 ≤ one * 99980001) &&
      decide (|a1| * 9999 * 10000 ≤ one * 99980001 + a2 * 100000000))

/-- FLT.SWAP's checks after legality and mode (Table 7 of 04_filter_chain). -/
def swapChecks (c : Ch) (w : BitVec 32) (len : Nat) (s : State) : List (Bool × Byte) :=
  let ch := s.ch c
  let smask : BitVec 3 := BitVec.ofNat 3 (fld w 27 25)
  let chw := bit w 24
  let mdiv := fld w 23 11
  let after := { ch with filt := ch.filt.swapped smask chw (BitVec.ofNat 13 mdiv) (BitVec.ofNat 8 (fld w 7 0)) }
  let cfg := after.chain
  let out (x : ℚ) : Bool := decide (5 / 2 ≤ x)
  [(len == 4 && rsvZero w 0xF0000700#32, stE_FORMAT),
   ([0, 1, 2].all (fun k => !bit smask k || (match (ch.filt.stage k).idle with | .empty => false | _ => true)), stE_STATE),
   (0x1000 ≤ mdiv && mdiv ≤ 0x1800 && 0x0F ≤ fld w 7 0 &&
      (!ch.carrierMode || (mdiv == 0x1000 && fld w 7 0 == 0x0F)), stE_RANGE),
   (cfg.st.all (fun g => (g.typ != 1 || decide (g.l ≤ g.m)) && polesOk g), stE_RANGE),
   (match cfg.carrier with
    | none => out cfg.fout && decide (cfg.fout ≤ 19200)
    | some f => out cfg.fout && decide (cfg.fout ≤ (carrierHz f : ℚ) / 2), stE_RANGE),
   (decide (bankDemand s (bankOf c) c cfg ≤ capacity), stE_RANGE),
   (!ch.carrierMode || cfg.sbeDeclared, stE_RANGE),
   (!ch.carrierMode || (s.newPlan (bankOf c) (posOf c) after).isSome, stE_RANGE)]

/-- f_mod or M_0 rises: Badger admission (Table 7 of 04_filter_chain). -/
def swapRises (ch : Chan) (w : BitVec 32) : Bool :=
  bit w 24 && (decide (fld w 23 11 < ch.filt.mdiv.toNat) || decide (ch.filt.sdecm1.toNat < fld w 7 0))

def fltSwap (r : Req) (c : Ch) (s : State) : Res :=
  let w := word32 r.payload 0
  checked ([(s.legalOk r.port c, stE_LEGAL), ((s.ch c).mode.usesFilter, stE_MODE)] ++
      (if r.payload.length == 4 && w &&& 0xFF000700#32 == 0 then [] else swapChecks c w r.payload.length s)) s
    (if w &&& 0x0F000000#32 == 0 then ok (evaluate s)
     else if swapRises (s.ch c) w then .held (submit 0x0503 r (.rate c w) (ClampMeas.mk []) s)
     else .held (swapAccept c w 0x0503 r (evaluate s)))

def execFltSwap (r : Req) (s : State) : Host.Outcome State Fault Refusal := .next (runCh 0x0503 r s (fltSwap r))

end Sys2Proof.Machine
end

