-- ==== Sys2Proof/Machine/OwnCmds.lean ====
section
/-! DEFINITION. The OWN family: OWN.CLAIM (R328), OWN.RELEASE (R329), OWN.RESUME (R260) and OWN.QUERY (R330), and what a change
of owner breaks (R128, R344). -/

namespace Sys2Proof.Machine

/-- A comparator's action is no longer between two channels of one owner (R128). -/
def unlinked (s : State) (c : Ch) (t : Thr) : Bool :=
  t.act != 0 && ((s.ch c).owner == none || (s.ch c).owner != (s.ch t.tgt).owner)

/-- Comparators that a change of owner of some channels unlinks become DISARMED; those that were not so already report 0x06
with their last evaluation (R128). -/
def unlink (changed : List Ch) (s : State) : State :=
  overAll allCh (fun c s => overAll (List.finRange 4) (fun k s =>
    let t := (s.ch c).thr[k]
    if unlinked s c t && (changed.contains c || changed.contains t.tgt) && t.st != .disarmed then
      thrEvent c false (thrPayload k false t.tgt 6 (t.lastEval.getD (EvalInfo.mk 0 0 0 0))) (disarm c (· == k) s)
    else s) s) s

/-- Sets an object's owner, with EV184 (R329); a unit whose owner changes is reset (R344). -/
def setOwner (obj : BitVec 16) (o : Option Port) (s : State) : State :=
  let old := s.ownerOf obj
  if old = o then s
  else
    let s := match chOf obj with
      | some c => unlink [c] (s.setCh c (fun ch => { ch with owner := o }))
      | none =>
        match holmOf obj with
        | some b => s.setHolm b (fun h => { h with owner := o })
        | none =>
          match unitOf obj with
          | some u => s.setUnit u (fun x => { CrcUnit.reset with owner := o, mism := x.mism, bound := x.bound })
          | none => if obj = 0x0200 then s.setBadger (fun b => { b with owner := o }) else s
    raise 184 (le16 obj.toNat ++ [ownerByte old, ownerByte o]) s

/-- The objects a claim acts on: both members of a pair (R328). -/
def State.claimObjs (s : State) (obj : BitVec 16) : List (BitVec 16) :=
  match chOf obj with
  | some c => (s.members c).map chObj
  | none => [obj]

/-- OWN.CLAIM's decision (Table 12 of 12_mailbox_operations). -/
def claimStatus (s : State) (p : Port) (obj : BitVec 16) (take : Bool) : Byte :=
  let legal := match chOf obj with | some c => s.isLegal c | none => false
  if legal then (if s.isLegalPort p then stOK else stE_LEGAL)
  else
    match s.ownerOf obj with
    | none => stOK
    | some q => if q = p || (take && (s.port q).wdExpired) then stOK else stE_OWNER

def ownClaim (r : Req) (s : State) : Res :=
  let d := r.payload
  let st := claimStatus s r.port r.obj (bit (byteAt d 0) 0)
  checked [(d.length == 4 && rsvZero (byteAt d 0) 0xFE && zeroBytes d 1 3, stE_FORMAT), (st == stOK, st)] s
    (ok (overAll (s.claimObjs r.obj) (fun o s => setOwner o (some r.port) s)
      (match s.ownerOf r.obj with
       | some q => if q = r.port then s else raise (portSrc q 7) [] s
       | none => s)))

def execOwnClaim (r : Req) (s : State) : Host.Outcome State Fault Refusal := .next (runMail 0x0D01 r s (ownClaim r))

/-- OWN.RELEASE (R329): refused while an output is energised at level 5 (R55), by its level or by the code of a trim session (R146). -/
def ownRelease (r : Req) (s : State) : Res :=
  let ch? := chOf r.obj
  checked [(r.payload.length == 4 && zeroBytes r.payload 0 4, stE_FORMAT),
      (match ch? with | some c => !s.isLegal c | none => true, stE_LEGAL),
      (match ch? with
       | some c => !((s.ch c).mode.isOutput && (energised (s.ch c).mode (s.ch c).l5 || (s.ch c).loop.trimNa.isSome)) && !(s.ch c).paired
       | none => true, stE_STATE)] s
    (ok (setOwner r.obj none s))

def execOwnRelease (r : Req) (s : State) : Host.Outcome State Fault Refusal :=
  .next (runMail 0x0D02 r s (ownRelease r))

/-- Level 3 ends on a channel, keeping what it demands or not (R260); on either member of a pair it ends on both (DESIGN CHOICE, log entry
142). -/
def resume (keep : Bool) (c : Ch) (s : State) : State :=
  match (s.ch (s.lead c)).l3 with
  | none => s
  | some h =>
    let d := s.l3Demand c h
    let s := if keep && (s.ch c).mode.isOutput && normDemand (s.ch c).mode (s.ch c).l5 != d then
        setL5 c d (s.setCh c (fun ch => { ch with loop := { ch.loop with alarm := false, fallback := false } }))
      else s
    evalOut c (overAll (s.members c) (fun m s => s.setCh m (fun ch => { ch with l3 := none })) s)

/-- The channels OWN.RESUME acts on. -/
def resumeChs (r : Req) (s : State) : List Ch :=
  match chOf r.obj with
  | some c => [c]
  | none => allCh.filter (fun c => (s.ch c).owner == some r.port)

/-- OWN.RESUME (R260); a lost link of a Holm whose channel it concerns refuses it as a whole (Table 8 of
10_supplies_and_safe_states; log entry 118). -/
def ownResume (r : Req) (s : State) : Res :=
  let d := r.payload
  checked [(d.length == 4 && rsvZero (byteAt d 0) 0xFE && zeroBytes d 1 3, stE_FORMAT),
      ((resumeChs r s).all (fun c => s.whole (bankOf c)), stE_STATE)] s
    (ok (overAll (resumeChs r s) (resume (bit (byteAt d 0) 0)) s))

def execOwnResume (r : Req) (s : State) : Host.Outcome State Fault Refusal := .next (runMail 0x0D03 r s (ownResume r))

/-- OWN.QUERY's 24 bytes (R330). -/
def ownQueryData (s : State) : List Byte :=
  allCh.map (fun c => ownerByte (s.ch c).owner) ++ [ownerByte (s.holm 0).owner, ownerByte (s.holm 1).owner,
    ownerByte s.badger.owner] ++ (List.finRange 4).map (fun u => ownerByte (s.unit u).owner) ++ [0]

def execOwnQuery (r : Req) (s : State) : Host.Outcome State Fault Refusal :=
  .next (runMail 0x0D04 r s (fun s =>
    checked [(r.payload.length == 0, stE_FORMAT)] s (okData (ownQueryData s) s)))

end Sys2Proof.Machine
end

