-- ==== Sys2Proof/Machine/LglCmds.lean ====
section
/-! DEFINITION. The LGL family: LGL.GET (R334) and LGL.DECLARE (R335). -/

namespace Sys2Proof.Machine

/-- LGL.GET's 80 bytes (R334; zeros on the HY1624-PA, R3). -/
def lglData (s : State) : List Byte :=
  s.legalField (le16 s.legal.mask.toNat ++ [bitsByte [s.lglBit, s.legal.port.isSome], 0] ++ le32 s.den.lec.toNat ++
    (legId (s.infoOf s.upd.run)).take 6 ++ [0, 0]) ++ s.legalDigest

def execLglGet (r : Req) (s : State) : Host.Outcome State Fault Refusal :=
  .next (runMail 0x0E01 r s (fun s =>
    checked [(r.payload.length == 0, stE_FORMAT)] s (okData (lglData s) s)))

/-- The channels a new mask adds. -/
def addedChs (s : State) (mask : BitVec 16) : List Ch := allCh.filter (fun c => bit mask c.val && !s.isLegal c)

/-- The mask takes effect: an unowned channel added passes to the legal port; a legal channel is in shed class 0 (R335, R234). -/
def declareNow (p : Port) (mask : BitVec 16) (s : State) : State :=
  let added := addedChs s mask
  let s := overAll added (fun c s => setOwner (chObj c) (some p) (s.setCh c (fun ch => { ch with shcls := 0 }))) s
  { s with legal := { s.legal with mask := mask } }

def lglDeclare (r : Req) (s : State) : Res :=
  let d := r.payload
  let mask := word16 d 0
  let added := addedChs s mask
  checked [(s.isLegalPort r.port && !s.legal.sealed, stE_LEGAL), (d.length == 4 && zeroBytes d 2 2, stE_FORMAT),
      (added.all (fun c => (s.ch c).owner == none || (s.ch c).owner == some r.port), stE_OWNER),
      (added.all (fun c => (s.ch c).mode.mayBeLegal), stE_MODE)] s
    (legalChange 0x0E02 r true (declareNow r.port mask) ok s)

def execLglDeclare (r : Req) (s : State) : Host.Outcome State Fault Refusal := .next (runMail 0x0E02 r s (lglDeclare r))

end Sys2Proof.Machine
end

