-- ==== Sys2Proof/Machine/LoopCmds.lean ====
section
/-! DEFINITION. The LOOP family (chapter 06): LOOP.CFG (R135, R142), LOOP.SET (R136, R138) and LOOP.TRIM (R146, R147). -/

namespace Sys2Proof.Machine

/-- Alarm direction of a strap and an ALMDIR setting (Table 5 of 06_loops_and_modem): high?, and whether LOOP.CFG may. -/
def alarmDir (st : Strap) (dir : Nat) : Bool × Bool :=
  match st with
  | .high => (dir != 1, true)
  | .low | .open_ => (dir == 2, true)
  | .lockLow | .invalid => (false, dir != 2)
  | .lockHigh => (true, dir != 1)

/-- A field that Table 3 of 06_loops_and_modem does not list for the mode holds its reset value (R135). -/
def loopForeign (m : Mode) (w : BitVec 64) : Bool :=
  if m.isLoopOut then !bit w 8
  else fld w 63 48 == 0x53FC && fld w 47 32 == 0x0DDE && fld w 23 16 == 0 && fld w 11 10 == 0 && bit w 9

/-- Ranges of the fields that an output mode has (Table 3 of 06_loops_and_modem). -/
def loopRange (w : BitVec 64) : Bool :=
  21000 ≤ fld w 63 48 && fld w 63 48 ≤ 23000 && 3500 ≤ fld w 47 32 && fld w 47 32 ≤ 3600 && fld w 11 10 != 3

/-- A new loop word: the alarm direction is resolved (R142); a ramp goes on at the new rate from where it stands; without
NE43EN the class is that of a measurement (log entry 31). -/
def setLoopWord (c : Ch) (w : BitVec 64) (s : State) : State :=
  let strap := (s.holm (bankOf c)).strap
  s.setCh c (fun ch => { ch with loop := { ch.loop with
    word := w
    dirHigh := (alarmDir strap (fld w 11 10)).1
    cls := if bit w 8 then ch.loop.cls else 2
    rampFrom := ch.rampNow s.sys.now
    rampAt := s.sys.now } })

def loopCfg (r : Req) (c : Ch) (s : State) : Res :=
  let m := (s.ch c).mode
  let w := word64 r.payload 0
  checked [(m.isLoop, stE_MODE), (r.payload.length == 8 && rsvZero w 0x00000000FF00F0FF#64, stE_FORMAT),
      (!m.isLoopOut || loopRange w, stE_RANGE), (loopForeign m w, stE_MODE),
      (!m.isLoopOut || (alarmDir (s.holm (bankOf c)).strap (fld w 11 10)).2, stE_STATE)] s
    (ok (setLoopWord c w s))

def execLoopCfg (r : Req) (s : State) : Host.Outcome State Fault Refusal := .next (runCh 0x0601 r s (loopCfg r))

/-- The target of a LOOP.SET in nA (R136); the low alarm of a fall-back stays while the alarm is demanded (R140). -/
def loopTarget (ch : Chan) (d : List Byte) : Nat :=
  if bit (byteAt d 4) 0 then ch.alarmTarget else leAt d 0 4

def loopSet (r : Req) (c : Ch) (s : State) : Res :=
  let d := r.payload
  let ch := s.ch c
  let alarm := bit (byteAt d 4) 0
  let cur := leAt d 0 4
  checked [(ch.mode.isLoopOut, stE_MODE), (d.length == 8 && rsvZero (byteAt d 4) 0xFE && zeroBytes d 5 3, stE_FORMAT),
      (if alarm then cur == 0 else decide (cur ≤ 24000000) && (ch.mode != .aot || decide (3500000 ≤ cur)), stE_RANGE),
      (ch.loop.session == .none && !ch.parked && (s.govern c).1 == 5, stE_STATE)] s
    (.held (submit 0x0602 r (.loopSet c (loopTarget ch d) alarm) (ClampMeas.mk []) (cancelRestore c s)))

def execLoopSet (r : Req) (s : State) : Host.Outcome State Fault Refusal := .next (runCh 0x0602 r s (loopSet r))

/-- A trim session moves on, and the output takes the code's current at level 5 (Table 8 of 06_loops_and_modem). -/
def setSession (c : Ch) (t : TrimSession) (s : State) : State :=
  evalOut c (s.setCh c (fun ch => { ch with loop := { ch.loop with session := t } }))

/-- The trim points lie within 400 µA of their codes' nominal currents (R147). -/
def trimOk (m4 m20 : Nat) : Bool :=
  decide (m4 ≤ 4400125 ∧ 3600125 ≤ m4 ∧ m20 ≤ 20399875 ∧ 19599875 ≤ m20)

/-- The step of a LOOP.TRIM (Table 8 of 06_loops_and_modem). On a parked channel the steps are accepted and the session moves on, while
the output stays at 4.0 mA (R159; DESIGN CHOICE, log entry 127). -/
def trimStep (r : Req) (c : Ch) (s : State) : Res :=
  let d := r.payload
  let m := leAt d 4 4
  let free := (s.ch c).loop.session == .none && (s.govern c).1 == 5
  match (byteAt d 0).toNat, (s.ch c).loop.session with
  | 0, .none => .done s stE_STATE [] 0
  | 0, _ => ok (setSession c .none s)
  | 1, _ => if free then ok (setSession c .atC4 s) else .done s stE_STATE [] 0
  | 2, .atC4 => ok (setSession c (.atC20 m) s)
  | 3, .atC20 m4 =>
    if trimOk m4 m then .held (submit 0x0603 r (.mramTrim c m4 m false) (ClampMeas.mk []) s)
    else .done s stE_RANGE [] 0
  | 4, _ =>
    if free then .held (submit 0x0603 r (.mramTrim c 0 0 true) (ClampMeas.mk []) s) else .done s stE_STATE [] 0
  | _, _ => .done s stE_STATE [] 0

/-- LOOP.TRIM (R146). Bytes 4 to 7 carry the measured current of P4 and P20; in another step the rule does not call them reserved
and they are not judged (DESIGN CHOICE, log entry 113). -/
def loopTrim (r : Req) (c : Ch) (s : State) : Res :=
  let d := r.payload
  checked [(s.legalOk r.port c, stE_LEGAL), ((s.ch c).mode.isLoopOut, stE_MODE),
      (d.length == 8 && zeroBytes d 1 3, stE_FORMAT)] s (trimStep r c s)

def execLoopTrim (r : Req) (s : State) : Host.Outcome State Fault Refusal := .next (runCh 0x0603 r s (loopTrim r))

end Sys2Proof.Machine
end

