-- ==== Sys2Proof/Machine/MdmCmds.lean ====
section
/-! DEFINITION. The modem's commands MDM.CFG (R152, R159), MDM.SEND (R155), MDM.READ (R156) and MDM.REPLY (R157), and the
frames they form (R151). -/

namespace Sys2Proof.Machine

/-- The modem runs on a channel: a loop mode with MDM = 1 (R152). -/
def Chan.modem (ch : Chan) : Bool := ch.mode.isLoop && ch.mdmOn

/-- ROLE of a modem word (Table 10 of 06_loops_and_modem). -/
def mdmRole (w : BitVec 32) : Nat := fld w 23 22
def Chan.master (ch : Chan) : Bool := mdmRole ch.mdm.word < 2

/-- A new modem word; an AOT channel whose POLLADR leaves 0 is parked at 4.0 mA under SLEW (R159): a new target at level 5, which
ends an alarm (R140). Parking, and its end, end an open trim session as by CANCEL, so that 4.0 mA stands at level 5 after both (DESIGN
CHOICE, log entry 127). -/
def setModem (c : Ch) (w : BitVec 32) (uid : BitVec 38) (s : State) : State :=
  let was := (s.ch c).parked
  let s := s.setCh c (fun ch => { ch with mdm := { ch.mdm with word := w, uid := uid } })
  let s := if (s.ch c).parked != was then endTrim c s else s
  if (s.ch c).parked && !was then
    evalOut c ((setL5 c (.cur 4000000) s).setCh c (fun ch => { ch with
      loop := { ch.loop with alarm := false, fallback := false } }))
  else evalOut c s

/-- MDM.CFG (R152). The reserved ROLE 0b11 is a reserved value, E_RANGE by R8, before the mode is judged (DESIGN CHOICE, log entry
135). -/
def mdmCfg (r : Req) (c : Ch) (s : State) : Res :=
  let d := r.payload
  let w := word32 d 0
  let role := mdmRole w
  let aot := (s.ch c).mode == .aot
  checked [((s.ch c).modem, stE_MODE),
      (d.length == 12 && rsvZero w 0xFF000F00#32 && zeroBytes d 9 3 && rsvZero (byteAt d 8) 0xC0, stE_FORMAT),
      (role != 3 && (role == 2 || fld w 21 16 == 0) && decide (fld w 15 12 ≤ 3) && decide (10 ≤ fld w 7 0) &&
        decide (fld w 7 0 ≤ 240), stE_RANGE),
      ((role == 2) == aot, stE_MODE)] s
    (ok (setModem c w (BitVec.ofNat 38 (leAt d 4 5)) s))

def execMdmCfg (r : Req) (s : State) : Host.Outcome State Fault Refusal := .next (runCh 0x0701 r s (mdmCfg r))

/-- A master request of a payload (R155). -/
def mdmTxOf (txn : BitVec 16) (d : List Byte) : MdmTx :=
  MdmTx.mk txn (bit (byteAt d 0) 0) (byteAt d 1) (BitVec.ofNat 6 (leAt d 2 1)) (BitVec.ofNat 38 (leAt d 3 5)) (byteAt d 8)
    (d.drop 9)

/-- Queues a request and returns its transaction number. -/
def queueTx (c : Ch) (d : List Byte) (s : State) : State :=
  s.setCh c (fun ch => { ch with mdm := { ch.mdm with
    txq := ch.mdm.txq ++ [mdmTxOf ch.mdm.nextTxn d]
    nextTxn := ch.mdm.nextTxn + 1 } })

/-- MDM.SEND (R155). One that executes while its Holm's modem serves nothing, in an engine recovery, is accepted and its frame sent
afterwards (DESIGN CHOICE, log entry 130: R160 names the frames that were queued before). -/
def mdmSend (r : Req) (c : Ch) (s : State) : Res :=
  let d := r.payload
  let ch := s.ch c
  let long := bit (byteAt d 0) 0
  checked [(ch.modem && ch.master, stE_MODE),
      (9 ≤ d.length && d.length ≤ 264 && rsvZero (byteAt d 0) 0xFE && rsvZero (byteAt d 2) 0xC0 &&
        rsvZero (byteAt d 7) 0xC0, stE_FORMAT),
      (5 ≤ leAt d 1 1 && leAt d 1 1 ≤ 20 && (if long then leAt d 2 1 == 0 else leAt d 3 5 == 0), stE_RANGE),
      (decide (ch.mdm.txq.length < 8), stE_FULL)] s
    (okData (le16 ch.mdm.nextTxn.toNat) (queueTx c d s))

def execMdmSend (r : Req) (s : State) : Host.Outcome State Fault Refusal := .next (runCh 0x0702 r s (mdmSend r))

/-- The bytes of a receive entry (Table 12 of 06_loops_and_modem). -/
def MdmEntry.bytes (e : MdmEntry) : List Byte :=
  [e.kind, e.info] ++ le16 e.txn.toNat ++ le48 (e.ts % 2 ^ 48) ++ [BitVec.ofNat 8 (satN e.frame.length 8)] ++ e.frame

/-- The entry MDM.READ returns; KIND 0x00 when the buffer is empty. -/
def mdmOldest (m : Mdm) : MdmEntry :=
  match m.rx with
  | [] => MdmEntry.mk 0 0 0 0 []
  | e :: _ => e

def mdmRead (r : Req) (c : Ch) (s : State) : Res :=
  let ch := s.ch c
  checked [(ch.modem, stE_MODE), (r.payload.length == 0, stE_FORMAT)] s
    (okData (mdmOldest ch.mdm).bytes
      (s.setCh c (fun ch => { ch with mdm := { ch.mdm with rx := ch.mdm.rx.drop 1 } })))

def execMdmRead (r : Req) (s : State) : Host.Outcome State Fault Refusal := .next (runCh 0x0703 r s (mdmRead r))

/-- A frame on the loop: preamble, the bytes from delimiter to data, and their XOR (R151). -/
def mdmFrame (preamb : Nat) (body : List Byte) : List Byte :=
  List.replicate preamb 0xFF ++ body ++ [body.foldl (· ^^^ ·) 0]

/-- The 5 address bytes of a long frame, most significant first (log entry 32), under the master bit. -/
def longAddr (a : BitVec 38) (master : Bool) : List Byte :=
  (BitVec.ofNat 8 (a.toNat / 2 ^ 32 + 128 * b2n master)) :: (leBytes a.toNat 4).reverse

/-- The body of a master's request (R155). -/
def MdmTx.body (t : MdmTx) (primary : Bool) : List Byte :=
  (if t.long then [0x82] ++ longAddr t.laddr primary
   else [0x02, BitVec.ofNat 8 (t.saddr.toNat + 128 * b2n primary)]) ++ [t.cmd, BitVec.ofNat 8 t.data.length] ++ t.data

/-- The body of a field device's reply to a request (R157); its burst bit is clear (R158). -/
def replyBody (q : MdmReq) (data : List Byte) : List Byte :=
  (if q.long then [0x86] else [0x06]) ++ (q.addr.take 1).map (· &&& 0xBF) ++ q.addr.drop 1 ++
    [q.cmd, BitVec.ofNat 8 data.length] ++ data

/-- Ticks that n characters last (R151: 11 bits at 1200 bit/s). -/
def charTicks (n : Nat) : Nat := 275000 * n / 3

/-- Replies can be sent: the link is up and the serving core runs (R160), and no host loss stands (Table 13 of
06_loops_and_modem; log entry 112). -/
def State.repliesGo (s : State) (c : Ch) : Bool :=
  s.streamUp (bankOf c) && s.whole (bankOf c) && s.holmLive (bankOf c) && (s.ch c).l3.isNone

/-- MDM.REPLY sends its frame (R157). -/
def sendReply (c : Ch) (d : List Byte) (s : State) : State :=
  s.setCh c (fun ch => { ch with mdm := { ch.mdm with
    sent := match ch.mdm.latest with
      | some q => mdmFrame (leAt d 2 1) (replyBody q (d.drop 4))
      | none => ch.mdm.sent
    sentAt := s.sys.raw } })

def mdmReply (r : Req) (c : Ch) (s : State) : Res :=
  let d := r.payload
  let ch := s.ch c
  let q := ch.mdm.latest
  checked [(ch.modem && !ch.master, stE_MODE),
      (4 ≤ d.length && d.length ≤ 259 && zeroBytes d 3 1, stE_FORMAT),
      (5 ≤ leAt d 2 1 && leAt d 2 1 ≤ 20, stE_RANGE),
      (match q with | some q => q.num == word16 d 0 | none => false, stE_STATE),
      (s.repliesGo c && match q with
        | some q => decide (s.sys.now ≤ q.endAt + msTicks (fld ch.mdm.word 7 0))
        | none => false, stE_TIMEOUT)] s
    (ok (sendReply c d s))

def execMdmReply (r : Req) (s : State) : Host.Outcome State Fault Refusal := .next (runCh 0x0704 r s (mdmReply r))

end Sys2Proof.Machine
end

