-- ==== Sys2Proof/Machine/LoopEv.lean ====
section
/-! DEFINITION. Loop diagnostics (R139, R140, R143, R144) and the modem's link (R151 to R160). -/

namespace Sys2Proof.Machine

/-- A loop channel whose Holm is live, with its latest readback current. -/
def State.loopUp (s : State) (c : Ch) : Bool :=
  (s.ch c).mode.isLoop && s.holmLive (bankOf c) && (s.holm (bankOf c)).up

/-- COMPLIANCE begins when the current has stayed more than 50 µA below the target for 10 ms outside a ramp, and ends when it has
been within 20 µA of it for 100 ms (R139). -/
def compliance (c : Ch) (on : Bool) (s : State) : State :=
  let ch := s.ch c
  if !(s.loopUp c && ch.mode.isLoopOut) then s
  else if on && !ch.loop.compl && s.heldFor c .compBelow 100000 then
    loopEvent c 1 (s.setCh c (fun ch => { ch with loop := { ch.loop with compl := true, complAt := s.sys.raw } }))
  else if !on && ch.loop.compl && s.heldFor c .compNear 1000000 then
    loopEvent c 2 (s.setCh c (fun ch => { ch with loop := { ch.loop with compl := false } }))
  else s

def execCompliance (b : Bank) (k : Fin 8) (on : Bool) (s : State) : Host.Outcome State Fault Refusal :=
  .next (compliance (chAt b k) on s)

/-- A high alarm that is driven and that compliance has kept short for 50 ms, from the begin of COMPLIANCE on (DESIGN CHOICE, log entry
128), gives way to the low alarm (R140). -/
def alarmFallback (c : Ch) (s : State) : State :=
  let ch := s.ch c
  let l := ch.loop
  if s.loopUp c && ch.mode.isLoopOut && ch.alarmDriven && ch.highAlarm && !l.fallback && l.compl &&
      decide (l.complAt + 500000 ≤ s.sys.raw) then
    loopEvent c 3 (evalOut c ((setL5 c (.cur (ch.alarmNa false)) (assertFault s)).setCh c (fun ch => { ch with
      loop := { ch.loop with fallback := true } })))
  else s

def execAlarmFallback (b : Bank) (k : Fin 8) (s : State) : Host.Outcome State Fault Refusal :=
  .next (alarmFallback (chAt b k) s)

/-- A readback fault, 0.5 mA off for 50 ms at a terminal voltage that shows no compliance limit (R143): with ALMRB the alarm target
is written into level 5, unless the channel is parked (R159); a high alarm that has fallen back stays the low one (R140). -/
def readbackFault (c : Ch) (s : State) : State :=
  let ch := s.ch c
  if s.loopUp c && ch.mode.isLoopOut && !ch.loop.readback && s.heldFor c .rbFault 500000 then
    let s := (assertFault s).setCh c (fun ch => { ch with loop := { ch.loop with readback := true } })
    loopEvent c 9 (if bit ch.loop.word 9 then
        evalOut c ((setL5 c (.cur ch.alarmTarget) s).setCh c (fun ch => { ch with
          loop := { ch.loop with alarm := !ch.parked } }))
      else s)
  else s

def execReadbackFault (b : Bank) (k : Fin 8) (s : State) : Host.Outcome State Fault Refusal :=
  .next (readbackFault (chAt b k) s)

/-- How long the clearing condition of a wire break, or of absent loop power, must have held (Table 6 of 06_loops_and_modem). -/
def breakOffTicks (m : Mode) : Nat := if m = .aoi then 1000000 else 2000000

/-- A wire break, or absent loop power, is detected or cleared (R144); its clearance raises and records nothing (DESIGN CHOICE, log entry
148). -/
def loopBreak (c : Ch) (on : Bool) (s : State) : State :=
  let ch := s.ch c
  if s.loopUp c && on && !ch.loop.wireBreak && s.heldFor c .breakOn 1000000 then
    loopEvent c 4 ((assertFault s).setCh c (fun ch => { ch with loop := { ch.loop with wireBreak := true } }))
  else if s.loopUp c && !on && ch.loop.wireBreak && s.heldFor c .breakOff (breakOffTicks ch.mode) then
    s.setCh c (fun ch => { ch with loop := { ch.loop with wireBreak := false } })
  else s

def execLoopWireBreak (b : Bank) (k : Fin 8) (on : Bool) (s : State) : Host.Outcome State Fault Refusal :=
  .next (loopBreak (chAt b k) on s)

/-- A loop short is detected or cleared; AII folds back each time its supply has stood at the limit, AIP holds its limit
(R144; log entry 111). Its clearance raises and records nothing (DESIGN CHOICE, log entry 148). -/
def loopShort (c : Ch) (on : Bool) (s : State) : State :=
  let ch := s.ch c
  let aii := ch.mode == .aii
  if !(s.loopUp c && (aii || ch.mode == .aip)) then s
  else if on && !ch.loop.folded && (aii || !ch.loop.short) && s.heldFor c .shortOn 1000000 then
    loopEvent c 5 ((assertFault s).setCh c (fun ch => { ch with
      watch := ch.watch.filter (fun e => e.1 != .shortOn)
      loop := { ch.loop with short := true, folded := aii, foldAt := s.sys.raw } }))
  else if !on && ch.loop.short && s.heldFor c .shortOff 2000000 then
    s.setCh c (fun ch => { ch with loop := { ch.loop with short := false } })
  else s

def execLoopShort (b : Bank) (k : Fin 8) (on : Bool) (s : State) : Host.Outcome State Fault Refusal :=
  .next (loopShort (chAt b k) on s)

/-- A folded-back supply tries its full limit for 10 ms, every second: it stays out of fold-back once the load allows
(R144, R171). -/
def foldRetry (c : Ch) (recovered : Bool) (s : State) : State :=
  let ch := s.ch c
  let due (t : Nat) : Bool := decide (t + 10000000 ≤ s.sys.raw)
  if !(s.holmLive (bankOf c) && (s.holm (bankOf c)).up) then s
  else if ch.mode == .aii && ch.loop.folded && due ch.loop.foldAt then
    s.setCh c (fun ch => { ch with loop := { ch.loop with folded := !recovered, foldAt := s.sys.raw } })
  else if ch.mode.isDigital && ch.din.folded && due ch.din.foldAt then
    s.setCh c (fun ch => { ch with din := { ch.din with folded := !recovered, foldAt := s.sys.raw } })
  else s

def execFoldBackRetry (c : Ch) (recovered : Bool) (s : State) : Host.Outcome State Fault Refusal :=
  .next (foldRetry c recovered s)

/-- The modem of a channel works: MDM = 1, its link is up and its core serves (R160). -/
def State.modemUp (s : State) (c : Ch) : Bool :=
  (s.ch c).modem && s.streamUp (bankOf c) && s.whole (bankOf c) && s.holmLive (bankOf c)

/-- RT1 of a channel's role and RT2 (Table 11 of 06_loops_and_modem). -/
def Chan.rt1 (ch : Chan) : Nat := charTicks (if mdmRole ch.mdm.word = 1 then 41 else 33)
def rt2 : Nat := charTicks 8

def setMdm (c : Ch) (f : Mdm → Mdm) (s : State) : State := s.setCh c (fun ch => { ch with mdm := f ch.mdm })

/-- The channel keeps quiet until a time, not shorter than before (R154). -/
def State.quiet (s : State) (c : Ch) (until_ : Nat) : State :=
  setMdm c (fun m => { m with quietAt := max m.quietAt until_ }) s

/-- An attempt fails: it is repeated after RT2, up to RETRY times, or reported (R154, R156). -/
def mdmFail (c : Ch) (reason at_ : Nat) (s : State) : State :=
  match (s.ch c).mdm.run with
  | none => s
  | some r =>
    let s := s.quiet c (at_ + rt2)
    if r.attempts ≤ fld (s.ch c).mdm.word 15 12 then
      setMdm c (fun m => { m with run := some { r with lastReason := reason } }) s
    else mdmPush c (mdmFailure s c r.tx.txn r.attempts reason) (setMdm c (fun m => { m with run := none }) s)

/-- Address length by the delimiter's bit 7. -/
def addrLen (bytes : List Byte) : Nat := if bit (byteAt bytes 0) 7 then 5 else 1

/-- The 38-bit address of a long frame (log entry 32). -/
def longOf (bytes : List Byte) : Nat :=
  (fld (byteAt bytes 1) 5 0) * 2 ^ 32 + ((bytes.drop 2).take 4).foldl (fun a b => 256 * a + b.toNat) 0

/-- Command byte of a frame. -/
def cmdOf (bytes : List Byte) : Byte := byteAt bytes (1 + addrLen bytes)

/-- A frame from its delimiter to its check byte is sound: its byte count matches, and the check byte is the XOR of the others
(R151). -/
def frameSound (bytes : List Byte) : Bool :=
  decide (4 + addrLen bytes ≤ bytes.length) &&
    (byteAt bytes (2 + addrLen bytes)).toNat + 4 + addrLen bytes == bytes.length && bytes.foldl (· ^^^ ·) 0 == 0

/-- What is kept of a frame: the check byte is removed (Table 12 of 06_loops_and_modem). -/
def MdmHeard.kept (f : MdmHeard) : List Byte := f.bytes.dropLast

/-- A frame to be discarded: a parity error or a gap, a byte count that does not match, or a wrong check byte (R151). -/
def MdmHeard.discarded (f : MdmHeard) : Bool := f.bad || !frameSound f.bytes

/-- The reply's address and command match the request (R154). -/
def replyMatches (t : MdmTx) (primary : Bool) (bytes : List Byte) : Bool :=
  bit (byteAt bytes 0) 7 == t.long && bit (byteAt bytes 1) 7 == primary && cmdOf bytes == t.cmd &&
    (if t.long then longOf bytes == t.laddr.toNat else fld (byteAt bytes 1) 5 0 == t.saddr.toNat)

/-- A frame heard in a master role (R154, R156, R158): its entry carries the slave copy's time of the last stop bit (R24), and the link's
waits count from that moment. -/
def masterHears (c : Ch) (f : MdmHeard) (s : State) : State :=
  let ch := s.ch c
  let primary := mdmRole ch.mdm.word == 0
  let kind := fld (byteAt f.bytes 0) 2 0
  let at_ := s.sys.now - f.age
  let ts := s.stampAgo (bankOf c) f.age
  let await := match ch.mdm.run with | some r => r.lastReason == 0 | none => false
  let other (s : State) : State := s.quiet c (at_ + ch.rt1)
  if f.carrierLost then (if await then mdmFail c 4 at_ s else other s)
  else if MdmHeard.discarded f then (if await then mdmFail c 2 at_ s else other s)
  else if kind = 1 then other (mdmPush c (MdmEntry.mk 3 0 0 ts (MdmHeard.kept f)) s)
  else if kind = 6 && await then
    match ch.mdm.run with
    | some r =>
      if replyMatches r.tx primary f.bytes then
        mdmPush c (MdmEntry.mk 1 (BitVec.ofNat 8 r.attempts) r.tx.txn ts (MdmHeard.kept f))
          ((setMdm c (fun m => { m with run := none }) s).quiet c (at_ + rt2))
      else mdmFail c 3 at_ s
    | none => s
  else other s

/-- A request is addressed to this field device (R153). -/
def Mdm.accepts (m : Mdm) (bytes : List Byte) : Bool :=
  fld (byteAt bytes 0) 2 0 == 2 &&
    (if bit (byteAt bytes 0) 7 then longOf bytes == m.uid.toNat || longOf bytes == 0
     else fld (byteAt bytes 1) 5 0 == fld m.word 21 16)

/-- A frame heard by a field device (R153, R156, R157); a request that the full buffer drops takes no number and becomes no latest
accepted request (DESIGN CHOICE, log entry 136). -/
def deviceHears (c : Ch) (f : MdmHeard) (s : State) : State :=
  let m := (s.ch c).mdm
  let ts := s.stampAgo (bankOf c) f.age
  if MdmHeard.discarded f || f.carrierLost || !m.accepts f.bytes then s
  else
    let n := m.reqNum + 1
    let s := if m.rx.length < 8 then
        setMdm c (fun m => { m with
          reqNum := n
          latest := some (MdmReq.mk n (s.sys.now - f.age) ((f.bytes.drop 1).take (addrLen f.bytes)) (cmdOf f.bytes) (bit (byteAt f.bytes 0) 7)) }) s
      else s
    mdmPush c (MdmEntry.mk 2 0 n ts (MdmHeard.kept f)) s

/-- A frame whose carrier is detected (R151 to R158). -/
def frameHeard (c : Ch) (f : MdmHeard) (s : State) : State :=
  if (s.ch c).master then masterHears c f s else deviceHears c f s

/-- A frame on the loop (R151 to R158): its carrier is detected from 120 mV peak-to-peak up and ignored up to 80 mV, and between the two
a free value decides (Table 9 of 06_loops_and_modem, R443; log entry 10). -/
def modemFrame (c : Ch) (f : MdmHeard) (s : State) : State :=
  if !s.modemUp c || f.level ≤ 80 then s
  else if 120 ≤ f.level then frameHeard c f s
  else if s.draw.1 % 2 = 1 then frameHeard c f s.draw.2
  else s.draw.2

def execModemFrame (c : Ch) (f : MdmHeard) (s : State) : Host.Outcome State Fault Refusal := .next (modemFrame c f s)

/-- A transaction starts, or a failed attempt is repeated, once the quiet time has passed (R154). -/
def transaction (c : Ch) (s : State) : State :=
  let ch := s.ch c
  if !(s.modemUp c && ch.master) || s.sys.now < ch.mdm.quietAt then s
  else
    let go (t : MdmTx) (n : Nat) (rest : List MdmTx) : State :=
      let f := mdmFrame t.preamb.toNat (t.body (mdmRole ch.mdm.word == 0))
      setMdm c (fun m => { m with
        txq := rest
        run := some (MdmRun.mk t n (s.sys.now + charTicks f.length) 0)
        sent := f
        sentAt := s.sys.raw }) s
    match ch.mdm.run, ch.mdm.txq with
    | some r, q => if r.lastReason = 0 then s else go r.tx (r.attempts + 1) q
    | none, t :: rest => go t 1 rest
    | none, [] => s

def execTransaction (c : Ch) (s : State) : Host.Outcome State Fault Refusal := .next (transaction c s)

/-- No carrier has started within RT1 after the request (R154). -/
def replyTimeout (c : Ch) (s : State) : State :=
  match (s.ch c).mdm.run with
  | some r =>
    if s.modemUp c && r.lastReason == 0 && decide (r.endAt + (s.ch c).rt1 ≤ s.sys.now) then mdmFail c 1 s.sys.now s else s
  | none => s

def execReplyTimeout (c : Ch) (s : State) : Host.Outcome State Fault Refusal := .next (replyTimeout c s)

end Sys2Proof.Machine
end

