-- ==== Sys2Proof/Machine/OpCmds.lean ====
section
/-! DEFINITION. The OP family, served at once with an immediate record (R306 step 3): OP.QUERY (R319), OP.ABORT (R322),
OP.RELEASE (R321) and OP.FETCH (R320). -/

namespace Sys2Proof.Machine

/-- Serves an OP family command: its object is the sender's own port, and no other is accepted (Table 14 of
12_mailbox_operations, R457; log entry 79). -/
def runOp (op : BitVec 16) (r : Req) (s : State) (body : State → State) : State :=
  if !s.sys.vddOk || s.coreDown (portCore r.port) then s
  else if portOf r.obj = some r.port then body s else immediate r.port op r.seq r.tag r.obj stE_RANGE [] s

/-- Answers an OP family command. -/
def answer (op : BitVec 16) (r : Req) (st : Byte) (data : List Byte) (s : State) : State :=
  immediate r.port op r.seq r.tag r.obj st data s

/-- The state of a held operation (Table 8 of 12_mailbox_operations). -/
def opCode (s : State) (sl : Slot) : Nat :=
  match sl.st with
  | .queued | .fenced => if s.atHead sl && !s.fenceOk sl then 2 else 1
  | .deferred => 3
  | .executing => 4
  | .completed => 5

/-- OP.QUERY's 12 bytes for one tag (R319). -/
def queryData (s : State) (p : Port) (tag : BitVec 16) : List Byte :=
  let age (t : Nat) : List Byte := le16 (satN ((s.sys.now - t) / 10000) 16)
  match (s.port p).held tag with
  | some sl =>
    let k := opCode s sl
    [BitVec.ofNat 8 k, if k = 5 then sl.status else if k = 3 then stDEFERRED else 0] ++ le16 sl.opcode.toNat ++
      le16 sl.req.obj.toNat ++ age sl.takenAt ++ le16 (satN (sl.defMs s.sys.now) 16) ++ [0, 0]
  | none =>
    match (s.port p).cached tag with
    | some e => [6, byteAt e.record 2] ++ le16 e.opcode.toNat ++ le16 e.obj.toNat ++ age e.takenAt ++
        (e.record.drop 18).take 2 ++ [0, 0]
    | none => List.replicate 12 0

/-- OP.QUERY's summary (R319). -/
def querySummary (s : State) (p : Port) : List Byte :=
  let q := s.port p
  [1, 2, 3, 4, 5].flatMap (fun k => le16 (q.slots.filter (fun sl => opCode s sl == k)).length) ++ le16 q.opcount ++
    le16 (satN q.replayed 16)

def opQuery (r : Req) (s : State) : State :=
  let d := r.payload
  if d.length != 4 || !zeroBytes d 2 2 then answer 0x0F01 r stE_FORMAT [] s
  else if word16 d 0 = 0 then answer 0x0F01 r stOK (querySummary s r.port) s
  else answer 0x0F01 r stOK (queryData s r.port (word16 d 0)) s

def execOpQuery (r : Req) (s : State) : Host.Outcome State Fault Refusal := .next (runOp 0x0F01 r s (opQuery r))

/-- The Badger's head of a slot leaves its queue: no ledger is touched (R233). -/
def withdraw (sl : Slot) (s : State) : State :=
  s.setBadger (fun b => { b with heads := b.heads.filter (fun h =>
    !(match h.req with
      | some q => q.port == sl.req.port && q.tag == sl.req.tag && q.obj == sl.req.obj
      | none => false)) })

/-- An operation that has not been dispatched completes E_ABORTED (R322). -/
def abortSlot (sl : Slot) (s : State) : State :=
  deliver (Completion.mk sl.req sl.opcode sl.chain stE_ABORTED [] s.sys.now) (withdraw sl s)

/-- OP.ABORT's decision (Table 9 of 12_mailbox_operations). -/
def abortTag (p : Port) (tag : BitVec 16) (s : State) : Byte × State :=
  match (s.port p).held tag with
  | some sl =>
    match sl.st with
    | .queued | .fenced | .deferred => (stOK, abortSlot sl s)
    | .executing => (stE_STATE, s)
    | .completed => (stALREADY_DONE, s)
  | none => if ((s.port p).cached tag).isSome then (stALREADY_DONE, s) else (stE_RANGE, s)

def opAbort (r : Req) (s : State) : State :=
  let d := r.payload
  if d.length != 4 || !zeroBytes d 2 2 then answer 0x0F02 r stE_FORMAT [] s
  else answer 0x0F02 r (abortTag r.port (word16 d 0) s).1 [] (abortTag r.port (word16 d 0) s).2

def execOpAbort (r : Req) (s : State) : Host.Outcome State Fault Refusal := .next (runOp 0x0F02 r s (opAbort r))

/-- Releases one tag and says what became of it (R321). -/
def releaseTag (p : Port) (tag : BitVec 16) (s : State) : Byte × State :=
  match (s.port p).held tag with
  | some sl => if sl.st == .completed then (0, s.setPort p (fun q => q.release tag)) else (1, s)
  | none => (2, s)

/-- The tags of OP.RELEASE in order, each with its result. -/
def releaseTags (p : Port) : List (BitVec 16) → State → List Byte × State
  | [], s => ([], s)
  | t :: rest, s =>
    let a := releaseTag p t s
    let b := releaseTags p rest a.2
    (a.1 :: b.1, b.2)

def opRelease (r : Req) (s : State) : State :=
  let d := r.payload
  let n := leAt d 0 1
  if d.length != 2 + 2 * n || n = 0 || 64 < n || !zeroBytes d 1 1 then answer 0x0F03 r stE_FORMAT [] s
  else
    let a := releaseTags r.port ((List.range n).map (fun k => word16 d (2 + 2 * k))) s
    answer 0x0F03 r stOK a.1 a.2

def execOpRelease (r : Req) (s : State) : Host.Outcome State Fault Refusal := .next (runOp 0x0F03 r s (opRelease r))

def opFetch (r : Req) (s : State) : State :=
  let d := r.payload
  if d.length != 4 || !zeroBytes d 2 2 then answer 0x0F04 r stE_FORMAT [] s
  else
    match (s.port r.port).held (word16 d 0) with
    | some sl =>
      if sl.st == .completed then
        (answer 0x0F04 r stOK [] s).setPort r.port (fun q => { q with
          rsp := q.rsp ++ [RspRec.mk 4 sl.record sl.req.tag false] })
      else answer 0x0F04 r stE_STATE [] s
    | none => answer 0x0F04 r stE_STATE [] s

def execOpFetch (r : Req) (s : State) : Host.Outcome State Fault Refusal := .next (runOp 0x0F04 r s (opFetch r))

end Sys2Proof.Machine
end

