-- ==== Sys2Proof/Machine/OutCmds.lean ====
section
/-! DEFINITION. The OUT family: OUT.SET (R180, R181), OUT.PROT (R182), OUT.WIRE (R183), OUT.FUSE (R187), OUT.CLEAR (R198),
OUT.PGEN (R200) and OUT.DIAG (R203), with the order of R471. -/

namespace Sys2Proof.Machine

/-- An OUT.SET that passed its checks (R180, R181); it cancels a pending restore (R253). -/
def outSetRun (r : Req) (m : ClampMeas) (c : Ch) (on : Bool) (s : State) : Res :=
  let s := overAll (s.members c) cancelRestore s
  let want : Demand := if on then .on else .off
  if normDemand (s.ch c).mode (s.ch c).l5 = want then ok (evaluate s)
  else if on then .held (submit 0x0301 r (.turnOn c) m s)
  else .held (levelChange c .off false m 0x0301 r (evaluate s))

def outSet (r : Req) (m : ClampMeas) (c : Ch) (s : State) : Res :=
  let d := r.payload
  checked [((s.ch c).mode.isSwitch, stE_MODE), (!s.oddMember c, stE_STATE),
      (d.length == 4 && zeroBytes d 1 3, stE_FORMAT), (byteAt d 0 == 0 || byteAt d 0 == 1, stE_RANGE),
      ((s.govern c).1 == 5, stE_STATE)] s (outSetRun r m c (byteAt d 0 == 1) s)

def execOutSet (r : Req) (m : ClampMeas) (s : State) : Host.Outcome State Fault Refusal :=
  .next (runCh 0x0301 r s (outSet r m))

/-- Both members of a pair take a switch setting (R57, R208). -/
def setSw (c : Ch) (f : Sw → Sw) (s : State) : State :=
  overAll (s.members c) (fun m s => s.setCh m (fun ch => { ch with sw := f ch.sw })) s

/-- Field ranges of the protection word (Table 2 of 08_load_switches). -/
def protRange (w : BitVec 64) : Bool :=
  (1 ≤ fld w 63 48 && fld w 63 48 ≤ 3600) && (100 ≤ fld w 47 32 && fld w 47 32 ≤ 1500) &&
    (20 ≤ fld w 22 16 && fld w 22 16 ≤ 80)

def outProt (r : Req) (c : Ch) (s : State) : Res :=
  let w := word64 r.payload 0
  checked [((s.ch c).mode.isSwitch, stE_MODE), (!s.oddMember c, stE_STATE),
      (r.payload.length == 8 && rsvZero w 0x000000000F80FFFC#64, stE_FORMAT), (protRange w, stE_RANGE),
      ((s.members c).all (fun m => decide ((s.ch m).sw.bucket ≤ 100 * fld w 47 32)), stE_STATE)] s
    (ok (setSw c (fun x => { x with prot := w }) s))

def execOutProt (r : Req) (s : State) : Host.Outcome State Fault Refusal := .next (runCh 0x0302 r s (outProt r))

def outWire (r : Req) (c : Ch) (s : State) : Res :=
  let w := word32 r.payload 0
  checked [(!s.oddMember c, stE_STATE), (r.payload.length == 4 && rsvZero w 0x70C0E0FF#32, stE_FORMAT),
      (decide (fld w 27 24 ≤ 12) && fld w 21 20 ≠ 3 && decide (fld w 19 16 ≤ 7) && decide (fld w 12 8 ≤ 30), stE_RANGE)] s
    (ok (setSw c (fun x => { x with wire := w }) s))

def execOutWire (r : Req) (s : State) : Host.Outcome State Fault Refusal := .next (runCh 0x0303 r s (outWire r))

/-- The breakpoints of an OUT.FUSE payload (R187). -/
def fusePoints (d : List Byte) (n : Nat) : List (Nat × Nat) :=
  (List.range n).map (fun k => (leAt d (4 + 4 * k) 2, leAt d (6 + 4 * k) 2))

/-- Currents rise strictly and times fall strictly, within their ranges (R187). -/
def fuseOk (l : List (Nat × Nat)) : Bool :=
  l.all (fun e => 100 ≤ e.1 && e.1 ≤ 9000 && 1 ≤ e.2) &&
    (List.zip l l.tail).all (fun e => e.1.1 < e.2.1 && e.2.2 < e.1.2)

def outFuse (r : Req) (c : Ch) (s : State) : Res :=
  let d := r.payload
  let n := leAt d 0 1
  let t := leAt d 2 2
  checked [(!s.oddMember c, stE_STATE), (d.length == 4 + 4 * n && zeroBytes d 1 1, stE_FORMAT),
      (2 ≤ n && n ≤ 8 && 1 ≤ t && t ≤ 3600 && fuseOk (fusePoints d n), stE_RANGE)] s
    (ok (setSw c (fun x => { x with fuse := Fuse.mk t (fusePoints d n) }) s))

def execOutFuse (r : Req) (s : State) : Host.Outcome State Fault Refusal := .next (runCh 0x0304 r s (outFuse r))

/-- OUT.CLEAR is accepted in a mode (R198). -/
def clearMode (m : Mode) (fl : Byte) : Bool := m != .off && (m.isSwitch || fl &&& 0x0F == 0)

def outClear (r : Req) (c : Ch) (s : State) : Res :=
  let fl := byteAt r.payload 0
  checked [(clearMode (s.ch c).mode fl, stE_MODE), (!s.oddMember c, stE_STATE),
      (r.payload.length == 1 && rsvZero fl 0xE0, stE_FORMAT),
      (!(bit fl 4 && (s.members c).any (fun m => (s.ch m).reloading)), stE_STATE), (clearAllowed s c fl, stE_THERMAL)] s
    (ok (clearLocks c fl s))

def execOutClear (r : Req) (s : State) : Host.Outcome State Fault Refusal := .next (runCh 0x0305 r s (outClear r))

/-- OUT.PGEN's settings (R200). -/
def pgenOf (d : List Byte) : Pgen := Pgen.mk (word32 d 0) (word16 d 4) (byteAt d 6) (bit (byteAt d 7) 0)

def outPgen (r : Req) (c : Ch) (s : State) : Res :=
  let d := r.payload
  let g := pgenOf d
  checked [((s.ch c).mode.isSwitch, stE_MODE), (!s.oddMember c, stE_STATE),
      (d.length == 12 && rsvZero (byteAt d 7) 0xFE && zeroBytes d 8 4, stE_FORMAT),
      (2458 ≤ g.period.toNat && g.period.toNat ≤ 245760000 &&
        ((s.ch c).mode != .dop || tbAvailable s c g.period), stE_RANGE)] s
    (ok (setPgen c g s))

def execOutPgen (r : Req) (s : State) : Host.Outcome State Fault Refusal := .next (runCh 0x0306 r s (outPgen r))

/-- A switch diagnostic word; a report whose check it turns off no longer stands (log entry 30). -/
def setSwDiag (c : Ch) (w : BitVec 32) (s : State) : State :=
  setSw c (fun x => { x with
    diag := w
    onOpen := x.onOpen && bit w 22
    offOpen := x.offOpen && bit w 23 && !bit w 21 }) s

def outDiag (r : Req) (c : Ch) (s : State) : Res :=
  let w := word32 r.payload 0
  checked [((s.ch c).mode.isSwitch, stE_MODE), (!s.oddMember c, stE_STATE),
      (r.payload.length == 4 && rsvZero w 0xFF1F0000#32, stE_FORMAT),
      (decide ((if bit w 21 then 5 else 10) ≤ fld w 15 8) && decide (fld w 15 8 ≤ 0x64) && decide (1 ≤ fld w 7 0), stE_RANGE)] s
    (ok (setSwDiag c w s))

def execOutDiag (r : Req) (s : State) : Host.Outcome State Fault Refusal := .next (runCh 0x0307 r s (outDiag r))

end Sys2Proof.Machine
end

