-- ==== Sys2Proof/Machine/Accept.lean ====
section
/-! DEFINITION. The command stream of CMDQ (R293, R301) and the acceptance of a command (R306, R307, R309). -/

namespace Sys2Proof.Machine

/-- A refusal at acceptance that is a protocol violation (R307): its immediate record, the port's mailbox event, its Den
record. -/
def refuse (p : Port) (op : BitVec 16) (r : Req) (st : Byte) (k : Nat) (s : State) : State :=
  violation p 1 st (raise (portSrc p k) [] (immediate p op r.seq r.tag r.obj st [] s))

/-- Serves an OP family command (R306 step 3). -/
def serveOp (op : BitVec 16) (r : Req) (s : State) : State :=
  match op.toNat with
  | 0x0F01 => runOp op r s (opQuery r)
  | 0x0F02 => runOp op r s (opAbort r)
  | 0x0F03 => runOp op r s (opRelease r)
  | _ => runOp op r s (opFetch r)

/-- A slot is taken and the command joins its object queue (R306 step 8); without the ownership it needs, or with the link of its
Holm lost (R29), it completes at once. -/
def takeSlot (op : BitVec 16) (r : Req) (check : BitVec 32) (s : State) : State :=
  let n := s.sys.accepted + 1
  let sl : Slot :=
    { opcode := op, req := r, check := check, chain := false, takenAt := s.sys.now, order := n, st := .queued
      deferAt := none, defTicks := 0, status := 0, record := [] }
  let lacks := s.lacksOwner op r
  let s := (s.setSys (fun y => { y with accepted := n })).setPort r.port (fun q => { q with slots := q.slots ++ [sl] })
  if lacks then finishHere op r (s.ownerStatus op r) [] 0 s
  else if !s.linkOk r.obj then finishHere op r stE_STATE [] 0 s
  else s

/-- Steps 4 to 8 of R306. -/
def admitCommand (op : BitVec 16) (r : Req) (check : BitVec 32) (s : State) : State :=
  let p := r.port
  let q := s.port p
  match q.held r.tag with
  | some sl =>
    if sl.req.seq == r.seq && sl.check == check then
      (if sl.st == .completed then replayNow p sl.record false s else s)
    else refuse p op r stE_TAG_CONFLICT 4 s
  | none =>
    match q.replay.find? (fun e => e.tag == r.tag && e.seq == r.seq && e.check == check) with
    | some e => replayNow p e.record e.headerOnly s
    | none =>
      if !opAccepts op r.obj then immediate p op r.seq r.tag r.obj stE_RANGE [] s
      else if s.recovery && !recoveryOp op then immediate p op r.seq r.tag r.obj stE_STATE [] s
      else if q.full then refuse p op r stE_FULL 5 s
      else takeSlot op r check s

/-- The request of a command's bytes (Tables 1 and 2 of 12_mailbox_operations). -/
def reqOf (p : Port) (b : List Byte) : Req :=
  let fl := byteAt b 2
  Req.mk p (word16 b 4) (byteAt b 3) (BitVec.ofNat 2 (fld fl 1 0)) (bit fl 7) (bit fl 6) (word16 b 10) (word16 b 8)
    ((b.drop 16).take (leAt b 6 2))

/-- A whole command is taken (R306). -/
def accept (p : Port) (b : List Byte) (s : State) : State :=
  let op := word16 b 0
  let r := reqOf p b
  let body := b.take (16 + leAt b 6 2)
  let check := word32 b (16 + leAt b 6 2)
  if check.toNat ≠ crc32c (foldIn p 0 r.tag r.seq r.obj ++ body) then refuse p op r stE_CRC 4 s
  else if byteAt b 12 != 1 || !zeroBytes b 13 3 || fld (byteAt b 2) 5 2 ≠ 0 || r.tag == 0 || !opcodeList.contains op.toNat ||
      (family op == 15 && (byteAt b 2 != 0 || r.deadline != 0)) then refuse p op r stE_FORMAT 4 s
  else if family op = 15 then serveOp op r s
  else admitCommand op r check s

/-- CMDSPACE (R293): what the 8192-byte command buffer can accept. -/
def PortSt.cmdSpace (q : PortSt) : Nat := 8192 - q.cmdBuf.length

/-- Takes whole commands from the front of the buffer (R293); at most `fuel` of them. A header that declares more than 8192
bytes is discarded with everything after it, and sets DESYNC. -/
def drainCmd (p : Port) : Nat → State → State
  | 0, s => s
  | n + 1, s =>
    let b := (s.port p).cmdBuf
    if b.length < 8 then s
    else
      let total := 20 + leAt b 6 2
      if 8192 < total then s.setPort p (fun q => { q with cmdBuf := [], desync := true })
      else if b.length < total then s
      else drainCmd p n (accept p (b.take total) (s.setPort p (fun q => { q with cmdBuf := b.drop total })))

/-- Bytes written to CMDQ (R293); while DESYNC is set they are discarded. -/
def feedCmd (p : Port) (data : List Byte) (s : State) : State :=
  if (s.port p).desync || data.isEmpty then s
  else drainCmd p 512 (s.setPort p (fun q => { q with cmdBuf := q.cmdBuf ++ data }))

end Sys2Proof.Machine
end

