-- ==== Sys2Proof/Machine/PortOps.lean ====
section
/-! DEFINITION. A transfer on a host port: frames with their kinds, results and check values (R274 to R281), the register window
(R284 to R296), and the watchdog's restart (R255). -/

namespace Sys2Proof.Machine

/-- The address of data byte i of a frame (R278): it advances by one, and stays at 0xF0 and 0xF8. -/
def addrAt (a i : Nat) : Nat := if a ≤ 0xF0 then min (a + i) 0xF0 else if a ≤ 0xF8 then min (a + i) 0xF8 else a + i

/-- PORTSTAT (R286). -/
def portstat (s : State) (p : Port) : Byte :=
  let q := s.port p
  bitsByte [!q.cmdBuf.isEmpty, q.desync, bit (BitVec.ofNat 2 p.val) 0, bit (BitVec.ofNat 2 p.val) 1,
    q.lport && s.sys.order != 2, q.rstd, false, false]

/-- CHAINCFG's sixteen bytes (Table 11 of 11_host_ports). -/
def chaincfg (q : PortSt) : List Byte :=
  [BitVec.ofNat 8 (b2n q.chen), 0] ++ le16 q.outen.toNat ++ [0, 0, 0, 0] ++ le16 q.pset0.toNat ++ le16 q.pset1.toNat ++
    le16 q.pset2.toNat ++ le16 q.pset3.toNat

/-- PIMAGE for one port (Table 10 of 11_host_ports): Mainland's copy of the Holms' bits, OWNED, SNAPSEQ and SNAPTS. -/
def pimage (s : State) (p : Port) : List Byte :=
  s.sys.image.take 18 ++ le16 (image16 (fun c => (s.ch c).owner == some p)) ++ le32 s.sys.snapSeq.toNat ++
    le64 (min s.sys.snapTs[0] s.sys.snapTs[1])

/-- The byte that an address of the window reads as, apart from RSPQ (Table 6 of 11_host_ports). -/
def regByte (s : State) (p : Port) (a : Nat) : Byte :=
  let q := s.port p
  if a < 4 then byteAt (le32 s.devid) a
  else if a = 0x04 then Config.silrev
  else if a = 0x08 then s.status p
  else if a = 0x09 then portstat s p
  else if 0x0C ≤ a ∧ a ≤ 0x0F then byteAt [q.crce, q.shorte, q.fmte, q.ovre] (a - 0x0C)
  else if 0x10 ≤ a ∧ a ≤ 0x2F then byteAt (leBytes q.evpend.toNat 32) (a - 0x10)
  else if 0x30 ≤ a ∧ a ≤ 0x4F then byteAt (leBytes q.evmask.toNat 32) (a - 0x30)
  else if a = 0x50 then q.irqcfg
  else if 0x54 ≤ a ∧ a ≤ 0x55 then byteAt (le16 q.opcount) (a - 0x54)
  else if 0x56 ≤ a ∧ a ≤ 0x57 then byteAt (le16 q.opwindow.toNat) (a - 0x56)
  else if 0x60 ≤ a ∧ a ≤ 0x67 then byteAt (le64 q.devLatch.toNat) (a - 0x60)
  else if 0x70 ≤ a ∧ a ≤ 0x7F then byteAt (chaincfg q) (a - 0x70)
  else if 0x80 ≤ a ∧ a ≤ 0x9F then byteAt q.imgLatch (a - 0x80)
  else if 0xF4 ≤ a ∧ a ≤ 0xF5 then byteAt (le16 q.cmdSpace) (a - 0xF4)
  else if 0xFC ≤ a ∧ a ≤ 0xFD then byteAt (le16 q.rspAvail) (a - 0xFC)
  else 0

/-- Positions of a frame that lie at an address. -/
def landsOn (a n target : Nat) : List Nat := (List.range n).filter (fun i => addrAt a i == target)

/-- The latches that a read takes when its data are taken (R279, R291, R292). -/
def readLatch (p : Port) (a n : Nat) (s : State) : State :=
  let s := if (landsOn a n 0x60).isEmpty then s
    else s.setPort p (fun q => { q with devLatch := BitVec.ofNat 64 s.sys.now })
  if (landsOn a n 0x80).isEmpty then s else s.setPort p (fun q => { q with imgLatch := pimage s p })

/-- The data bytes of a read (R278, R279). -/
def readData1 (s : State) (p : Port) (a n : Nat) : List Byte :=
  let rsp := (s.port p).rspBytes (landsOn a n 0xF8).length
  let first := (landsOn a n 0xF8).headD 0
  (List.range n).map (fun i =>
    let x := addrAt a i
    if 0xFF < x then 0 else if x = 0xF8 then byteAt rsp (i - first) else regByte s p x)

/-- Bytes of a write as (address, byte), within the window. -/
def writePairs (a : Nat) (d : List Byte) : List (Nat × Byte) :=
  ((List.range d.length).map (fun i => (addrAt a i, byteAt d i))).filter (fun e => e.1 ≤ 0xFF)

/-- What a write puts at an address. -/
def written (l : List (Nat × Byte)) (a : Nat) : Option Byte := (l.find? (fun e => e.1 == a)).map (·.2)

/-- A register of two bytes is written whole or not at all. -/
def halfWritten (l : List (Nat × Byte)) (a : Nat) : Bool := (written l a).isSome != (written l (a + 1)).isSome

/-- A write to OPWINDOW or CHAINCFG that R290 or R296 refuses. -/
def writeRefused (s : State) (p : Port) (l : List (Nat × Byte)) : Bool :=
  let q := s.port p
  let others := ((allPorts.filter (· != p)).map (fun x => (s.port x).opwindow.toNat)).sum
  halfWritten l 0x56 ||
    (match written l 0x56, written l 0x57 with
     | some x, some y =>
       let v := x.toNat + 256 * y.toNat
       v < 16 || 256 < v || 480 < others + v
     | _, _ => false) ||
    (match written l 0x70 with | some x => bit x 0 && !q.cmdBuf.isEmpty | none => false) ||
    [0x72, 0x78, 0x7A, 0x7C, 0x7E].any (halfWritten l)

/-- A 16-bit register after a write that may cover it. -/
def put16 (l : List (Nat × Byte)) (a : Nat) (old : BitVec 16) : BitVec 16 :=
  match written l a, written l (a + 1) with
  | some x, some y => BitVec.ofNat 16 (x.toNat + 256 * y.toNat)
  | _, _ => old

/-- A byte register after a write. -/
def put8 (l : List (Nat × Byte)) (a : Nat) (old : Byte) : Byte := (written l a).getD old

/-- The 256 bits that a write puts at 32 bytes from an address; bytes it does not cover come from `old`. -/
def put256 (l : List (Nat × Byte)) (a : Nat) (old : BitVec 256) : BitVec 256 :=
  let b := leBytes old.toNat 32
  BitVec.ofNat 256 (leAt ((List.range 32).map (fun i => (written l (a + i)).getD (byteAt b i))) 0 32)

/-- The bits that a write sets at 32 bytes from an address. -/
def ones256 (l : List (Nat × Byte)) (a : Nat) : BitVec 256 := put256 l a 0

/-- A FRMERR counter: a write of any value sets it to 0 (R287). -/
def clearCount (l : List (Nat × Byte)) (a : Nat) (old : Byte) : Byte := if (written l a).isSome then 0 else old

/-- A committed write takes effect as a whole (R277): every register it covers, by its own rule. -/
def writeRegs (l : List (Nat × Byte)) (q : PortSt) : PortSt :=
  let ps := (written l 0x09).getD 0
  { q with
    cmdBuf := if bit ps 7 then [] else q.cmdBuf
    desync := q.desync && !bit ps 7
    rdPos := if bit ps 6 then 0 else q.rdPos
    rstd := q.rstd && !bit ps 5
    crce := clearCount l 0x0C q.crce
    shorte := clearCount l 0x0D q.shorte
    fmte := clearCount l 0x0E q.fmte
    ovre := clearCount l 0x0F q.ovre
    evpend := q.evpend &&& ~~~(ones256 l 0x10)
    evmask := put256 l 0x30 q.evmask &&& evExists
    irqcfg := put8 l 0x50 q.irqcfg &&& 0x8F
    opwindow := put16 l 0x56 q.opwindow
    chen := match written l 0x70 with | some x => bit x 0 | none => q.chen
    outen := put16 l 0x72 q.outen
    pset0 := put16 l 0x78 q.pset0
    pset1 := put16 l 0x7A q.pset1
    pset2 := put16 l 0x7C q.pset2
    pset3 := put16 l 0x7E q.pset3 }

/-- The CMDQ bytes of a write (R278, R293). -/
def cmdBytes (l : List (Nat × Byte)) : List Byte := (l.filter (fun e => e.1 == 0xF0)).map (·.2)

/-- A committed write. -/
def commitWrite (p : Port) (l : List (Nat × Byte)) (s : State) : State :=
  feedCmd p (cmdBytes l) (s.setPort p (writeRegs l))

/-- The four kinds of frame (Table 3 of 11_host_ports). -/
def frameLen (op len : Nat) : Nat := if op = 0 then len + 8 else if op = 1 then len + 6 else if op = 2 then 21 else 5

/-- Where the host's check value stands. -/
def crcPos (op len : Nat) : Nat := if op = 0 then 3 else if op = 1 then len + 4 else if op = 2 then 10 else 3

/-- The host's check value of the received bytes is right (R275). -/
def hostCrcOk (p : Port) (b : List Byte) : Bool :=
  let op := fld (byteAt b 0) 7 6
  let k := crcPos op (leAt b 2 1)
  decide (k + 2 ≤ b.length) && leAt b k 2 == hostCrc p (fld (byteAt b 0) 5 2) (b.take k)

/-- The result of a frame (Table 4 of 11_host_ports), from the bytes received whole, the edges, and RDY at both edges of nCS. -/
def frameResult (s : State) (p : Port) (b : List Byte) (edges : Nat) (rdyAtFall : Bool) : Nat :=
  let q := s.port p
  let op := fld (byteAt b 0) 7 6
  let a := leAt b 1 1
  let len := leAt b 2 1
  let n := len + 1
  let data := (b.drop 3).take n
  if edges < 8 then 8
  else if edges < 24 || edges < 8 * frameLen op len then 2
  else if fld (byteAt b 0) 1 0 ≠ 0 || (op = 3 && (a ≠ 0 || len ≠ 0)) || (op = 2 && (a ≠ 0 || len ≠ 6)) then 3
  else if !hostCrcOk p b then 1
  else if !(rdyAtFall && q.rdy) then 5
  else if op = 1 && q.cmdSpace < (landsOn a n 0xF0).length then 6
  else if op = 1 && writeRefused s p (writePairs a data) then 7
  else if op < 2 && 0xFF < addrAt a (n - 1) then 4
  else 0

/-- A count that stops at 0xFF (R287). -/
def satInc (b : Byte) : Byte := if b = 0xFF then b else b + 1

/-- ECHO, FRM, OVR, the counters and the events of a frame's result (R276, R281, R283, R287). -/
def noteResult (p : Port) (fseq : Nat) (code : Nat) (s : State) : State :=
  let s := s.setPort p (fun q => { q with
    echo := echoByte (BitVec.ofNat 4 (if code = 8 then 0 else fseq)) code
    frm := [8, 2, 3, 1, 5].contains code
    ovr := code == 4
    crce := if code = 1 then satInc q.crce else q.crce
    shorte := if code = 2 || code = 8 then satInc q.shorte else q.shorte
    fmte := if code = 3 then satInc q.fmte else q.fmte
    ovre := if code = 4 then satInc q.ovre else q.ovre })
  if code = 0 then s
  else violation p 0 (BitVec.ofNat 8 code) (raise (portSrc p (if code = 4 then 1 else 0)) [] s)

/-- Every frame with a good CRC and every latched slot restarts the port's watchdog; its timer is frozen while RDY is clear
(R255), and ownership no longer counts as lost (R328). -/
def restartWatchdog (p : Port) (s : State) : State :=
  s.setPort p (fun q => { q with wdAt := if q.rdy then s.sys.now else 0, wdExpired := false })

/-- The device's check value and bytes of a frame (R274, R275). -/
def deviceBytes (p : Port) (fseq : Nat) (body : List Byte) : List Byte := body ++ le16 (devCrc p fseq body)

/-- The reply slot that a port loads (Table 12 and Table 13 of 11_host_ports), without its CRC-8. -/
def replySlot (s : State) (p : Port) (rdyAtFall : Bool) : List Byte :=
  let q := s.port p
  let fault := bitsByte [false, false, false, false,
    q.slots.any (fun sl => sl.chain && sl.st == .deferred), q.refused, q.lastRej, s.commonFault]
  [s.statusAt p rdyAtFall] ++ s.sys.image.take 4 ++ [fault, q.slotSeq]

end Sys2Proof.Machine
end

