-- ==== Sys2Proof/Machine/ChainSlot.lean ====
section
/-! DEFINITION. Daisy-chain slots (R297 to R299) and a whole transfer on a port, framed or chained (R276, R277, R295). -/

namespace Sys2Proof.Machine

/-- A slot has a listed command and no reserved bit (Table 12 of 11_host_ports). -/
def slotContentOk (b : List Byte) : Bool :=
  match (byteAt b 0).toNat with
  | 0x00 | 0x5A => zeroBytes b 1 5
  | 0x01 => byteAt b 5 == 0
  | 0x02 => rsvZero (byteAt b 5) 0xFC
  | _ => false

/-- A refused bit (R299). -/
def refuseBit (p : Port) (s : State) : State := s.setPort p (fun q => { q with refused := true })

/-- The duty preset k of a port. -/
def PortSt.pset (q : PortSt) (k : Nat) : BitVec 16 :=
  match k with
  | 0 => q.pset0
  | 1 => q.pset1
  | 2 => q.pset2
  | _ => q.pset3

/-- An operation of a chain slot: TAG 0, CONTROL, no deadline (R299); SEQ tells those of one channel apart. -/
def chainReq (p : Port) (n : Byte) (c : Ch) (d : List Byte) : Req := Req.mk p 0 n 0 false false 0 (chObj c) d

/-- The payload of the OUT.SET of a chain slot (R180). -/
def setPayload (on : Bool) : List Byte := [BitVec.ofNat 8 (b2n on), 0, 0, 0]

/-- The payload of an OUT.PGEN (R200). -/
def pgenPayload (g : Pgen) : List Byte :=
  le32 g.period.toNat ++ le16 g.duty.toNat ++ [g.phase, BitVec.ofNat 8 (b2n g.phauto), 0, 0, 0, 0]

/-- A chain operation takes a slot of the port's window and is dispatched (R299); with the link of its Holm lost it completes at once
(R29); without a free slot its bit is refused. -/
def chainSubmit (op : BitVec 16) (p : Port) (c : Ch) (d : List Byte) (body : Req → Ch → State → Res) (s : State) : State :=
  if (s.port p).full then refuseBit p s
  else
    let n := s.sys.accepted + 1
    let r := chainReq p (BitVec.ofNat 8 n) c d
    let sl : Slot :=
      { opcode := op, req := r, check := 0, chain := true, takenAt := s.sys.now, order := n, st := .queued
        deferAt := none, defTicks := 0, status := 0, record := [] }
    let s := (s.setSys (fun y => { y with accepted := n })).setPort p (fun q => { q with slots := q.slots ++ [sl] })
    if s.linkOk r.obj then runCh op r s (body r) else finishHere op r stE_STATE [] 0 s

/-- The OUT.SET of a chain slot. -/
def chainSet (p : Port) (c : Ch) (on : Bool) (s : State) : State :=
  chainSubmit 0x0301 p c (setPayload on) (fun r => outSet r (ClampMeas.mk [])) s

/-- A chain operation that has completed already is delivered before the slot goes on. -/
def chainDone (n : Byte) (p : Port) (c : Ch) (s : State) : State :=
  match s.completions.find? (fun x => x.chain && x.req.port == p && x.req.seq == n && x.req.obj == chObj c && decide (x.tdone ≤ s.sys.now)) with
  | some x => deliver x { s with completions := s.completions.erase x }
  | none => s

/-- Step 1 of R299 on one channel: DUTY := PSETk, as an OUT.PGEN from this port. -/
def slotDuty (p : Port) (k : Nat) (c : Ch) (s : State) : State :=
  if (s.ch c).mode != .dop then s
  else
    chainDone (BitVec.ofNat 8 (s.sys.accepted + 1)) p c
      (chainSubmit 0x0306 p c (pgenPayload { (s.ch c).sw.pgen with duty := (s.port p).pset k }) outPgen s)

/-- A chain turn-on of a channel that is still DEFERRED. -/
def PortSt.deferredOn (q : PortSt) (c : Ch) : Option Slot :=
  q.slots.find? (fun sl => sl.chain && sl.req.obj == chObj c && sl.opcode == 0x0301 && sl.st == .deferred && byteAt sl.req.payload 0 == 1)

/-- Steps 2 and 3 of R299 on one masked channel: a demand for off aborts a turn-on that is still DEFERRED, with level 5 off until
its admission (R181, R300), and is then submitted. -/
def slotBit (p : Port) (c : Ch) (on : Bool) (s : State) : State :=
  let q := s.port p
  let m := (s.ch c).mode
  if !bit q.outen c.val || !s.owns p (chObj c) || !m.isSwitch || s.oddMember c then refuseBit p s
  else
    match (if on then none else q.deferredOn c) with
    | some sl => chainSet p c false (abortSlot sl s)
    | none =>
      if normDemand m (s.ch c).l5 = (if on then .on else .off) then s
      else if q.slots.any (fun sl => sl.chain && sl.req.obj == chObj c) then s
      else chainSet p c on s

/-- A latched slot takes effect (R297, R299). -/
def applySlot (p : Port) (b : List Byte) (s : State) : State :=
  let w := leAt b 1 2
  let mask := word16 b 3
  let chs := allCh.filter (fun c => bit mask c.val)
  let s := s.setPort p (fun q => { q with slotSeq := byteAt b 6, lastRej := false })
  match (byteAt b 0).toNat with
  | 0x5A => s.setPort p (fun q => { q with chen := false })
  | 0x01 => overAll chs (fun c s => slotBit p c (w.testBit c.val) s) s
  | 0x02 =>
    overAll chs (fun c s => slotBit p c (w.testBit c.val) s)
      (overAll chs (slotDuty p (fld (byteAt b 5) 1 0)) s)
  | _ => s

/-- A rejected slot: nothing is applied, the next reply shows it, EV(163 + 8p) and its Den record (R283, R297). -/
def rejectSlot (p : Port) (s : State) : State :=
  violation p 3 Config.slotViolationCode
    (raise (portSrc p 3) [] (s.setPort p (fun q => { q with lastRej := true })))

/-- The last 64 bits received are a slot that latches (R297). -/
def slotLatches (s : State) (p : Port) (edges : Nat) (bytes : List Byte) : Bool :=
  let b := (bytes.take (edges / 8)).drop (edges / 8 - 8)
  edges != 0 && edges % 64 == 0 && b.length == 8 && crc8 0xFF (b.take 7) == (byteAt b 7).toNat && slotContentOk b &&
    (s.port p).rdy

/-- A transfer in daisy-chain mode (R297): the reply is loaded and shifted out, then the slot latches or is rejected. -/
def slotTransfer (p : Port) (edges : Nat) (bytes : List Byte) (rdyAtFall : Bool) (s : State) : State :=
  let reply := replySlot s p rdyAtFall
  let out := reply ++ [BitVec.ofNat 8 (crc8 0xFF reply)] ++ bytes
  let ok := slotLatches s p edges bytes
  let s := s.setPort p (fun q => { q with
    refused := false
    frm := !ok
    sdo := out.take ((edges + 7) / 8) })
  if ok then applySlot p ((bytes.take (edges / 8)).drop (edges / 8 - 8)) (restartWatchdog p s) else rejectSlot p s

/-- A committed chain frame (Table 3 of 11_host_ports): its slot is applied without a CRC-8, its reply is loaded. -/
def chainFrameSlot (p : Port) (b : List Byte) (s : State) : State :=
  let s := s.setPort p (fun q => { q with refused := false })
  if slotContentOk b then applySlot p b s else rejectSlot p s

/-- What the device sends before its check value (Table 3 of 11_host_ports). -/
def deviceBody (s s1 : State) (p : Port) (b : List Byte) (rdyAtFall : Bool) : List Byte :=
  let op := fld (byteAt b 0) 7 6
  let n := leAt b 2 1 + 1
  [s.statusAt p rdyAtFall, (s.port p).echo] ++
    (match op with
     | 0 => [0, 0, 0] ++ (if hostCrcOk p b then readData1 s1 p (leAt b 1 1) n else List.replicate n 0)
     | 1 => List.replicate (n + 1) 0
     | 2 => List.replicate 10 0 ++ replySlot s p rdyAtFall
     | _ => [0])

/-- A frame is judged at the rising edge of nCS (R276) and, when it commits, takes effect as a whole (R277). -/
def frame (p : Port) (f : RawFrame) (s : State) : State :=
  let b := f.bytes.take (f.edges / 8)
  let op := fld (byteAt b 0) 7 6
  let a := leAt b 1 1
  let n := leAt b 2 1 + 1
  let fseq := fld (byteAt b 0) 5 2
  let code := frameResult s p b f.edges f.rdyAtFall
  let s1 := if op = 0 && 40 ≤ f.edges then readLatch p a n s else s
  let out := (deviceBytes p fseq (deviceBody s s1 p b f.rdyAtFall)).take ((f.edges + 7) / 8)
  let s2 := s1.setPort p (fun q => { q with sdo := out })
  let s3 := if 24 ≤ f.edges && hostCrcOk p b then restartWatchdog p s2 else s2
  let s4 :=
    if code = 0 || code = 4 then
      match op with
      | 0 => s3.setPort p (fun q => q.readRsp (landsOn a n 0xF8).length)
      | 1 => commitWrite p (writePairs a ((b.drop 3).take n)) s3
      | 2 => chainFrameSlot p ((b.drop 3).take 7) s3
      | _ => s3
    else s3
  noteResult p fseq code s4

/-- A transfer on a port: none without VDD and VIO (R425); a slot in daisy-chain mode, otherwise a frame (R295). -/
def transfer (p : Port) (f : RawFrame) (s : State) : State :=
  if !s.sys.vddOk || !s.sys.vio then s
  else if (s.port p).chen then slotTransfer p f.edges f.bytes f.rdyAtFall s
  else frame p f s

/-- The host's bytes of a frame with a right check value (Table 3 of 11_host_ports): kind, FSEQ, address and length, then
what stands before and after the check value. -/
def hostBytes (p : Port) (op : Nat) (fseq : BitVec 4) (a len : Nat) (before after : List Byte) : List Byte :=
  let h := [BitVec.ofNat 8 (op * 64 + fseq.toNat * 4), BitVec.ofNat 8 a, BitVec.ofNat 8 len] ++ before
  h ++ le16 (hostCrc p fseq.toNat h) ++ after

/-- Sends a frame's bytes, every bit of them. -/
def sendBytes (p : Port) (l : List Byte) (s : State) : State := transfer p (RawFrame.mk l (8 * l.length) (s.port p).rdy) s

/-- A write frame. -/
def sendWrite (p : Port) (fseq : BitVec 4) (a : Nat) (d : List Byte) (s : State) : State :=
  sendBytes p (hostBytes p 1 fseq a (d.length - 1) d []) s

/-- A read frame of n bytes; with `good` false its check value is wrong. -/
def sendRead (p : Port) (fseq : BitVec 4) (a n : Nat) (good : Bool) (s : State) : State :=
  let l := hostBytes p 0 fseq a (n - 1) [] (List.replicate (n + 2) 0)
  sendBytes p (if good then l else l.set 3 (byteAt l 3 ^^^ 1)) s

/-- A slot of eight bytes with its CRC-8. -/
def sendSlot (p : Port) (b : List Byte) (s : State) : State := sendBytes p (b ++ [BitVec.ofNat 8 (crc8 0xFF b)]) s

end Sys2Proof.Machine
end

