-- ==== Sys2Proof/Machine/PortRegs.lean ====
section
/-! DEFINITION. The rows of the host ports (chapter 11): streams, latches, registers, status-only and discarded frames, and
daisy-chain slots. Each builds what the host sends and lets the port judge it. -/

namespace Sys2Proof.Machine

def execCmdq (p : Port) (fseq : BitVec 4) (data : List Byte) (s : State) : Host.Outcome State Fault Refusal :=
  .next (sendWrite p fseq 0xF0 data s)

def execRspq (p : Port) (fseq : BitVec 4) (n : Nat) (s : State) : Host.Outcome State Fault Refusal :=
  .next (sendRead p fseq 0xF8 n true s)

def execDevtime (p : Port) (fseq : BitVec 4) (addr : BitVec 8) (n : Nat) (crcOk : Bool) (s : State) :
    Host.Outcome State Fault Refusal := .next (sendRead p fseq addr.toNat n crcOk s)

def execPimage (p : Port) (fseq : BitVec 4) (addr : BitVec 8) (n : Nat) (crcOk : Bool) (s : State) :
    Host.Outcome State Fault Refusal := .next (sendRead p fseq addr.toNat n crcOk s)

def execEvpend (p : Port) (fseq : BitVec 4) (k : Fin 32) (data : List Byte) (s : State) :
    Host.Outcome State Fault Refusal := .next (sendWrite p fseq (0x10 + k.val) data s)

def execFrmerr (p : Port) (fseq : BitVec 4) (k : Fin 4) (value : Byte) (s : State) : Host.Outcome State Fault Refusal :=
  .next (sendWrite p fseq (0x0C + k.val) [value] s)

def execOpwindow (p : Port) (fseq : BitVec 4) (addr : BitVec 8) (data : List Byte) (s : State) :
    Host.Outcome State Fault Refusal := .next (sendWrite p fseq addr.toNat data s)

def execCmdrst (p : Port) (fseq : BitVec 4) (s : State) : Host.Outcome State Fault Refusal :=
  .next (sendWrite p fseq 0x09 [0x80] s)

def execRwnd (p : Port) (fseq : BitVec 4) (s : State) : Host.Outcome State Fault Refusal :=
  .next (sendWrite p fseq 0x09 [0x40] s)

def execRstd (p : Port) (fseq : BitVec 4) (s : State) : Host.Outcome State Fault Refusal :=
  .next (sendWrite p fseq 0x09 [0x20] s)

def execChen (p : Port) (fseq : BitVec 4) (data : List Byte) (s : State) : Host.Outcome State Fault Refusal :=
  .next (sendWrite p fseq 0x70 data s)

def execRegisterWrite (p : Port) (fseq : BitVec 4) (addr : BitVec 8) (data : List Byte) (s : State) :
    Host.Outcome State Fault Refusal := .next (sendWrite p fseq addr.toNat data s)

def execStatusOnlyFrame (p : Port) (fseq : BitVec 4) (s : State) : Host.Outcome State Fault Refusal :=
  .next (sendBytes p (hostBytes p 3 fseq 0 0 [] []) s)

def execDiscardedFrame (p : Port) (f : RawFrame) (s : State) : Host.Outcome State Fault Refusal := .next (transfer p f s)

def execChainFrame (p : Port) (fseq : BitVec 4) (slot : List Byte) (s : State) : Host.Outcome State Fault Refusal :=
  .next (sendBytes p (hostBytes p 2 fseq 0 6 slot (List.replicate 9 0)) s)

def execExchange (p : Port) (sequence : Byte) (s : State) : Host.Outcome State Fault Refusal :=
  .next (sendSlot p [0, 0, 0, 0, 0, 0, sequence] s)

def execOutput (p : Port) (outWord mask : BitVec 16) (sequence : Byte) (s : State) : Host.Outcome State Fault Refusal :=
  .next (sendSlot p ([0x01] ++ le16 outWord.toNat ++ le16 mask.toNat ++ [0, sequence]) s)

def execOutputWithPulseSet (p : Port) (outWord mask : BitVec 16) (pset : BitVec 2) (sequence : Byte) (s : State) :
    Host.Outcome State Fault Refusal :=
  .next (sendSlot p ([0x02] ++ le16 outWord.toNat ++ le16 mask.toNat ++ [BitVec.ofNat 8 pset.toNat, sequence]) s)

def execExit (p : Port) (sequence : Byte) (s : State) : Host.Outcome State Fault Refusal :=
  .next (sendSlot p [0x5A, 0, 0, 0, 0, 0, sequence] s)

def execSlotRejected (p : Port) (edges : Nat) (bytes : List Byte) (s : State) : Host.Outcome State Fault Refusal :=
  .next (transfer p (RawFrame.mk bytes edges (s.port p).rdy) s)

end Sys2Proof.Machine
end

