-- ==== Sys2Proof/Machine/StartEv.lean ====
section
/-! DEFINITION. Starts (R385 to R394), power failure (R373), the flush (R370), and trials (R405, R415). -/

namespace Sys2Proof.Machine

/-- nRESET is asserted, and a warm start follows (R177, R385). -/
def resetPulse (s : State) : State := scheduleStart .warm 1 (s.setSys (fun y => { y with nresetLow := true }))

/-- nRESET low for 10 µs is a warm start; below 1 µs it is ignored, and between the two a free value decides (R385, R418,
R446; log entry 10). -/
def nreset (lowNs : Nat) (s : State) : State :=
  if !s.sys.vddOk || lowNs < 1000 then s
  else if 10000 ≤ lowNs then resetPulse s
  else if s.draw.1 % 2 = 1 then resetPulse s.draw.2 else s.draw.2

def execNreset (lowNs : Nat) (s : State) : Host.Outcome State Fault Refusal := .next (nreset lowNs s)

/-- The Den buffer is flushed as the first act of a start, before any engine is loaded (Table 5 of 14_den_recorder, R374). -/
def firstFlush (s : State) : State := flush (s.setSys (fun y => { y with failedEngines := [] }))

/-- What a warm start makes of the system state (R22, R388): device time runs on. -/
def warmSys (keep : Bool) (y : Sys) : Sys :=
  { y with
    tsyncMode := if keep then y.tsyncMode else 0
    tsyncTarget := 0
    tsyncCapture := 0
    tsyncLast := none
    startDue := y.startDue.filter (fun d => d.kind != .warm)
    recoveries := []
    snapSeq := 0
    snapTs := #v[0, 0]
    image := List.replicate 32 0 }

/-- Plans on their way take effect while the start runs: their instants lie within it (R72, log entry 42). -/
def settlePlans (s : State) : State :=
  overAll [0, 1] (fun b s =>
    match (s.holm b).pend with
    | some p => if (s.holm b).up then planNow b p s else s
    | none => s) s

/-- Both datapaths are reloaded (R102, R387). -/
def reloadDatapaths (s : State) : State := { s with holms := s.holms.map (fun h => { h with reloadDp := h.reloadDp || h.up }) }

/-- A warm state block that failed its check (R388). -/
def noteWarmLost (s : State) : State := denEvent 4 254 0x0700 [] (raise 254 [] s)

/-- The (TBOOT + 1)-th start of a trial image reverts in its place (R405). -/
def State.trialSpent (s : State) : Bool := s.upd.inTrial && decide (s.upd.tboot ≤ s.upd.trialStarts)

/-- A start of a trial image counts, by a journaled change of the boot record (R404, R405; DEDUCED, log entry 154). -/
def countTrial (s : State) : State := if s.upd.inTrial then bootNow .count s else s

/-- A warm start (R387, R388): the outputs are under level 3 from its beginning (R254), what R388 names is kept when the warm
state block is good, everything else of Mainland starts afresh, the sequencers are loaded anew (R17), and the plant keeps running
in the Holms. The words of the channels, such as the measurement, diagnostic, loop and modem words, are settings that Mainland reads
back from the Holm (step 5 of Table 3 of 15_start_update_security, R55): they stay (DEDUCED, log entry 110). Owners that a bad
block loses unlink the comparators with actions (R128). -/
def warmNow (cause : BitVec 8) (blockOk : Bool) (s : State) : State :=
  let s := (firstFlush (hostLossAll allCh s)).setSys (warmSys blockOk)
  let s := overPorts (fun p q => q.restarted p blockOk) (overPorts (fun _ q => q.freeze s.sys.now) (bootCount s))
  let s := countTrial (resolveBoot (reloadDatapaths (endOps (settlePlans (settleOwners blockOk s)))))
  let s := checkLegact (startRecord .warm cause 0 0 s)
  let s := serveAll .warm cause (loadSequencers allCh s)
  let s := if blockOk then s else unlink allCh (noteWarmLost s)
  let s := overAll allCh mdmAbort s
  evaluate (flushStream 0 (flushStream 1 s))

/-- The real-time clock as a cold start finds it (R380, R429): it has run on while VDD or VBAT held it, and otherwise restarts
from 0 with wall time invalid. -/
def coldClock (f : ColdFacts) (wall : Nat) (y : Sys) : Sys :=
  let kept := !y.clockOpen || f.rtcKept
  { y with
    clockOpen := false
    wallBase := if !y.clockOpen then wall else if f.rtcKept then f.rtcCount else 0
    wallAt := y.now
    wallValid := y.wallValid && kept && f.rtcRuns
    rtcStopped := y.rtcStopped || !kept || !f.rtcRuns
    rtcRuns := f.rtcRuns
    vbat := f.vbat }

/-- What a start under bank defaults makes of the system state (R21, R22, R386): device time goes on at `now`, which is 0 after a
cold start. -/
def coldSys (intOsc : Bool) (now : Nat) (y : Sys) : Sys :=
  { y with
    now := now
    slew := 0
    tsyncMode := 0
    tsyncTarget := 0
    tsyncCapture := 0
    tsyncLast := none
    tstepHolms := []
    intOsc := intOsc
    startDue := []
    failedEngines := []
    recoveries := []
    vddOk := true
    nfaultAt := now
    snapSeq := 0
    snapTs := #v[0, 0]
    image := List.replicate 32 0 }

/-- A channel that level 2 keeps through the start (R268): its mode, settings and Burrow behaviour stay, level 3 ends, nobody
owns it, and what was timed by the old device time starts anew at the new one. -/
def Chan.coldKept (old now : Nat) (ch : Chan) : Chan :=
  { ch with
    burKept := true
    owner := none
    l3 := none
    acts := []
    moved := none
    changing := none
    presag := none
    shedOff := false
    restore := .none
    thr := Vector.replicate 4 .reset
    mdm := { Mdm.reset ch.mode with word := ch.mdm.word, uid := ch.mdm.uid }
    loop := { ch.loop with
      session := .none
      rampFrom := ch.rampNow old
      rampAt := now }
    sw := { ch.sw with
      restarts := []
      onSince := now
      offSince := now } }

/-- Level 2 keeps a channel: it is active when the link is established, and the Holm has not restarted (R268). -/
def State.keptByBurrow (s : State) (c : Ch) : Bool := s.burrowOn c && s.holmLive (bankOf c)

/-- A Holm as a start under bank defaults leaves it: its supply states stand (R244); link established when it is out of lockout, HOLD_T and map delivered, slave time
locked before RDY; PLANSEQ counts from 0 (R73). The grid keeps its phase, and with it the timebases (R63). Actions that were on their way to
the relay count as undelivered (R33), and those on a bus have lost their comparators. -/
def Holm.cold (old now : Nat) (h : Holm) : Holm :=
  { h with
    owner := none
    link := h.up
    deaf := !h.up
    lostAt := now
    restarted := h.restarted && !h.up
    shedLow := 8
    shedOver := none
    shedAt := now
    grid0 := h.grid0 + now - old
    planSeq := 0
    teff := 0
    pend := none
    mapHere := h.up
    slave := now
    beacons := if h.up then 20 else 0
    lastBeacon := now
    rate := 0
    tunc := !h.up
    noBeacon := !h.up
    linkOp := 0
    journal := []
    held := []
    bus := h.bus.map (fun m => { m with live := false })
    relay := []
    lost := h.lost ++ h.relay.map (fun m => { m with live := false })
    buf := []
    reloadDp := false
    edges := [] }

/-- The Badger after a cold start: its budgets persist (R221), everything else starts afresh with the measured reserve. -/
def Badger.cold (f : ColdFacts) (b : Badger) : Badger :=
  { Badger.reset with
    ifmax := b.ifmax
    ixmax := b.ixmax
    pceil := b.pceil
    dtguard := b.dtguard
    eres := b.eres
    tambx := b.tambx
    capUf := min 2200 f.capUf
    vholdMv := f.vholdMv }

/-- The Den after a cold start: numbers continue at the high-water mark (R363). -/
def Den.cold (now : Nat) (d : Den) : Den := { d with buf := [], seq := d.hwm, ndrop := 0, lastFlush := now }

/-- The highest record that the index scan finds (R363). -/
def Den.highest (d : Den) : Nat := ((d.ring.map (·.2.seq)) ++ d.legal.map (·.2.seq)).foldl max 0

/-- The digest of the software that a LEGACT record activates (Table 11 of 15_start_update_security; its place in the record is log
entry 34's). -/
def DenRec.legactDigest (r : DenRec) : List Byte := (r.payload.drop 116).take 64

/-- The LEGACT that no LEGCONF or LEGREV has answered, as the legal trail in MRAM shows it (R409). -/
def Den.openLegact (d : Den) : Option (List Byte) :=
  match ((d.legal.map (·.2) ++ (d.ring.map (·.2)).filter (·.ovfl)).filter (fun r =>
      r.typ == 0x0101 || r.typ == 0x0102 || r.typ == 0x0103)).mergeSort (fun a b => decide (b.seq ≤ a.seq)) with
  | r :: _ => if r.typ = 0x0101 then some r.legactDigest else none
  | [] => none

/-- What the index scan makes of the legal trail after a loss of VDD (R363, R364, R367): the legal event counter, the open LEGACT, and
the changes that were recorded count as made. -/
def scanLegal (s : State) : State :=
  (s.setDen (fun d => { d with
    lec := BitVec.ofNat 32 (leAt d.lastLeg.payload 32 4)
    legWait := []
    legDue := [] })).setUpd (fun u => { u with pendingLegact := s.den.openLegact })

/-- Bytes from the end of the good legal records to the last byte of the region that is not in erased state, which is what manufacture
left there (R367); a legal clear erases nothing, so what it left behind counts (R379; DESIGN CHOICE, log entry 152). -/
def State.tornTail (s : State) : Nat :=
  let from_ := 0x300000 + s.den.legUsed
  (s.mram.filter (fun e => decide (from_ ≤ e.1) && decide (e.1 < 0x320000))).foldl (fun n e => max n (e.1 + 1 - from_)) 0

/-- Torn bytes at the end of the legal region: the next record is TORN, at the following 256-byte boundary, and links to the
last good one (R367). -/
def writeTorn (s : State) : State :=
  let n := s.den.legTorn
  if n = 0 then s
  else
    let at_ := s.den.legUsed
    let s := s.setDen (fun d => { d with
      legTorn := 0
      legUsed := (d.legUsed + n + 255) / 256 * 256 })
    legalWrite 0x0006 3 (le32 at_ ++ le32 n) none false true s

/-- The first debounced LSEAL is compared with the last SEAL record, before RDY (R431); sampled only while VIO is valid. -/
def compareSeal (lseal : Bool) (s : State) : State :=
  if s.sys.order = 2 || !s.sys.vio then s else takeSeal lseal s

/-- The links of a cold start (R29, R386 step 4): a link that was lost, as both are without VDD, is established and delivers what its
Holm kept (R33, R245); a Holm in lockout is reported lost. -/
def coldLinks (was : Bank → Bool) (s : State) : State :=
  overAll [0, 1] (fun b s =>
    let h := s.holm b
    if !h.link then linkEvent b 1 0 s
    else
      let s := if was b then s else linkEvent b 2 h.dropped s
      let s := deliverNotices b (s.setHolm b (fun h => { h with dropped := 0, lost := [] }))
      overAll h.lost reportLost s) s

/-- A Holm whose time was uncertain has locked again before RDY (R25, R452). -/
def coldTimes (tunc : Bank → Bool) (s : State) : State :=
  overAll [0, 1] (fun b s => if tunc b && (s.holm b).link then notifyHolm b 8 2 0xFF 0 none s else s) s

/-- Everything that a start under bank defaults does to the channels, Holms and ports; device time goes on at `now`, and a recovery start
holds the legal channels in OFF (`held`). -/
def coldPlant (held : Bool) (f : ColdFacts) (powered : Bool) (now : Nat) (s : State) : State :=
  let old := s.sys.now
  let wall := s.wall
  let s := if powered then firstFlush s else scanLegal s
  let s := s.setDen (fun d => { d with legTorn := max d.legTorn s.tornTail })
  let kept := fun (c : Ch) => s.keptByBurrow c
  let s := { s with
    chans := Vector.ofFn (fun c =>
      if kept c then s.chans[c].coldKept old now
      else if s.isLegal c then s.chans[c].coldLegal held (s.holmLive (bankOf c)) now
      else s.chans[c].coldDefault now)
    holms := s.holms.map (Holm.cold old now)
    ports := Vector.ofFn (fun p => { PortSt.reset p with rdy := false, lport := p == 0 && s.legal.port == some 0 })
    badger := s.badger.cold f
    den := s.den.cold now
    sys := coldClock f wall (coldSys (!f.crystalOk) now s.sys) }
  let s := settleOwners false (endOps (bootCount s))
  let s := s.setBadger (fun b => { b with ceiling := s.ceilingNow })
  let s := tbRelease 0 (tbRelease 1 s)
  let s := overAll (allCh.filter (fun c => s.isLegal c && (s.ch c).mode.usesFilter)) disturb s
  let s := evalBank 1 (evalBank 0 s)
  s.setSys (fun y => { y with nfault := s.anyFault })

/-- The boot record as a cold start resolves it, with the revert of a trial image that has used its starts (R404, R405). -/
def bootImage (s : State) : State :=
  let t := resolveBoot s
  if t.trialSpent && s.configReads then t.setUpd Upd.flippedBack else t

/-- The START record names the numbers between the highest record found and HWM (R363). -/
def coldRecord (kind : StartKind) (cause : BitVec 8) (s : State) : State :=
  let hi := s.den.highest
  if hi + 1 < s.den.seq then startRecord kind cause (hi + 1) (s.den.seq - 1) s else startRecord kind cause 0 0 s

/-- The trial image's first cold start raises EV241 with TWIN and TBOOT (R415; layout in log entry 34). -/
def noteTrial (s : State) : State :=
  if s.upd.inTrial && s.upd.trialStarts == 1 then raise 241 (le16 s.upd.twin ++ le16 s.upd.tboot) s else s

/-- The records that the reserve covers, and the rest. -/
def splitReserve : List DenRec → Nat → List DenRec × List DenRec × Nat
  | [], n => ([], [], n)
  | r :: rest, n =>
    if r.len ≤ n then (r :: (splitReserve rest (n - r.len)).1, (splitReserve rest (n - r.len)).2)
    else ([], r :: rest, n)

/-- The first record that the reserve does not cover is torn where it would stand (R373): a ring slot, or the end of the legal
region, which then hold its first bytes. -/
def tearRecord (left : Nat) (r : DenRec) (s : State) : State :=
  let put (a : Nat) (s : State) : State := { s with mram := mramStore s.mram a (s.cells a (r.bytes.take left)) }
  if left = 0 then s
  else if r.legReg then put (0x300000 + s.den.legUsed) (s.setDen (fun d => { d with legTorn := max d.legTorn left }))
  else
    match ringSlot s.den r.sev with
    | some k => put (0x320000 + 256 * k) (s.setDen (fun d => { d with
        ring := d.ring.filter (fun e => e.1 != k)
        torn := k :: d.torn.filter (· != k) }))
    | none => s

/-- A SEAL record that is lost has not been written: the seal's state before it is the one last recorded (Table 9 of
14_den_recorder, R431). -/
def loseSeal (lost : List DenRec) (waiting : List LegalRec) (s : State) : State :=
  match (lost.filter (fun r => r.typ == 0x0008)).map (fun r => byteAt r.payload 40) ++
      (waiting.filter (fun r => r.typ == 0x0008)).map (fun r => byteAt r.content 0) with
  | v :: _ => { s with legal := { s.legal with sealRec := v == 0 } }
  | [] => s

/-- The flush of a power failure on the VHOLD reserve (R373): records in SEQ order as far as it reaches, without C7 none, and then a
journal that is being written (R408). -/
def powerFlush (s : State) : State :=
  let t := splitReserve s.den.buf (if s.coreDown 7 then 0 else s.badger.reserveBytes)
  let lost := t.2.1
  let s := loseSeal lost s.den.legWait s
  let s := if s.coreDown 7 then s else flushBuf (s.setDen (fun d => { d with buf := t.1 }))
  let s := match lost with | r :: _ => tearRecord t.2.2 r s | [] => s
  let s := s.setDen (fun d => { d with buf := [], lostInBuf := d.lostInBuf + lost.length })
  match s.upd.work, s.upd.journal with
  | some _, some (n, false) =>
    if lost.isEmpty && decide (20 ≤ t.2.2) && !s.coreDown 7 && s.configReads then
      s.setUpd (fun u => { u with journal := some (n, true) })
    else s
  | _, _ => s

/-- The power-fail warning (R373): Mainland stops accepting frames, flushes, and is without VDD until its next cold start. A power
cycle ends a recovery start (R394). -/
def powerFail (s : State) : State :=
  if s.sys.vddOk then
    ((overPorts (fun _ q => q.freeze s.sys.now) (powerFlush s)).setSys (fun y => { y with
      vddOk := false
      clockOpen := true
      rdyOnce := false
      nresetLow := false
      start := .cold
      startDue := [] })).setUpd (fun u => { u with afterRec := false })
  else s

/-- A start finds the starts of a trial image used up, and reverts it (R405), when the boot record can be written. -/
def State.spent (s : State) : Bool := (resolveBoot s).trialSpent && s.configReads

/-- A cold start begins (R386): one out of a recovery start keeps the failed-start record (R394), LPORT is sampled (R331, R430), and the
plant goes to its bank defaults with device time 0 (R22). -/
def coldBegin (f : ColdFacts) (s : State) : State :=
  let s := s.setUpd (fun u => { u with afterRec := s.sys.vddOk && s.sys.start == .recovery })
  coldPlant false f s.sys.vddOk 0
    { s with legal := { s.legal with port := if f.lport && s.sys.order != 2 then some 0 else none } }

/-- What a cold start records and loads (R386): START and TORN, the boot record with a revert that is due, MDIG of the image that runs, the
sequencers, the seal, and an open LEGACT. -/
def coldRecords (f : ColdFacts) (cause : BitVec 8) (s : State) : State :=
  let spent := s.spent
  let s := resolveBoot (writeTorn (coldRecord .cold (if spent then 2 else cause) s))
  let s := if spent then raise 243 [] (revertTrial .starts s) else countTrial s
  let s := s.setUpd (fun u => { u with run := u.active, mdig := s.slotDigest u.active })
  checkLegact (compareSeal f.lseal (loadSequencers allCh s))

/-- A cold start that succeeds (R386): RDY, and what is reported with it. -/
def coldNow (f : ColdFacts) (cause : BitVec 8) (s : State) : State :=
  let was := fun (b : Bank) => (s.holm b).link && s.sys.vddOk
  let tunc := fun (b : Bank) => (s.holm b).up && (s.holm b).tunc
  let told := f.crystalOk || s.sys.afterStart.any (fun e => e.1 == 249)
  let cause := if s.spent then 2 else cause
  let s := serveAll .cold cause (coldRecords f cause (coldBegin f s))
  let s := noteTrial (if told then s else raise 249 [] s)
  evaluate (noteReserve (coldTimes tunc (coldLinks was s)))

/-- What a recovery start finds of clock and capacitor: unchanged since the last start. -/
def keptFacts (s : State) : ColdFacts :=
  { vdd := 3300, vddFor := msTicks 10, lport := s.legal.port.isSome, lseal := s.legal.sealed, crystalOk := !s.sys.intOsc,
    capUf := s.badger.capUf, vholdMv := s.badger.vholdMv, rtcKept := true, rtcCount := s.wall, rtcRuns := s.sys.rtcRuns,
    vbat := s.sys.vbat, cut := none }

/-- A start that does not reach RDY has begun all the same (R361, R392; log entry 122). -/
def beginStart (kind : StartKind) (f : ColdFacts) (s : State) : State :=
  match kind with
  | .cold => coldBegin f s
  | .warm => endOps (bootCount (overPorts (fun _ q => q.freeze s.sys.now) (firstFlush (hostLossAll allCh s))))
  | .recovery => coldPlant true (keptFacts s) true s.sys.now s

/-- The links as they stood before a start that did not reach RDY: its successor establishes and reports them. -/
def linksBack (before s : State) : State :=
  { s with holms := Vector.ofFn (fun b =>
      let h := before.holms[b]
      { s.holms[b] with
        link := h.link && before.sys.vddOk
        deaf := h.deaf
        restarted := h.restarted
        mapHere := h.mapHere
        beacons := h.beacons
        tunc := h.tunc
        noBeacon := h.noBeacon }) }

/-- A cold or recovery start without RDY leaves the TORN record that its scan made, with EV231, and the change of the clock source, with
EV249 (R367, R383, R21). -/
def leaveMarks (kind : StartKind) (f : ColdFacts) (s : State) : State :=
  let t := if s.den.legTorn ≠ 0 then raiseAcross 231 [] (writeTorn s) else s
  if kind = .cold && !f.crystalOk then raiseAcross 249 [] t else t

/-- A start fails at a step of its table (R392). -/
def startFails (kind : StartKind) (step : BitVec 8) (f : ColdFacts) (s : State) : State :=
  let t := beginStart kind f s
  let t := if kind = .warm then t else leaveMarks kind f (linksBack s t)
  failStart kind step .cold 5 false (t.setSys (fun y => { y with startDue := [] }))

/-- A warm start that is due (Table 1 of 15_start_update_security); it fails when the active image is not the one whose digest the
last cold start stored (R387). -/
def warmStart (blockOk : Bool) (s : State) : State :=
  match s.dueStart .warm with
  | some d =>
    if !s.sys.vddOk then s
    else
      let t := s.setSys (fun y => { y with startDue := y.startDue.filter (fun d => d.kind != .warm) })
      let b := resolveBoot s
      if !b.warmGood then startFails .warm 4 (keptFacts s) t
      else if b.trialSpent then revertAndStart .starts (resolveBoot (firstFlush t))
      else warmNow d.cause blockOk t
  | none => s

def execWarmStart (blockOk : Bool) (s : State) : Host.Outcome State Fault Refusal := .next (warmStart blockOk s)

/-- A cold start that the power-fail warning stops before RDY (R434): the records created so far are flushed, those of step 11 of Table 2
of 15_start_update_security only when it came that far (DEDUCED, log entry 153). -/
def cutStart (k : BitVec 8) (f : ColdFacts) (cause : BitVec 8) (s : State) : State :=
  let t := linksBack s (coldBegin f s)
  powerFail (if 12 ≤ k.toNat then coldRecords f cause t else t)

/-- A cold start runs, is stopped by the power-fail warning, or fails at its check of the active image (step 6 of Table 2 of
15_start_update_security). -/
def coldRun (f : ColdFacts) (cause : BitVec 8) (s : State) : State :=
  let good := (bootImage s).imageGood
  match f.cut with
  | some k => if good || k.toNat ≤ 6 then cutStart k f cause s else startFails .cold 6 f s
  | none => if good then coldNow f cause s else startFails .cold 6 f s

/-- VDD has stood above its threshold of 2.95 V for 10 ms (R423, R426). -/
def ColdFacts.risen (f : ColdFacts) : Bool := decide (2950 < f.vdd) && decide (msTicks 10 ≤ f.vddFor)

/-- A cold start that is due, or that VDD rising begins (Table 1 of 15_start_update_security, R423). -/
def coldStart (f : ColdFacts) (s : State) : State :=
  if !s.sys.vddOk then (if ColdFacts.risen f then coldRun f 0 s else s)
  else
    match s.dueStart .cold with
    | some d => coldRun f d.cause s
    | none => s

def execColdStart (f : ColdFacts) (s : State) : Host.Outcome State Fault Refusal := .next (coldStart f s)

/-- The start in progress fails at a step of its table (R392): the one that is due, or the cold start of a rising VDD. -/
def failedStart (x : FailedStart) (s : State) : State :=
  if !s.sys.vddOk then (if ColdFacts.risen x.facts then startFails .cold x.step x.facts s else s)
  else
    match s.sys.startDue.find? (fun d => decide (d.at_ ≤ s.sys.now)) with
    | some d => startFails d.kind x.step x.facts s
    | none => s

def execFailedStart (x : FailedStart) (s : State) : Host.Outcome State Fault Refusal := .next (failedStart x s)

/-- The RECOVERY record: NFAIL and the steps of the failures (Table 11 of 15_start_update_security). -/
def recoveryPayload (s : State) : List Byte :=
  [BitVec.ofNat 8 (satN s.upd.fails.length 8), 0, 0, 0] ++ (s.upd.fails.map (·.2.2)).take 192

/-- A recovery start (R393), in which device time runs on (R22): every channel OFF except under R268, RDY set, the CRC units bound to the ports (R355). -/
def recoveryNow (cause : BitVec 8) (s : State) : State :=
  let was := fun (b : Bank) => (s.holm b).link
  let tunc := fun (b : Bank) => (s.holm b).up && (s.holm b).tunc
  let back := fun (b : Bank) => (s.holm b).up && (s.holm b).restarted
  let s := coldPlant true (keptFacts s) s.sys.vddOk s.sys.now s
  let s := { s with crc := Vector.ofFn (fun u => { s.crc[u] with bound := decide (u.val < 3) }) }
  let s := resolveBoot (writeTorn (coldRecord .recovery cause s))
  let s := checkLegact (loadSequencers allCh s)
  let s := denWrite 0x0121 5 (recoveryPayload s) s
  let s := serveAll .recovery cause (s.setSys (fun y => { y with afterStart := y.afterStart.filter (fun e => e.1 != 253) }))
  let s := overAll ([(0 : Bank), 1].filter back) (fun b s => notifyHolm b 7 1 0xFF 0 none s) (coldLinks was (raise 253 [] s))
  noteReserve (coldTimes tunc s)

def recoveryStart (s : State) : State :=
  match s.dueStart .recovery with
  | some d => if s.sys.vddOk then recoveryNow d.cause s else s
  | none => s

def execRecoveryStart (s : State) : Host.Outcome State Fault Refusal := .next (recoveryStart s)

def execPowerFailWarning (s : State) : Host.Outcome State Fault Refusal := .next (powerFail s)

/-- A flush by its own trigger (R370, Table 5 of 14_den_recorder): 100 ms since the last one, with the buffer not empty. -/
def flushRow (s : State) : State :=
  if s.sys.vddOk && !s.den.buf.isEmpty && decide (s.den.lastFlush + msTicks 100 ≤ s.sys.now) then flush s else s

def execFlush (s : State) : Host.Outcome State Fault Refusal := .next (flushRow s)

/-- The trial's window has run on the real-time clock (R405). -/
def State.windowOver (s : State) : Bool := !s.sys.rtcStopped && decide (s.upd.twin ≤ s.trialSecs)

/-- A trial ends in a revert, and a cold start follows (R405): in operation after LEGREV by a journaled change (R404). A LEGACT that
did not take effect is only recorded (R409). The revert after a failed start is that failure's own effect (failStart). -/
def trialRevert (why : RevertReason) (s : State) : State :=
  if !s.sys.vddOk || s.upd.work.isSome then s
  else
    match why with
    | .window =>
      if s.upd.inTrial && s.windowOver then
        bootBegin (.revert .window) (if s.upd.trialLegal then writeLegrev s.upd.other .window s else s)
      else s
    | .starts =>
      if s.trialSpent && s.sys.startDue.any (fun d => decide (d.at_ ≤ s.sys.now)) then
        revertAndStart .starts (s.setSys (fun y => { y with startDue := [] }))
      else s
    | .failedStart => s
    | .notActivated => if s.upd.inTrial then s else checkLegact s

def execTrialRevert (why : RevertReason) (s : State) : Host.Outcome State Fault Refusal := .next (trialRevert why s)

/-- The trial window has 60 s left: EV255, once (R415). -/
def trialWarning (s : State) : State :=
  if s.sys.vddOk && s.upd.inTrial && !s.upd.warned60 && !s.sys.rtcStopped && decide (s.upd.twin ≤ s.trialSecs + 60) then
    raise 255 [] (s.setUpd (fun u => { u with warned60 := true }))
  else s

def execTrialWindowWarning (s : State) : Host.Outcome State Fault Refusal := .next (trialWarning s)

/-- A start that has run 10 s after RDY clears the failed-start record (R392); a recovery start keeps it (R394). -/
def clearFails (s : State) : State :=
  if s.sys.vddOk && s.sys.start != .recovery && decide (s.sys.startAt + 100000000 ≤ s.sys.now) then
    s.setUpd (fun u => { u with fails := [], failRun := 0, afterRec := false })
  else s

def execFailedStartRecordClear (s : State) : Host.Outcome State Fault Refusal := .next (clearFails s)

end Sys2Proof.Machine
end

