-- ==== Sys2Proof/Machine/RecordEv.lean ====
section
/-! DEFINITION. Rows that time or the world brings: closing blocks (R323, R324), the housekeeping frame (R16, R185, R188, R192,
R210, R218, R292), the sense selection (R209), VIO (R425), the hold-up capacitor (R426), and the hold of nFAULT (R177). -/

namespace Sys2Proof.Machine

/-- An event block is closed 1 ms after its first entry (R323). -/
def eventBlockClose (p : Port) (s : State) : State :=
  if s.sys.vddOk && !s.coreDown (portCore p) && decide ((s.port p).evOpenedAt + msTicks 1 ≤ s.sys.now) then
    s.setPort p (·.closeEvents p s.sys.now)
  else s

def execEventBlockClose (p : Port) (s : State) : Host.Outcome State Fault Refusal := .next (eventBlockClose p s)

/-- A stream block is closed 1 ms after its first unit (R324). -/
def streamBlockClose (p : Port) (c : Ch) (s : State) : State :=
  if s.sys.vddOk && !s.coreDown (portCore p) && decide (((s.port p).subs[c]).openedAt + msTicks 1 ≤ s.sys.now) then
    s.setPort p (·.closeStream p c s.sys.now)
  else s

def execStreamBlockClose (p : Port) (c : Ch) (s : State) : Host.Outcome State Fault Refusal := .next (streamBlockClose p c s)

/-- A frame's value at a bank position. -/
def hkNat (l : List Nat) (c : Ch) : Nat := l.getD (posOf c).val 0
def hkInt (l : List Int) (c : Ch) : Int := l.getD (posOf c).val 0

/-- A conversion corrected by the frame's zero and reference conversions (R16; log entry 102). -/
def HkFrame.fix (h : HkFrame) (x : Int) : Int := divRound ((x - h.zero) * 65536) (max 1 h.ref).toNat

/-- The frame with its conversions corrected; a reverse current reads 0 (R210). -/
def HkFrame.corrected (h : HkFrame) : HkFrame :=
  let f (x : Int) : Int := HkFrame.fix h x
  { h with
    cur := h.cur.map (fun x => (f x).toNat)
    vp := h.vp.map f
    vn := h.vn.map f
    vf := f h.vf
    vx := f h.vx
    case := f h.case
    jun := f h.jun
    rails := h.rails.map f
    isns := f h.isns }

/-- A temperature in 1/16 °C lies outside a range in °C. -/
def outside (lo hi t : Int) : Bool := decide (t < 16 * lo) || decide (16 * hi < t)

/-- Two temperatures in 1/16 °C lie more than 10 K apart. -/
def apart (a b : Int) : Bool := decide (160 < (a - b).natAbs)

/-- What the frame reads of the Holm itself (R16): supplies and case; two of the four rails and one of the eight junctions in
rotation; the case reading makes ΔT sensing faulty (R195). -/
def Holm.readFrame (h : HkFrame) (m : Holm) : Holm :=
  let a := h.rails.getD 0 0
  let b := h.rails.getD 1 0
  { m with
    vf := h.vf
    vx := h.vx
    case := h.case
    caseBad := outside (-50) 160 h.case || apart h.case m.case
    adcZero := h.zero
    adcRef := h.ref
    isnsPad := h.isns
    rails := if m.railNext then (m.rails.set 2 a).set 3 b else (m.rails.set 0 a).set 1 b
    railNext := !m.railNext
    junNext := m.junNext + 1 }

/-- The on-state check of 100 µs (R204) at a current against OLTH and 1.25 × OLTH: the counted on-time for which it has stayed below
the one, or above the other; on-time that lies within 1 ms of a turn-on does not count. -/
def Sw.countOpen (counted : Bool) (below above : Bool) (w : Sw) : Sw :=
  if counted then
    { w with
      olLow := if below then w.olLow + 1 else 0
      olHigh := if above then w.olHigh + 1 else 0 }
  else w

/-- One impedance Z = |V(P) − V(N)| / I_exc in mΩ (Table 9 of 03_bridge_measurement), at most the top of its field; without a
current the bridge is open (log entry 138). -/
def zOf (mv : Int) (ua : Nat) : Nat := if ua = 0 then 16383750 else min 16383750 (1000000 * mv.natAbs / ua)

/-- The impedances of the last 100 ms while the excitation is on (R78), a frame every 100 µs. -/
def Brg.zNext (b : Brg) (mv : Int) (ua : Nat) : List Nat := if b.exOn then (zOf mv ua :: b.zWin).take 1000 else []

/-- Their running average in 0.25 Ω (R78, R80). -/
def zMean (l : List Nat) : Nat := l.sum / (250 * l.length)

/-- The readback current of an output in nA: the mean of 10 ms, to 1 µA (R139). -/
def meanNa (l : List Int) : Int := 1000 * divRound l.sum (1000 * l.length)

/-- What the frame reads on one channel (R16, R80, R139, R164, R210): its slots and its readings; impedance and leakage against
their limits (Table 9 of 03_bridge_measurement); its junction when it is its turn, and whether that makes ΔT sensing faulty
(R195). The mode is the one it works in. -/
def Chan.readFrame (h : HkFrame) (jun : Fin 8) (allOff10 : Bool) (c : Ch) (m : Mode) (ch : Chan) : Chan :=
  let bridge := m == .brg || m == .res
  let mv := hkInt h.vp c - hkInt h.vn c
  let win := if m == .brg then ch.brg.zNext mv (hkNat h.iexc c) else []
  let z := if win.isEmpty then ch.brg.z else some (zMean win)
  let leak := hkNat h.leak c
  let iw := if m.isLoopOut then (hkInt h.loopI c :: ch.loop.iWin).take 100 else []
  { ch with
    sw := { ch.sw with
      icur := if m.isSwitch then hkNat h.cur c else 0
      vp := hkInt h.vp c
      tj := if posOf c = jun then h.jun else ch.sw.tj
      junBad := if posOf c = jun then outside (-50) 200 h.jun || (allOff10 && apart h.jun h.case) else ch.sw.junBad }
    din :=
      if m.isDigital then
        { ch.din with
          isink := hkNat h.cur c
          vip := some (hkInt h.vip c)
          issup := if ch.ssup then hkNat h.ssup c else 0 }
      else { ch.din with isink := 0, issup := 0 }
    brg := if bridge then
        { ch.brg with
          iexc := hkNat h.iexc c
          vpn := mv
          zWin := win
          z := z
          leak := leak
          impNow := m == .brg && match z with
            | some z => z < fld ch.brg.diag 15 0 || fld ch.brg.diag 31 16 < z
            | none => false
          leakNow := 10 * fld ch.brg.diag 39 32 < leak }
      else ch.brg
    loop :=
      if m.isLoop then
        { ch.loop with
          actual := if m.isLoopOut then meanNa iw else hkInt h.loopI c
          iWin := iw
          vterm := some (hkNat h.loopV c) }
      else ch.loop }

/-- The on-state check of a channel, in a pair at the leader on the sum of both currents (R204, R208): the digitised current, or the
mirror current against the fine range. -/
def openLoadFrame (h : HkFrame) (c : Ch) (s : State) : State :=
  let w := (s.ch c).sw
  let th := fld w.diag 15 8
  let i := ((s.members c).map (fun m => (s.ch m).sw.icur)).sum
  let f := ((s.members c).map (hkNat h.mirror)).sum
  let fine := bit w.diag 21
  if (s.ch c).mode.isSwitch && !s.oddMember c then
    s.setCh c (fun ch => { ch with
      sw := ch.sw.countOpen (ch.conducting && decide (w.onSince + msTicks 1 ≤ s.sys.now))
        (if fine then decide (f < 10 * th) else decide (i < 4 * th))
        (if fine then decide (25 * th < 2 * f) else decide (5 * th < i)) })
  else s

/-- The terminal voltage of a loop output shows a compliance limit (Table 1 of 06_loops_and_modem; log entry 111). -/
def State.atCompliance (s : State) (c : Ch) : Bool :=
  let ch := s.ch c
  if ch.mode == .aoi then decide ((s.holm (bankOf c)).vf - 3000 ≤ (ch.loop.volts : Int)) else decide (ch.loop.volts ≤ 8000)

/-- The present target of a loop output, the ramp's current while one is under way (R139, R143; log entry 111). -/
def State.targetNow (s : State) (c : Ch) : Nat := (s.ch c).rampNow s.sys.now

/-- What a loop channel's readings show (R139, R143, Table 6 of 06_loops_and_modem). -/
def loopShows (s : State) (c : Ch) : Watch → Bool
  | .compBelow => (s.ch c).mode.isLoopOut && s.targetNow c == (s.ch c).outNa && decide ((s.ch c).loop.actual + 50000 < s.targetNow c)
  | .compNear => (s.ch c).mode.isLoopOut && decide (((s.ch c).loop.actual - s.targetNow c).natAbs ≤ 20000)
  | .rbFault =>
    (s.ch c).mode.isLoopOut && decide (500000 < ((s.ch c).loop.actual - s.targetNow c).natAbs) && !s.atCompliance c
  | .breakOn =>
    match (s.ch c).mode with
    | .aii | .aip => decide ((s.ch c).loop.actual < 500000)
    | .aoi => decide ((s.ch c).loop.actual < 100000) && decide (1000000 ≤ (s.ch c).outNa)
    | .aot => decide ((s.ch c).loop.volts < 3000)
    | _ => false
  | .breakOff =>
    match (s.ch c).mode with
    | .aii | .aip => decide (1000000 < (s.ch c).loop.actual)
    | .aoi => decide (((s.ch c).loop.actual - s.targetNow c).natAbs ≤ 20000)
    | .aot => decide (8000 < (s.ch c).loop.volts)
    | _ => false
  | .shortOn =>
    match (s.ch c).mode with
    | .aii => decide (30000000 ≤ (s.ch c).loop.actual)
    | .aip => decide (35000000 ≤ (s.ch c).loop.actual)
    | _ => false
  | .shortOff =>
    ((s.ch c).mode == .aii || (s.ch c).mode == .aip) && !(s.ch c).loop.folded && decide ((s.ch c).loop.actual < 25000000)
  | _ => false

/-- What an input channel's readings show (R170, R171). -/
def dinShows (s : State) (c : Ch) : Watch → Bool
  | .sinkLow => (s.ch c).mode == .di && decide ((s.ch c).din.isink < 35)
  | .sinkHigh => (s.ch c).mode == .di && decide (45 < (s.ch c).din.isink)
  | .supplyLimit => (s.ch c).mode.isDigital && (s.ch c).ssup && decide (30000 ≤ (s.ch c).din.issup)
  | .supplyClear => (s.ch c).mode.isDigital && !(s.ch c).din.folded && decide ((s.ch c).din.issup < 25000)
  | _ => false

/-- What the readings at a switch that is off show (R205, R206). -/
def offShows (s : State) (c : Ch) (w : Watch) : Bool :=
  let ch := s.ch c
  let vf := (s.holm (bankOf c)).vf
  ch.mode.isSwitch && !ch.conducting &&
    match w with
    | .offLevel5 => ch.level == 5 && ch.out == .off
    | .offHigh =>
      ch.level == 5 && ch.out == .off && s.heldFor c .offLevel5 20000 && bit ch.sw.diag 23 && !bit ch.sw.diag 21 && decide (3000 < ch.sw.vp)
    | .offLow => decide (ch.sw.vp < 2000)
    | .nearVf => decide (vf - 1000 ≤ ch.sw.vp)
    | .driven => decide (6000 ≤ ch.sw.vp) && decide (ch.sw.vp < vf - 1000)
    | .below5 => decide (ch.sw.vp < 5000)
    | _ => false

/-- What a bridge's readings show (Table 9 of 03_bridge_measurement). -/
def brgShows (s : State) (c : Ch) (w : Watch) : Bool :=
  let b := (s.ch c).brg
  ((s.ch c).mode == .brg || (s.ch c).mode == .res) &&
    match w with
    | .senseBad => b.senseNow
    | .senseOk => !b.senseNow
    | .signalBad => b.signalNow
    | .signalOk => !b.signalNow
    | .impBad => b.impNow
    | .impOk => !b.impNow
    | .leakBad => b.leakNow
    | .leakOk => !b.leakNow
    | .excShort => s.shorted c
    | _ => false

/-- A watched condition holds at the present readings. -/
def shows (s : State) (c : Ch) (w : Watch) : Bool :=
  s.holmLive (bankOf c) && (brgShows s c w || loopShows s c w || dinShows s c w || offShows s c w)

/-- The watched conditions after a reading: those that hold, each since when it has. -/
def watchChan (c : Ch) (s : State) : State :=
  s.setCh c (fun ch => { ch with
    watch := (Watch.all.filter (shows s c)).map (fun w => (w, (ch.since w).getD s.sys.raw)) })

/-- The current that a channel's wire model takes: while off 0; in a pair the sum, at the leader (R185, R208). -/
def State.wireCur (s : State) (c : Ch) : Nat :=
  ((s.members c).map (fun m => if (s.ch m).conducting then (s.ch m).sw.icur else 0)).sum

/-- The sequencer's 100 µs: conductor, fuse fraction and the bucket's drain of 0.01 mJ (R185, R188, R192). -/
def seqFrame (c : Ch) (s : State) : State :=
  let i := s.wireCur c
  let a := s.thetaA (bankOf c)
  let odd := s.oddMember c
  s.setCh c (fun ch => { ch with sw := { ch.sw with
    theta := if odd then ch.sw.theta else wireStep ch.sw.wire ch.sw.theta a i
    fuseF := if odd then ch.sw.fuseF else fuseStep ch.sw.fuse ch.sw.fuseF i
    bucket := ch.sw.bucket - 1 } })

/-- The field supply (µA), excitation (µA) and field heat (µW) of one channel in a frame (R217, R219). -/
def chanDraw (s : State) (h : HkFrame) (c : Ch) : Nat × Nat × Nat :=
  let ch := { s.ch c with mode := s.modeNow c }
  let vp := hkInt h.vp c
  let head (v : Int) : Nat := (h.vf - v).toNat
  if ch.mode.isSwitch then
    let i := ch.sw.icur * 250
    (i, 0, if ch.conducting then i * i * ronMicro ch.sw.tj / 1000000000000 else 0)
  else if ch.mode == .brg || ch.mode == .res then
    let i := ch.brg.iexc
    (0, i, (h.vx - vexcOf ch.mode ch.brg.meas).toNat * i / 1000)
  else if ch.mode == .aoi || ch.mode == .aii then
    let i := ch.loop.actual.toNat
    (i / 1000, 0, head vp * i / 1000000)
  else if ch.mode == .aot then (0, 0, ch.loop.actual.toNat * ch.loop.volts / 1000000)
  else if ch.mode.isDigital then
    let i := if ch.ssup then hkNat h.ssup c else 0
    (i + 10 * ch.din.isink, 0, head vp * i / 1000 + (hkInt h.vip c).toNat * ch.din.isink / 100)
  else (0, 0, 0)

/-- The ledger counters accumulate a frame (R218): the heat of a channel in DO or DOP is its switch's, that of another its driver's;
the Holm itself draws 22.5 mA (R217). -/
def meterFrame (b : Bank) (h : HkFrame) (s : State) : State :=
  let d (k : Fin 8) : Nat × Nat × Nat := chanDraw s h (chAt b k)
  let l := (List.finRange 8).map d
  let sw (k : Fin 8) : Bool := (s.modeNow (chAt b k)).isSwitch
  s.setBadger (fun g =>
    let m := g.meters[b]
    { g with meters := g.meters.set b.val { m with
        accF := m.accF + 22500 + (l.map (·.1)).sum
        accX := m.accX + (l.map (·.2.1)).sum
        accSw := Vector.ofFn (fun k => m.accSw[k] + if sw k then (d k).2.2 else 0)
        accDrv := Vector.ofFn (fun k => m.accDrv[k] + if sw k then 0 else (d k).2.2)
        frames := m.frames + 1 } b.isLt })

/-- The bits of PIMAGE that one Holm delivers, field by field (Table 10 of 11_host_ports, R169). -/
def imageFields (s : State) : List (Ch → Bool) :=
  [fun c => ((s.ch c).mode == .di && (s.ch c).din.state) || ((s.ch c).mode == .cnt && (s.ch c).din.raw),
   fun c => (s.ch c).mode.isSwitch && (s.ch c).conducting,
   fun c => (s.ch c).mode.isSwitch && (s.ch c).l5 == .on,
   fun c => s.locked c, fun c => s.burrowOn c, fun c => (s.ch (s.lead c)).l3.isSome,
   fun c => (s.actFor c).isSome, fun c => (s.ch c).stab.stable, fun c => (s.ch c).faultPresent]

/-- Mainland refreshes its copy from a Holm whose link is up (R292). -/
def refreshImage (b : Bank) (s : State) : State :=
  if (s.holm b).link && s.sys.vddOk then
    let fs := imageFields s
    s.setSys (fun y => { y with
      image := (List.range 32).map (fun k =>
        if k < 18 && k % 2 = b.val then
          byteAt (le16 (image16 (fun c => (fs.getD (k / 2) (fun _ => false)) c))) (k % 2)
        else byteAt y.image k)
      snapSeq := y.snapSeq + 1
      snapTs := y.snapTs.set b.val y.now b.isLt })
  else s

/-- Since when every switch of a bank has been off (R195). -/
def noteAllOff (b : Bank) (s : State) : State :=
  let on := (bankChs b).any (fun c => (s.ch c).conducting)
  s.setHolm b (fun h => { h with allOff := if on then none else some (h.allOff.getD s.sys.raw) })

/-- A housekeeping frame of a Holm out of lockout (R16). -/
def housekeeping (b : Bank) (raw : HkFrame) (s : State) : State :=
  if !(s.holm b).up then s
  else
    let h := HkFrame.corrected raw
    let jun := (s.holm b).junNext
    let s := noteAllOff b s
    let off10 := match (s.holm b).allOff with | some t => decide (t + msTicks 10000 ≤ s.sys.raw) | none => false
    let s := s.setHolm b (Holm.readFrame h)
    let s := overAll (bankChs b) (fun c s => s.setCh c (Chan.readFrame h jun off10 c (s.modeNow c))) s
    let s := overAll (bankChs b) (fun c s => watchChan c (openLoadFrame h c (seqFrame c s))) s
    let s := overAll h.clamps (fun e s => clampPulse (chAt b e.1) e.2 s) s
    refreshImage b (meterFrame b h s)

def execHousekeepingFrame (b : Bank) (h : HkFrame) (s : State) : Host.Outcome State Fault Refusal :=
  .next (housekeeping b h s)

/-- The select inputs name a bank position (R209). -/
def execSenseSelect (b : Bank) (sel : Fin 8) (s : State) : Host.Outcome State Fault Refusal :=
  .next (s.setHolm b (fun h => { h with sel := sel }))

/-- VIO becomes valid or invalid (R425): frames arrive, and LSEAL is sampled, only while it is valid. -/
def execVioInvalid (valid : Bool) (s : State) : Host.Outcome State Fault Refusal :=
  .next (s.setSys (fun y => { y with vio := valid }))

/-- The hold-up capacitor has charged, or its reserve has changed (R237, R239, R426, R427); a buffer that it no longer carries is
flushed (R238). -/
def vholdCharged (capUf vholdMv : Nat) (s : State) : State :=
  if s.sys.vddOk then
    let s := s.setBadger (fun b => { b with capUf := min 2200 capUf, vholdMv := vholdMv })
    let s := if decide (s.badger.bufLimit < s.den.bufBytes) && !s.coreDown 7 then flush s else s
    noteReserve s
  else s

def execVholdCharged (capUf vholdMv : Nat) (s : State) : Host.Outcome State Fault Refusal :=
  .next (vholdCharged capUf vholdMv s)

/-- The common fault bit is released after its 1 ms when no condition remains (R177). -/
def commonFaultExpiry (s : State) : State :=
  if s.sys.nfault && !s.anyFault && decide (s.sys.nfaultAt + msTicks 1 ≤ s.sys.now) then
    s.setSys (fun y => { y with nfault := false })
  else s

def execCommonFaultHoldExpiry (s : State) : Host.Outcome State Fault Refusal := .next (commonFaultExpiry s)

end Sys2Proof.Machine
end

