-- ==== Sys2Proof/Machine/SecCmds.lean ====
section
/-! DEFINITION. The SEC family (chapter 15): SEC.ATTEST (R413), SEC.CERT (R412) and SEC.OWNERKEY (R414). -/

namespace Sys2Proof.Machine

/-- The digest of the owner key, or zeros (Table 13 of 15_start_update_security). -/
def State.ownerDigest (s : State) : List Byte :=
  match s.sec.ownerKey with
  | some k => sha3_512 k
  | none => List.replicate 64 0

/-- The 480-byte attestation report (Table 13 of 15_start_update_security). -/
def attestReport (s : State) (nonce : List Byte) : List Byte :=
  let u := s.upd
  let run := s.infoOf u.run
  let mdig (i : Option ImgInfo) : List Byte := match i with | some x => x.mdig | none => List.replicate 64 0
  let other := match u.st[1 - u.run] with
    | .verified | .fallback => mdig (s.infoOf (1 - u.run))
    | _ => List.replicate 64 0
  [1, 0, 0, 0] ++ le32 s.devid ++ (List.range 8).map (fun i => Config.certByte 0 (4 + i)) ++ nonce ++ le64 s.sys.now ++
    le48 s.wall ++
    [bitsByte [s.sys.wallValid, u.inTrial, s.recovery, s.sec.ownerKey.isSome, s.lglBit, s.legal.port.isSome],
      BitVec.ofNat 8 u.run.val] ++ le32 s.den.boot.toNat ++ le32 (s.verOf u.run) ++ le32 u.floor.toNat ++ u.mdig ++
    s.legalField ((legId run).drop 6 ++ (legId run).take 6) ++ [0, 0] ++ s.legalDigest ++ s.den.chain ++ le64 s.den.head ++
    s.legalField (le32 s.den.lec.toNat) ++ s.ownerDigest ++ other

/-- The n-th identity signature over a report (R411, R413). -/
def identitySign (n : Nat) (report : List Byte) : List Byte :=
  (List.range 4627).map (Config.mldsaSignByte n (sha3_512 report))

def secAttest (r : Req) (s : State) : Res :=
  let d := r.payload
  let rep := attestReport s (d.take 32)
  checked [(d.length == 36 && zeroBytes d 32 4, stE_FORMAT)] s
    (okData (rep ++ identitySign s.sys.freeCtr rep)
      (denWrite 0x0131 1 ([BitVec.ofNat 8 r.port.val, 0, 0, 0] ++ d.take 32 ++ sha3_512 rep)
        (s.setSys (fun y => { y with freeCtr := y.freeCtr + 1 }))))

def execSecAttest (r : Req) (s : State) : Host.Outcome State Fault Refusal := .next (runMail 0x0C01 r s (secAttest r))

/-- A certificate (R412): format, DEVID of the device's own and reserved bytes as stated, the rest as manufactured. -/
def certData (s : State) (idx : Nat) : List Byte :=
  let b (i n : Nat) : List Byte := (List.range n).map (fun k => Config.certByte idx (i + k))
  [1, 0] ++ b 2 14 ++ (if idx = 0 then le32 s.devid else b 16 4) ++ b 20 8 ++ [0, 0, 0, 0] ++ b 32 7219

def secCert (r : Req) (s : State) : Res :=
  let d := r.payload
  checked [(d.length == 4 && zeroBytes d 1 3, stE_FORMAT), (leAt d 0 1 ≤ 1, stE_RANGE)] s
    (okData (certData s (leAt d 0 1)) s)

def execSecCert (r : Req) (s : State) : Host.Outcome State Fault Refusal := .next (runMail 0x0C02 r s (secCert r))

/-- Payload length of each action (Table 14 of 15_start_update_security). -/
def keyLen (act : Nat) : Nat :=
  match act with
  | 0 => 4
  | 1 => 2596
  | 2 => 7383
  | _ => 4791

/-- The token body of a replace or remove names this device, this port's nonce and the new key, and the present key signed
it (R414). -/
def tokenOk (r : Req) (s : State) (newDig sig : List Byte) : Bool :=
  let body := (r.payload.drop 4).take 160
  match s.sec.ownerKey with
  | none => false
  | some k => body.take 64 == identityDigest && s.sec.nonces[r.port] == some ((body.drop 64).take 32) &&
      body.drop 96 == newDig && mldsaVerify k (sha3_512 body) sig

/-- A change of the owner key: its record, EV252, the end of every Den snapshot, and an image already VERIFIED returns to
DOWNLOADED when a key is set (R414). -/
def setKey (act : Nat) (key : Option (List Byte)) (s : State) : State :=
  let old := s.ownerDigest
  let t := { s with sec := { s.sec with ownerKey := key } }
  let k := t.upd.other
  let t := if key.isSome && t.upd.st[k] == .verified then
      t.setUpd (fun u => { u with st := u.st.set k.val .downloaded k.isLt })
    else t
  endSnaps (raise 252 [] (denWrite 0x0130 3 ([BitVec.ofNat 8 act, 0, 0, 0] ++ old ++ t.ownerDigest) t))

/-- A read draws a fresh nonce for the port. -/
def readKey (r : Req) (s : State) : Res :=
  let n := s.drawNonce
  okData ([BitVec.ofNat 8 (b2n s.sec.ownerKey.isSome)] ++ s.ownerDigest ++ n.1)
    { n.2 with sec := { n.2.sec with nonces := n.2.sec.nonces.set r.port.val (some n.1) r.port.isLt } }

/-- Whatever its outcome, an attempt to change the key consumes the port's nonce. -/
def spendNonce (p : Port) (s : State) : State :=
  { s with sec := { s.sec with nonces := s.sec.nonces.set p.val none p.isLt } }

/-- SEC.OWNERKEY (R414). A payload of a wrong form or a reserved ACT is not executed and spends no nonce (R8). -/
def secOwnerkey (r : Req) (s : State) : Res :=
  let d := r.payload
  let act := leAt d 0 1
  let t := spendNonce r.port s
  checked [(4 ≤ d.length && zeroBytes d 1 3 && (act > 3 || d.length == keyLen act), stE_FORMAT), (act ≤ 3, stE_RANGE)] s
    (match act with
     | 0 => readKey r s
     | 1 => checked [(s.sec.ownerKey.isNone, stE_STATE),
          (s.sys.order == 2 || (s.isLegalPort r.port && !s.legal.sealed), stE_LEGAL)] t (ok (setKey 1 (some (d.drop 4)) t))
     | 2 =>
       let key := (d.drop 164).take 2592
       checked [(tokenOk r s (sha3_512 key) (d.drop 2756), stE_AUTH)] t (ok (setKey 2 (some key) t))
     | _ => checked [(tokenOk r s (List.replicate 64 0) (d.drop 164), stE_AUTH)] t (ok (setKey 3 none t)))

def execSecOwnerkey (r : Req) (s : State) : Host.Outcome State Fault Refusal :=
  .next (runMail 0x0C03 r s (secOwnerkey r))

end Sys2Proof.Machine
end

