-- ==== Sys2Proof/Machine/SwitchEv.lean ====
section
/-! DEFINITION. What a switch and its sequencer do of themselves (R14, R186 to R207): trips, limits, thermal decisions, open
load and shorts, pulse edges, inrush learning and sequencer faults. -/

namespace Sys2Proof.Machine

/-- A switch channel whose Holm is live. -/
def State.switchUp (s : State) (c : Ch) : Bool :=
  (s.ch c).mode.isSwitch && s.holmLive (bankOf c) && (s.holm (bankOf c)).up

/-- The fuse lock is set with its event (R186, R188); a pair's trip is its leader's (R208). -/
def fuseTrip (c : Ch) (kind : Byte) (s : State) : State :=
  swEvent (s.lead c) 0 kind 3 (setLock c (fun l => { l with fuse := true }) s)

/-- θ_w reaches θ_trip under PMODEL 0, whether the switch is on or off (R186). -/
def wireTrip (c : Ch) (s : State) : State :=
  let w := (s.ch (s.lead c)).sw
  if s.switchUp c && !bit w.wire 31 && decide (thetaTrip w.wire ≤ w.theta) && !(s.ch c).locks.fuse then fuseTrip c 1 s else s

def execWireModelTrip (c : Ch) (s : State) : Host.Outcome State Fault Refusal := .next (wireTrip c s)

/-- F reaches 1 under PMODEL 1 (R188). -/
def fuseTableTrip (c : Ch) (s : State) : State :=
  let w := (s.ch (s.lead c)).sw
  if s.switchUp c && bit w.wire 31 && decide (fuseFull ≤ w.fuseF) && !(s.ch c).locks.fuse then fuseTrip c 2 s else s

def execFuseTableTrip (c : Ch) (s : State) : Host.Outcome State Fault Refusal := .next (fuseTableTrip c s)

/-- The switch regulates its current to ILIM, or no longer (R189). -/
def currentLimit (c : Ch) (on : Bool) (s : State) : State :=
  if s.switchUp c && (!on || (s.ch c).conducting) then
    s.setCh c (fun ch => { ch with sw := { ch.sw with limiting := on } })
  else s

def execCurrentLimit (c : Ch) (on : Bool) (s : State) : Host.Outcome State Fault Refusal := .next (currentLimit c on s)

/-- A thermal latch: the hold gives way to it (R197). -/
def thermLatch (c : Ch) (kind : Byte) (s : State) : State :=
  swEvent c 2 kind 4 (setLock c (fun l => { l with thermHold := false, thermLatch := true }) s)

/-- A lock other than the thermal hold stands on a channel. -/
def Locks.otherThanHold (l : Locks) : Bool := { l with thermHold := false }.any

/-- Ends the thermal hold of a channel, in a pair of both members, and evaluates. -/
def endHold (c : Ch) (s : State) : State :=
  evalOut c (overAll (s.members c) (fun m s => s.setCh m (fun ch => { ch with
    locks := { ch.locks with thermHold := false } })) s)

/-- Automatic restart: it counts for both members of a pair (R196). -/
def autoRestart (c : Ch) (s : State) : State :=
  let s := overAll (s.members c) (fun m s => s.setCh m (fun ch => { ch with
    sw := { ch.sw with restarts := s.sys.now :: ch.sw.restarts.take 15 } })) s
  swEvent c 2 2 1 (endHold c s)

/-- The outcomes of Table 6 of 08_load_switches; a latch with its event kind. -/
inductive ThermOut where
  | none_
  | otherLock
  | restart
  | wait
  | hold
  | latch (kind : Byte)
  deriving DecidableEq, Repr

/-- Table 6 of 08_load_switches on one switch: the first row that matches. -/
def thermOut (s : State) (c : Ch) : ThermOut :=
  let ch := s.ch c
  let l := ch.locks
  if 175 * 16 ≤ ch.sw.tj then .latch 4
  else if l.thermHold && l.otherThanHold then .otherLock
  else if s.sensingFaulty c then (if l.thermHold then .latch 3 else .none_)
  else if !l.thermHold then
    (if ch.conducting && decide ((fld (s.ch (s.lead c)).sw.prot 22 16 : Int) * 16 < s.dtjc c) then .hold else .none_)
  else if !s.cool c then .wait
  else if 0 < s.restartsLeft c then .restart
  else .latch 3

/-- The order of the outcomes in a pair (Table 8 of 08_load_switches): latch, hold, wait, restart, no action. -/
def ThermOut.rank : ThermOut → Nat
  | .latch k => if k = 4 then 6 else 5
  | .hold => 4
  | .otherLock => 3
  | .wait => 2
  | .restart => 1
  | .none_ => 0

/-- The outcome for a channel, in a pair the more severe of its members' (R208). -/
def worstOut (s : State) (c : Ch) : ThermOut :=
  (s.members c).foldl (fun a m => if a.rank < (thermOut s m).rank then thermOut s m else a) .none_

/-- The thermal decision (R197). -/
def thermalDecide (c : Ch) (s : State) : State :=
  match worstOut s c with
  | .latch k => if (s.ch c).locks.thermLatch then s else thermLatch c k s
  | .otherLock => endHold c s
  | .hold => swEvent c 2 1 3 (setLock c (fun l => { l with thermHold := true }) s)
  | .restart => autoRestart c s
  | .wait | .none_ => s

/-- A junction reading relative to the case enters. -/
def setDt (c : Ch) (dt : Int) (s : State) : State :=
  s.setCh c (fun ch => { ch with sw := { ch.sw with tj := (s.holm (bankOf c)).case + dt } })

def execThermalHold (c : Ch) (dt : Int) (s : State) : Host.Outcome State Fault Refusal :=
  .next (if s.switchUp c then thermalDecide c (setDt c dt s) else s)

/-- A switch in thermal hold is judged again (R196, R197). -/
def thermalAgain (c : Ch) (dt : Int) (s : State) : State :=
  if s.switchUp c && (s.ch c).locks.thermHold then thermalDecide c (setDt c dt s) else s

def execRestart (c : Ch) (dt : Int) (s : State) : Host.Outcome State Fault Refusal := .next (thermalAgain c dt s)

/-- The absolute limit is read (R197). -/
def thermalAbsolute (c : Ch) (tj dt : Int) (s : State) : State :=
  if !s.switchUp c then s
  else if 175 * 16 ≤ tj then thermalDecide c (s.setCh c (fun ch => { ch with sw := { ch.sw with tj := tj } }))
  else thermalDecide c (setDt c dt s)

def execThermalLatch (c : Ch) (tj dt : Int) (s : State) : Host.Outcome State Fault Refusal :=
  .next (thermalAbsolute c tj dt s)

/-- A channel's sensing became faulty or valid (R195): its event, and the thermal decision of a hold. -/
def sensingChanged (c : Ch) (was : Bool) (s : State) : State :=
  let is := s.sensingFaulty c
  if is == was || !s.switchUp c then s
  else thermalDecide c (swEvent c 2 (if is then 5 else 6) 4 s)

/-- The validity of ΔT sensing is judged by the latest readings, for a channel by its junction or for its whole bank by the case
reading (R195). -/
def sensingFault (c : Ch) (wholeBank : Bool) (s : State) : State :=
  let b := bankOf c
  if !((s.holm b).up && s.holmLive b) then s
  else
    let t := if wholeBank then s.setHolm b (fun h => { h with caseFault := h.caseBad })
      else s.setCh c (fun ch => { ch with sw := { ch.sw with sensFault := ch.sw.junBad } })
    overAll (if wholeBank then bankChs b else [c]) (fun d t => sensingChanged d (s.sensingFaulty d) t) t

def execSensingFault (b : Bank) (k : Fin 8) (wholeBank : Bool) (s : State) : Host.Outcome State Fault Refusal :=
  .next (sensingFault (chAt b k) wholeBank s)

/-- A switch diagnostic's report changes, with its event; a cleared report writes a Den record at INFO (R214). -/
def swReport (c : Ch) (k : Nat) (kind : Byte) (f : Sw → Sw) (on : Bool) (s : State) : State :=
  let s := (if on then assertFault s else s).setCh c (fun ch => { ch with sw := f ch.sw })
  notifyCh c k (swPayload s c kind) (if on then none else some 1) s

/-- On-state open load (R204): the current has stayed below OLTH for OLT ms of counted on-time, or above 1.25 × OLTH for 50 ms of
it; a pair's report is its leader's (R208). -/
def onOpenLoad (c : Ch) (on : Bool) (s : State) : State :=
  let w := (s.ch c).sw
  if !s.switchUp c || s.oddMember c then s
  else if on && !w.onOpen && bit w.diag 22 && decide (10 * fld w.diag 7 0 ≤ w.olLow) then
    swReport c 3 1 (fun w => { w with onOpen := true }) true s
  else if !on && w.onOpen && decide (500 ≤ w.olHigh) then swReport c 3 3 (fun w => { w with onOpen := false }) false s
  else s

def execOnStateOpenLoad (c : Ch) (on : Bool) (s : State) : Host.Outcome State Fault Refusal := .next (onOpenLoad c on s)

/-- Off-state open load (R205): V(P) has stayed above 3.0 V for 20 ms of the check, or below 2.0 V for 50 ms. -/
def offOpenLoad (c : Ch) (on : Bool) (s : State) : State :=
  let w := (s.ch c).sw
  if !s.switchUp c || (s.ch c).conducting then s
  else if on && !w.offOpen && bit w.diag 23 && !bit w.diag 21 && s.heldFor c .offHigh 200000 then
    swReport c 3 2 (fun w => { w with offOpen := true }) true s
  else if !on && w.offOpen && s.heldFor c .offLow 500000 then swReport c 3 3 (fun w => { w with offOpen := false }) false s
  else s

def execOffStateOpenLoad (b : Bank) (k : Fin 8) (on : Bool) (s : State) : Host.Outcome State Fault Refusal :=
  .next (offOpenLoad (chAt b k) on s)

/-- With the switch off, P near VF or driven from outside for 1 ms is reported, and either report cleared after 50 ms below 5.0 V
(R206), with one event when both stand (DESIGN CHOICE, log entry 149). -/
def shortSupply (c : Ch) (on : Bool) (s : State) : State :=
  let w := (s.ch c).sw
  if !s.switchUp c || (s.ch c).conducting then s
  else if on && s.heldFor c .nearVf 10000 then
    if w.shortVf then s else swReport c 4 1 (fun w => { w with shortVf := true }) true s
  else if on && s.heldFor c .driven 10000 then
    if w.extDrive then s else swReport c 4 2 (fun w => { w with extDrive := true }) true s
  else if !on && (w.shortVf || w.extDrive) && s.heldFor c .below5 500000 then
    swReport c 4 4 (fun w => { w with shortVf := false, extDrive := false }) false s
  else s

def execShortToSupply (b : Bank) (k : Fin 8) (on : Bool) (s : State) : Host.Outcome State Fault Refusal :=
  .next (shortSupply (chAt b k) on s)

/-- V(P) above VF with the switch on: reverse-current hold (R207). -/
def reverseHold (c : Ch) (vp : Int) (s : State) : State :=
  if s.switchUp c && (s.ch c).conducting && decide ((s.holm (bankOf c)).vf + 100 < vp) && !(s.ch c).locks.revHold then
    swEvent c 4 3 3 (setLock c (fun l => { l with revHold := true }) s)
  else s

def execReverseCurrentHold (c : Ch) (vp : Int) (s : State) : Host.Outcome State Fault Refusal := .next (reverseHold c vp s)

/-- The hold ends by itself when V(P) has stayed below VF + 0.05 V for 1 ms; level 5 stays as it was (R207, R36). -/
def reverseHoldEnd (c : Ch) (x : PinRead) (s : State) : State :=
  if s.switchUp c && (s.ch c).locks.revHold && decide (x.mv < (s.holm (bankOf c)).vf + 50) && decide (msTicks 1 ≤ x.held) then
    swEvent c 4 5 1 (evalOut c (overAll (s.members c) (fun m s => s.setCh m (fun ch => { ch with
      locks := { ch.locks with revHold := false } })) s))
  else s

def execReverseCurrentHoldEnd (c : Ch) (x : PinRead) (s : State) : Host.Outcome State Fault Refusal :=
  .next (reverseHoldEnd c x s)

/-- On-time of a generator period, in Holm oscillator periods (R201); 10 µs are 245.76 of them. -/
def Pgen.onTime (g : Pgen) : Nat := g.period.toNat * g.duty.toNat / 65536

/-- The generator drives a channel: the governing level demands drive and the channel holds a timebase (R199, R202). -/
def State.driven (s : State) (c : Ch) : Bool :=
  (s.ch c).mode == .dop && (s.govern c).2 == .on && (s.ch c).sw.tb.isSome

/-- Turns a channel's switch on or off at a generator edge (R201); such an edge is never moved (R212). -/
def pulseTo (c : Ch) (on : Bool) (s : State) : State :=
  let now := s.sys.now
  noteEdge (bankOf c) now on (overAll (s.members c) (fun m s => s.setCh m (fun ch => { ch with
    conducting := on
    sw := { ch.sw with
      limiting := ch.sw.limiting && on
      onSince := if on then now else ch.sw.onSince
      lrnDone := ch.sw.lrnDone && !on
      offSince := if on then ch.sw.offSince else now } })) s)

/-- The timebase that a channel is on. -/
def State.timebase (s : State) (c : Ch) : Option Timebase :=
  match (s.ch c).sw.tb with
  | some k => (s.holm (bankOf c)).tbs[k]
  | none => none

/-- The latest on edge of a phase at or before a time: in each period PHASE × PERIOD / 256 after its start (R201). -/
def Timebase.onEdge (t : Timebase) (phase u : Nat) : Option Int :=
  let first := t.start + ((phase * t.len / 256 : Nat) : Int)
  if (u : Int) < first then none else some (first + ((u : Int) - first) / (max 1 t.len : Nat) * t.len)

/-- The phase of a channel's next on edge: that of the settings in force, on a timebase just joined that of the new ones (R201; log
entry 52). -/
def Sw.edgePhase (w : Sw) (t : Timebase) : Nat :=
  if w.prun.period = t.period then w.prun.phase.toNat else w.pgen.phase.toNat

/-- The on edge of a channel's generator (R201, R202): the commanded settings come into force; with drive the switch turns on, unless
the on-time is over already; for an on-time shorter than 10 µs it is off for that period. -/
def pulseOn (c : Ch) (m : ClampMeas) (t : Timebase) (s : State) : State :=
  let w := (s.ch c).sw
  let u := s.tbNow (bankOf c)
  match t.onEdge (w.edgePhase t) u with
  | none => s
  | some e =>
    if e ≤ w.edgeFrom then s
    else
      let g := { w.pgen with period := t.period }
      let s := overAll (s.members c) (fun m s => s.setCh m (fun ch => { ch with sw := { ch.sw with
        lastOn := e
        edgeFrom := e
        prun := g } })) s
      if !s.driven c then s
      else if g.onTime < 246 then (if (s.ch c).conducting then clampPulse c m (pulseTo c false s) else s)
      else if !(s.ch c).conducting && decide ((u : Int) < e + 10000 * g.onTime) then pulseTo c true s
      else s

/-- The off edge: DUTY × PERIOD / 65536 after the on edge (R201); an off-time shorter than 10 µs is not produced. -/
def pulseOff (c : Ch) (m : ClampMeas) (s : State) : State :=
  let w := (s.ch c).sw
  let g := w.prun
  if s.driven c && (s.ch c).conducting && decide (246 ≤ g.period.toNat - g.onTime) &&
      decide (w.lastOn + 10000 * g.onTime ≤ s.tbNow (bankOf c)) then
    clampPulse c m (pulseTo c false s)
  else s

/-- An edge of the pulse generator of a channel that holds a timebase, at or after the instant that its settings give it (R201,
R202). -/
def pulseEdge (c : Ch) (on : Bool) (m : ClampMeas) (s : State) : State :=
  if !(s.switchUp c && (s.ch c).mode == .dop) then s
  else
    match s.timebase (s.lead c) with
    | some t => if on then pulseOn c m t s else pulseOff c m s
    | none => s

def execPulseEdge (c : Ch) (on : Bool) (m : ClampMeas) (s : State) : Host.Outcome State Fault Refusal :=
  .next (pulseEdge c on m s)

/-- A learned value after a measurement (R190). -/
def learn (old new : Nat) : Nat := ((old : Int) + ((new : Int) - old) / 4).toNat

/-- 100 ms after a turn-on that followed at least 1 s off, the learned inrush is updated, once for that turn-on (R190). -/
def inrushLearning (c : Ch) (ipk qin i100 : Nat) (s : State) : State :=
  let w := (s.ch c).sw
  if s.switchUp c && (s.ch c).conducting && decide (w.onSince + msTicks 100 ≤ s.sys.now) &&
      decide (w.offSince + msTicks 1000 ≤ w.onSince) && !(s.ch (s.lead c)).sw.lrnDone then
    s.setCh (s.lead c) (fun ch => { ch with
      sw :=
        if !ch.sw.learned then { ch.sw with learned := true, ipk := ipk, qin := qin, i100 := i100, lrnDone := true }
        else
          { ch.sw with
            ipk := learn ch.sw.ipk ipk
            qin := learn ch.sw.qin qin
            i100 := learn ch.sw.i100 i100
            lrnDone := true } })
  else s

def execInrushLearning (c : Ch) (ipk qin i100 : Nat) (s : State) : Host.Outcome State Fault Refusal :=
  .next (inrushLearning c ipk qin i100 s)

/-- A word of the sequencer's microcode has the wrong parity (R14): which one is a free value (log entry 10). -/
def parityFlaw (c : Ch) (s : State) : State :=
  s.draw.2.setCh c (fun ch => { ch with ucode := { ch.ucode with
    flaws := (⟨s.draw.1 % 1024, Nat.mod_lt _ (by decide)⟩ : Fin 1024) :: ch.ucode.flaws } })

/-- A sequencer fault (R14): outside OFF a protection lock; the event with the bank position, and the reload begins. -/
def sequencerFault (c : Ch) (watchdog : Bool) (s : State) : State :=
  if !((s.holm (bankOf c)).up && s.holmLive (bankOf c)) then s
  else
    let off := (s.ch c).mode == .off
    let s := if watchdog then s else parityFlaw c s
    let s := if off then s else setLock c (fun l => { l with seqFault := true }) s
    notifyHolm (bankOf c) 2 (if watchdog then 2 else 1) (BitVec.ofNat 8 (posOf c).val) 0 (if off then none else some 3)
      (arise (.load (.seqr c)) (s.setCh c (fun ch => { ch with reloading := true })))

def execSequencerFault (c : Ch) (watchdog : Bool) (s : State) : Host.Outcome State Fault Refusal :=
  .next (sequencerFault c watchdog s)

/-- The sequencer's microcode is reloaded; the lock stays until OUT.CLEAR with SEQF (R14, R198). -/
def sequencerReloaded (c : Ch) (s : State) : State :=
  if (s.ch c).reloading && !s.internalWaits (.load (.seqr c)) && !s.journalWaits (bankOf c) then
    notifyHolm (bankOf c) 2 3 (BitVec.ofNat 8 (posOf c).val) 0 none (endInternal (.load (.seqr c)) (s.setCh c (fun ch => { ch with
      reloading := false
      ucode := s.ucodeNow })))
  else s

def execSequencerReloadComplete (c : Ch) (s : State) : Host.Outcome State Fault Refusal := .next (sequencerReloaded c s)

end Sys2Proof.Machine
end

