-- ==== Sys2Proof/Machine/Dispatch.lean ====
section
/-! DEFINITION. exec: one arm per command, each one call of its meaning (or a rejection by name). -/

namespace Sys2Proof.Machine

def exec (i : Instr) (s : State) : Host.Outcome State Fault Refusal :=
  match i with
  | .sysInfo r => Sys2Proof.Machine.execSysInfo r s
  | .sysReset r => Sys2Proof.Machine.execSysReset r s
  | .sysTsync r => Sys2Proof.Machine.execSysTsync r s
  | .sysWdog r => Sys2Proof.Machine.execSysWdog r s
  | .sysClock r => Sys2Proof.Machine.execSysClock r s
  | .chMode r m => Sys2Proof.Machine.execChMode r m s
  | .chInfo r => Sys2Proof.Machine.execChInfo r s
  | .chMeas r => Sys2Proof.Machine.execChMeas r s
  | .chDiag r => Sys2Proof.Machine.execChDiag r s
  | .chPlan r => Sys2Proof.Machine.execChPlan r s
  | .chStream r => Sys2Proof.Machine.execChStream r s
  | .chPair r => Sys2Proof.Machine.execChPair r s
  | .chUnpair r => Sys2Proof.Machine.execChUnpair r s
  | .chInput r => Sys2Proof.Machine.execChInput r s
  | .chCount r => Sys2Proof.Machine.execChCount r s
  | .chField r => Sys2Proof.Machine.execChField r s
  | .chSafe r => Sys2Proof.Machine.execChSafe r s
  | .chBmap r => Sys2Proof.Machine.execChBmap r s
  | .outSet r m => Sys2Proof.Machine.execOutSet r m s
  | .outProt r => Sys2Proof.Machine.execOutProt r s
  | .outWire r => Sys2Proof.Machine.execOutWire r s
  | .outFuse r => Sys2Proof.Machine.execOutFuse r s
  | .outClear r => Sys2Proof.Machine.execOutClear r s
  | .outPgen r => Sys2Proof.Machine.execOutPgen r s
  | .outDiag r => Sys2Proof.Machine.execOutDiag r s
  | .thrSet r => Sys2Proof.Machine.execThrSet r s
  | .thrGet r => Sys2Proof.Machine.execThrGet r s
  | .thrArm r => Sys2Proof.Machine.execThrArm r s
  | .thrDisarm r => Sys2Proof.Machine.execThrDisarm r s
  | .thrStab r => Sys2Proof.Machine.execThrStab r s
  | .fltLoad r => Sys2Proof.Machine.execFltLoad r s
  | .fltRom r => Sys2Proof.Machine.execFltRom r s
  | .fltSwap r => Sys2Proof.Machine.execFltSwap r s
  | .loopCfg r => Sys2Proof.Machine.execLoopCfg r s
  | .loopSet r => Sys2Proof.Machine.execLoopSet r s
  | .loopTrim r => Sys2Proof.Machine.execLoopTrim r s
  | .mdmCfg r => Sys2Proof.Machine.execMdmCfg r s
  | .mdmSend r => Sys2Proof.Machine.execMdmSend r s
  | .mdmRead r => Sys2Proof.Machine.execMdmRead r s
  | .mdmReply r => Sys2Proof.Machine.execMdmReply r s
  | .bdgSet r => Sys2Proof.Machine.execBdgSet r s
  | .bdgQuery r => Sys2Proof.Machine.execBdgQuery r s
  | .bdgShed r => Sys2Proof.Machine.execBdgShed r s
  | .denSnap r => Sys2Proof.Machine.execDenSnap r s
  | .denRead r => Sys2Proof.Machine.execDenRead r s
  | .denClear r => Sys2Proof.Machine.execDenClear r s
  | .crcCfg r => Sys2Proof.Machine.execCrcCfg r s
  | .crcRun r => Sys2Proof.Machine.execCrcRun r s
  | .crcSave r => Sys2Proof.Machine.execCrcSave r s
  | .crcLoad r => Sys2Proof.Machine.execCrcLoad r s
  | .crcRead r => Sys2Proof.Machine.execCrcRead r s
  | .updBegin r => Sys2Proof.Machine.execUpdBegin r s
  | .updChunk r => Sys2Proof.Machine.execUpdChunk r s
  | .updVerify r => Sys2Proof.Machine.execUpdVerify r s
  | .updActivate r => Sys2Proof.Machine.execUpdActivate r s
  | .updConfirm r => Sys2Proof.Machine.execUpdConfirm r s
  | .updStatus r => Sys2Proof.Machine.execUpdStatus r s
  | .secAttest r => Sys2Proof.Machine.execSecAttest r s
  | .secCert r => Sys2Proof.Machine.execSecCert r s
  | .secOwnerkey r => Sys2Proof.Machine.execSecOwnerkey r s
  | .ownClaim r => Sys2Proof.Machine.execOwnClaim r s
  | .ownRelease r => Sys2Proof.Machine.execOwnRelease r s
  | .ownResume r => Sys2Proof.Machine.execOwnResume r s
  | .ownQuery r => Sys2Proof.Machine.execOwnQuery r s
  | .lglGet r => Sys2Proof.Machine.execLglGet r s
  | .lglDeclare r => Sys2Proof.Machine.execLglDeclare r s
  | .opQuery r => Sys2Proof.Machine.execOpQuery r s
  | .opAbort r => Sys2Proof.Machine.execOpAbort r s
  | .opRelease r => Sys2Proof.Machine.execOpRelease r s
  | .opFetch r => Sys2Proof.Machine.execOpFetch r s
  | .cmdq p fseq data => Sys2Proof.Machine.execCmdq p fseq data s
  | .rspq p fseq n => Sys2Proof.Machine.execRspq p fseq n s
  | .devtime p fseq addr n crcOk => Sys2Proof.Machine.execDevtime p fseq addr n crcOk s
  | .pimage p fseq addr n crcOk => Sys2Proof.Machine.execPimage p fseq addr n crcOk s
  | .evpend p fseq k data => Sys2Proof.Machine.execEvpend p fseq k data s
  | .frmerr p fseq k value => Sys2Proof.Machine.execFrmerr p fseq k value s
  | .opwindow p fseq addr data => Sys2Proof.Machine.execOpwindow p fseq addr data s
  | .cmdrst p fseq => Sys2Proof.Machine.execCmdrst p fseq s
  | .rwnd p fseq => Sys2Proof.Machine.execRwnd p fseq s
  | .rstd p fseq => Sys2Proof.Machine.execRstd p fseq s
  | .chen p fseq data => Sys2Proof.Machine.execChen p fseq data s
  | .registerWrite p fseq addr data => Sys2Proof.Machine.execRegisterWrite p fseq addr data s
  | .statusOnlyFrame p fseq => Sys2Proof.Machine.execStatusOnlyFrame p fseq s
  | .chainFrame p fseq slot => Sys2Proof.Machine.execChainFrame p fseq slot s
  | .exchange p sequence => Sys2Proof.Machine.execExchange p sequence s
  | .output p outWord mask sequence => Sys2Proof.Machine.execOutput p outWord mask sequence s
  | .outputWithPulseSet p outWord mask pset sequence => Sys2Proof.Machine.execOutputWithPulseSet p outWord mask pset sequence s
  | .exit p sequence => Sys2Proof.Machine.execExit p sequence s
  | .badgerEvaluation => Sys2Proof.Machine.execBadgerEvaluation s
  | .deadlineExpiry p tag => Sys2Proof.Machine.execDeadlineExpiry p tag s
  | .queueDeadlineExpiry p tag => Sys2Proof.Machine.execQueueDeadlineExpiry p tag s
  | .operationCompletion => Sys2Proof.Machine.execOperationCompletion s
  | .ceilingRecomputation => Sys2Proof.Machine.execCeilingRecomputation s
  | .ledgerExcess code c => Sys2Proof.Machine.execLedgerExcess code c s
  | .shedState b x => Sys2Proof.Machine.execShedState b x s
  | .shedStep b vf => Sys2Proof.Machine.execShedStep b vf s
  | .shedStateEnd b x => Sys2Proof.Machine.execShedStateEnd b x s
  | .restore c => Sys2Proof.Machine.execRestore c s
  | .warning b x => Sys2Proof.Machine.execWarning b x s
  | .undervoltage b x => Sys2Proof.Machine.execUndervoltage b x s
  | .surge b x => Sys2Proof.Machine.execSurge b x s
  | .reverse b => Sys2Proof.Machine.execReverse b s
  | .groundLoss b x => Sys2Proof.Machine.execGroundLoss b x s
  | .supplyStateExit b st x => Sys2Proof.Machine.execSupplyStateExit b st x s
  | .holmLockout b vf => Sys2Proof.Machine.execHolmLockout b vf s
  | .holmRestart b strap x => Sys2Proof.Machine.execHolmRestart b strap x s
  | .linkLoss x => Sys2Proof.Machine.execLinkLoss x s
  | .linkEstablishment b => Sys2Proof.Machine.execLinkEstablishment b s
  | .holdTExpiry c => Sys2Proof.Machine.execHoldTExpiry c s
  | .portWatchdogExpiry p => Sys2Proof.Machine.execPortWatchdogExpiry p s
  | .timeBeacon b m => Sys2Proof.Machine.execTimeBeacon b m s
  | .timeUncertain b => Sys2Proof.Machine.execTimeUncertain b s
  | .tsyncEdge highNs => Sys2Proof.Machine.execTsyncEdge highNs s
  | .crossHolmRelay src => Sys2Proof.Machine.execCrossHolmRelay src s
  | .burEn b x => Sys2Proof.Machine.execBurEn b x s
  | .burIn b k x => Sys2Proof.Machine.execBurIn b k x s
  | .seal x => Sys2Proof.Machine.execSeal x s
  | .sample c x => Sys2Proof.Machine.execSample c x s
  | .action c m => Sys2Proof.Machine.execAction c m s
  | .chainedArming c k => Sys2Proof.Machine.execChainedArming c k s
  | .swapBoundary c => Sys2Proof.Machine.execSwapBoundary c s
  | .planEffect b => Sys2Proof.Machine.execPlanEffect b s
  | .movedChange c m => Sys2Proof.Machine.execMovedChange c m s
  | .datapathReload b => Sys2Proof.Machine.execDatapathReload b s
  | .disturbedInputEvent c d => Sys2Proof.Machine.execDisturbedInputEvent c d s
  | .diagnosticReport c d => Sys2Proof.Machine.execDiagnosticReport c d s
  | .diagnosticClearance c d => Sys2Proof.Machine.execDiagnosticClearance c d s
  | .excitationShort c => Sys2Proof.Machine.execExcitationShort c s
  | .excitationSupply b vx => Sys2Proof.Machine.execExcitationSupply b vx s
  | .compliance b k on => Sys2Proof.Machine.execCompliance b k on s
  | .alarmFallback b k => Sys2Proof.Machine.execAlarmFallback b k s
  | .readbackFault b k => Sys2Proof.Machine.execReadbackFault b k s
  | .loopWireBreak b k on => Sys2Proof.Machine.execLoopWireBreak b k on s
  | .loopShort b k on => Sys2Proof.Machine.execLoopShort b k on s
  | .foldBackRetry c recovered => Sys2Proof.Machine.execFoldBackRetry c recovered s
  | .modemFrame c f => Sys2Proof.Machine.execModemFrame c f s
  | .transaction c => Sys2Proof.Machine.execTransaction c s
  | .replyTimeout c => Sys2Proof.Machine.execReplyTimeout c s
  | .edge c vip held => Sys2Proof.Machine.execEdge c vip held s
  | .wireBreak c on => Sys2Proof.Machine.execWireBreak c on s
  | .sensorSupplyOverload c on => Sys2Proof.Machine.execSensorSupplyOverload c on s
  | .count c e g => Sys2Proof.Machine.execCount c e g s
  | .capture c e => Sys2Proof.Machine.execCapture c e s
  | .wireModelTrip c => Sys2Proof.Machine.execWireModelTrip c s
  | .fuseTableTrip c => Sys2Proof.Machine.execFuseTableTrip c s
  | .currentLimit c on => Sys2Proof.Machine.execCurrentLimit c on s
  | .thermalHold c dt => Sys2Proof.Machine.execThermalHold c dt s
  | .restart c dt => Sys2Proof.Machine.execRestart c dt s
  | .thermalLatch c tj dt => Sys2Proof.Machine.execThermalLatch c tj dt s
  | .sensingFault b k wholeBank => Sys2Proof.Machine.execSensingFault b k wholeBank s
  | .onStateOpenLoad c on => Sys2Proof.Machine.execOnStateOpenLoad c on s
  | .offStateOpenLoad b k on => Sys2Proof.Machine.execOffStateOpenLoad b k on s
  | .shortToSupply b k on => Sys2Proof.Machine.execShortToSupply b k on s
  | .reverseCurrentHold c vp => Sys2Proof.Machine.execReverseCurrentHold c vp s
  | .reverseCurrentHoldEnd c x => Sys2Proof.Machine.execReverseCurrentHoldEnd c x s
  | .pulseEdge c on m => Sys2Proof.Machine.execPulseEdge c on m s
  | .inrushLearning c ipk qin i100 => Sys2Proof.Machine.execInrushLearning c ipk qin i100 s
  | .sequencerFault c watchdog => Sys2Proof.Machine.execSequencerFault c watchdog s
  | .sequencerReloadComplete c => Sys2Proof.Machine.execSequencerReloadComplete c s
  | .heartbeatMiss e => Sys2Proof.Machine.execHeartbeatMiss e s
  | .engineRecovery e checkOk => Sys2Proof.Machine.execEngineRecovery e checkOk s
  | .lockstepFault => Sys2Proof.Machine.execLockstepFault s
  | .doubleBitError place => Sys2Proof.Machine.execDoubleBitError place s
  | .supervisorWatchdog => Sys2Proof.Machine.execSupervisorWatchdog s
  | .nreset lowNs => Sys2Proof.Machine.execNreset lowNs s
  | .warmStart blockOk => Sys2Proof.Machine.execWarmStart blockOk s
  | .coldStart f => Sys2Proof.Machine.execColdStart f s
  | .failedStart x => Sys2Proof.Machine.execFailedStart x s
  | .recoveryStart => Sys2Proof.Machine.execRecoveryStart s
  | .powerFailWarning => Sys2Proof.Machine.execPowerFailWarning s
  | .flush => Sys2Proof.Machine.execFlush s
  | .trialRevert why => Sys2Proof.Machine.execTrialRevert why s
  | .trialWindowWarning => Sys2Proof.Machine.execTrialWindowWarning s
  | .eventBlockClose p => Sys2Proof.Machine.execEventBlockClose p s
  | .streamBlockClose p c => Sys2Proof.Machine.execStreamBlockClose p c s
  | .housekeepingFrame b h => Sys2Proof.Machine.execHousekeepingFrame b h s
  | .discardedFrame p f => Sys2Proof.Machine.execDiscardedFrame p f s
  | .slotRejected p edges bytes => Sys2Proof.Machine.execSlotRejected p edges bytes s
  | .failedStartRecordClear => Sys2Proof.Machine.execFailedStartRecordClear s
  | .senseSelect b sel => Sys2Proof.Machine.execSenseSelect b sel s
  | .vioInvalid valid => Sys2Proof.Machine.execVioInvalid valid s
  | .vholdCharged capUf vholdMv => Sys2Proof.Machine.execVholdCharged capUf vholdMv s
  | .commonFaultHoldExpiry => Sys2Proof.Machine.execCommonFaultHoldExpiry s

end Sys2Proof.Machine
end

