-- ==== Sys2Proof/Machine/Tick.lean ====
section
/-! DEFINITION. What the passing of one tick of 100 ns does: device time and the slave copies (R22, R23, R26), single-bit errors (R11),
and what time brings by itself in the Holms and at the pads; the DESIGN CHOICE of log entry 1. -/

namespace Sys2Proof.Machine

/-- How far device time moves in one tick of the timebase, and the offset still to be taken up (R26, Table 7): 1000 ppm
fast or slow is one tick more or less in 1000. -/
def slewStep (raw : Nat) (slew : Int) : Nat × Int :=
  if raw % 1000 = 999 then
    if slew > 0 then (2, slew - 1) else if slew < 0 then (0, slew + 1) else (1, slew)
  else (1, slew)

/-- The clocks of the device: the count of ticks, and device time. Without VDD no one reads device time, and its count goes on as the
field's own: a Holm times its grid, pulses, ramps and delays by it (R425; log entry 123). A single-bit error of an SRAM is
corrected and counted (R11; when one comes is free, log entry 73). -/
def Sys.tick (y : Sys) : Sys :=
  let z := { y with
    raw := y.raw + 1
    sramFixed := if Config.singleBitError y.raw then y.sramFixed + 1 else y.sramFixed }
  if y.vddOk then { z with now := y.now + (slewStep y.raw y.slew).1, slew := (slewStep y.raw y.slew).2 }
  else { z with now := y.now + 1 }

/-- The slave copy of a Holm out of lockout: one tick, corrected by the rate of the last beacon once in 1000 (R23, R25). -/
def Holm.tick (raw : Nat) (h : Holm) : Holm :=
  if h.up then
    { h with slave := ((h.slave : Int) + 1 + (if raw % 1000 = 999 then h.rate else 0)).toNat }
  else h

/-- The clocks of the device. -/
def tickClocks (s : State) : State :=
  { s with
    sys := s.sys.tick
    holms := s.holms.map (Holm.tick s.sys.raw) }

/-- What time brings by itself: mode changes (Table 6 of 02_channel_modes), measurement words at a grid instant (R82), timebases
(R199, R201), the stages of a change of the boot record (R404), internal operations that waited for a slot (R314) and the nIRQ pads (R289). -/
def tickEffects (s : State) : State :=
  let s := overAll allCh (fun c s => measTick c (modeTick c s)) s
  let s := internalTick (bootTick (overAll [(0 : Bank), 1] tbTick s))
  overAll allPorts (fun p s => s.setPort p (PortSt.irqTick (s.irqCondition p))) s

/-- One tick passes. -/
def tick (s : State) : State := tickEffects (tickClocks s)

end Sys2Proof.Machine
end

