-- ==== Sys2Proof/Machine/Terminals.lean ====
section
/-! DEFINITION. The six terminals of a channel: their roles (Table 3 of 02_channel_modes, R41, R42, R44, R46), what the channel puts on
them at nominal values (R46, R61, R63, R74, R132, R150, R171, R438, R440; DEDUCED, log entry 155), and the bank's sense output (R209). -/

namespace Sys2Proof.Machine

/-- The terminals of a channel (Table 1 of 02_channel_modes). -/
inductive Terminal where
  | p | n | sp | sn | ip | inn
  deriving DecidableEq, Repr

/-- What a terminal is used as (Table 3 of 02_channel_modes); `none_` is its mark "—". -/
inductive Role where
  | none_ | sensorSupply | ret | switchOut | input | gateIn | excPos | excNeg | sensePos | senseNeg | joinedToP | joinedToN
  | signalPos | signalNeg | source | senseA | senseB | loopSupply | loopIn | loopOut | loopPos | loopNeg
  deriving DecidableEq, Repr

/-- Table 3 of 02_channel_modes. IN of AII is high impedance, as the table has it, where the text puts IN of AII on the bank ground
(DESIGN CHOICE, log entry 140). -/
def roleOf (m : Mode) (ssup wire : Bool) : Terminal → Role
  | .p =>
    match m with
    | .di | .cnt => if ssup then .sensorSupply else .none_
    | .dout | .dop => .switchOut
    | .brg => .excPos
    | .res | .aoi => .source
    | .aii => .loopSupply
    | .off | .aip | .aot => .none_
  | .n =>
    match m with
    | .di | .cnt | .dout | .dop | .res | .aii | .aoi => .ret
    | .brg => .excNeg
    | .off | .aip | .aot => .none_
  | .sp =>
    match m with
    | .brg => if wire then .joinedToP else .sensePos
    | .res => .senseA
    | _ => .none_
  | .sn =>
    match m with
    | .brg => if wire then .joinedToN else .senseNeg
    | .res => if wire then .none_ else .senseB
    | _ => .none_
  | .ip =>
    match m with
    | .di | .cnt => .input
    | .brg => .signalPos
    | .aip => .loopIn
    | .aot => .loopPos
    | _ => .none_
  | .inn =>
    match m with
    | .cnt => .gateIn
    | .brg => .signalNeg
    | .aip => .loopOut
    | .aot => .loopNeg
    | _ => .none_

/-- The mode whose wiring the front end has: that of OFF in the break of a mode change (steps 3 and 4 of Table 6 of
02_channel_modes), and in a Holm that has restarted until its link is established (R267). -/
def State.frontMode (s : State) (c : Ch) : Mode :=
  match (s.ch c).changing with
  | some g => if !g.entered && decide (g.start + 5000 ≤ s.sys.raw) then .off else s.modeNow c
  | none => s.modeNow c

/-- The role of a terminal of a channel now. -/
def State.role (s : State) (c : Ch) (t : Terminal) : Role := roleOf (s.frontMode c) (s.ch c).ssup (s.ch c).wire1 t

/-- The terminal is held at high impedance, neither driven nor measured (R42). -/
def State.highZ (s : State) (c : Ch) (t : Terminal) : Bool := s.role c t == .none_

/-- The channel joins the terminal to the bank ground (R41, R44). -/
def Role.grounded : Role → Bool
  | .ret | .loopOut | .loopNeg => true
  | _ => false

/-- What the channel puts on a terminal: nothing, the bank ground, a voltage in mV that delivers up to a limit in µA, one side
of an excitation of some mV from P to N up to a limit in µA, VF through the switch up to a limit in µA, or a current in nA. -/
inductive Drive where
  | nothing
  | ground
  | voltage (mv : Int) (limitUa : Nat)
  | excitation (mv : Int) (limitUa : Nat)
  | switched (limitUa : Nat)
  | current (nA : Int)
  /-- a sensing input that draws its bias in nA towards another terminal (Table 9 of 03_bridge_measurement, R438) -/
  | bias (nA : Nat) (towards : Terminal)
  /-- the drop of a loop input in mV at 24 mA, in Ω where it is a resistance, up to its current limit in µA (R132, R440) -/
  | burden (mvAt24 : Nat) (ohm : Option Nat) (limitUa : Nat)
  /-- an input (R162): a resistance in Ω up to its current limit in µA -/
  | inputSink (ohm limitUa : Nat)
  /-- a switch that is off: the voltage in mV at which the turn-off clamp holds P while load current flows (R191), and the pull-up of the
  open-load check, its source in mV and current in µA, when it is on (R205) -/
  | switchedOff (clampAt : Int) (pullUp : Option (Int × Nat))
  deriving DecidableEq, Repr

/-- The AII loop supply or a sensor supply at P (R46, R132): VF − 1.5 V up to 30 mA, 3 mA while folded back (R144, R171). -/
def State.supplyDrive (s : State) (c : Ch) : Drive :=
  let ch := s.ch c
  let folded := if ch.mode == .aii then ch.loop.folded else ch.din.folded
  if s.fieldSupplyOn c then .voltage ((s.holm (bankOf c)).vf - 1500) (if folded then 3000 else 30000) else .nothing

/-- The excitation of a bridge in mV (R61, R63, R69): the deliverable one, in carrier excitation with the polarity of the half-period
under way. -/
def State.excitationMv (s : State) (c : Ch) : Int :=
  let ch := s.ch c
  let h := s.holm (bankOf c)
  let v : Int := max 0 (min (vexcMv ch.brg.meas : Int) (h.vx - 1000))
  if !ch.brg.exOn then 0
  else
    match ch.carrierMode, ch.brg.rate with
    | true, some r => if positiveNow h r s.sys.now then v else -v
    | true, none => 0
    | false, _ => v

/-- The current of RES in nA (Table 8 of 03_bridge_measurement). -/
def resNa (w : BitVec 32) : Nat :=
  match fld w 1 0 with
  | 0 => 1000000
  | 1 => 500000
  | _ => 250000

/-- The current that a loop output's DAC code stands for nominally (R132): 375 nA per code. -/
def State.dacNa (s : State) (c : Ch) : Int := 375 * ((s.ch c).dacNow s.sys.now : Int)

/-- Where the turn-off clamp holds P (Table 1 of 08_load_switches, R191): V_CL below VF. -/
def State.offClamp (s : State) (c : Ch) : Int := (s.holm (bankOf c)).vf - clampMv (s.holm (bankOf c)).vf

/-- The pull-up of 50 µA from 4.5 V of the off-state check (R205): with OFFEN = 1 and FINE = 0, after 2 ms off at level 5. -/
def State.offPullUp (s : State) (c : Ch) : Option (Int × Nat) :=
  let d := (s.ch (s.lead c)).sw.diag
  if bit d 23 && !bit d 21 && s.heldFor c .offLevel5 20000 then some (4500, 50) else none

/-- What the channel puts on a terminal now; nothing in lockout (R248). Resistance and limit of an input are those of its type, at IN
too in CNT (Table 1 of 07_digital_inputs); the limit of AIP is 35 mA (R132). -/
def State.drive (s : State) (c : Ch) (t : Terminal) : Drive :=
  let ch := s.ch c
  let live := (s.holm (bankOf c)).up
  match s.role c t with
  | .sensorSupply | .loopSupply => s.supplyDrive c
  | .ret | .loopOut | .loopNeg => if live then .ground else .nothing
  | .switchOut =>
    if !live then .nothing
    else if ch.conducting then .switched (ilimUa (s.ch (s.lead c)).sw.prot)
    else .switchedOff (s.offClamp c) (s.offPullUp c)
  | .excPos | .excNeg => if live then .excitation (s.excitationMv c) 75000 else .nothing
  | .source =>
    if !live then .nothing
    else if ch.mode == .res then .current (if ch.brg.exOn then resNa ch.brg.meas else 0)
    else .current (s.dacNa c)
  | .loopPos => if live then .current (-s.dacNa c) else .nothing
  | .loopIn =>
    if !live then .nothing
    else if ch.mdmOn then .burden 2000 none 35000
    else .burden 1200 (some 50) 35000
  | .sensePos | .signalPos => if live then .bias 50 .n else .nothing
  | .senseNeg | .signalNeg => if live then .bias 50 .p else .nothing
  | .senseA => if live && !ch.wire1 then .bias 50 .n else .nothing
  | .senseB => if live then .bias 50 .p else .nothing
  | .input | .gateIn => if live then .inputSink (if fld ch.din.word 15 14 = 2 then 1500 else 4000) (sinkUa ch.din.word) else .nothing
  | .none_ | .joinedToP | .joinedToN => .nothing

/-- The bits of a character from its start bit on: 0, eight data bits with the least significant first, odd parity, 1 (R151). -/
def charBit (x : Byte) (k : Nat) : Bool :=
  if k = 0 then false
  else if k ≤ 8 then bit x (k - 1)
  else if k = 9 then ((List.range 8).filter (fun i => bit x i)).length % 2 == 0
  else true

/-- The bit that a frame has on the line some ticks after its first start bit began, if it is not over (R150, R151). -/
def frameBit (f : List Byte) (ticks : Nat) : Option Bool :=
  let n := 3 * ticks / 25000
  if n < 11 * f.length then some (charBit (byteAt f (n / 11)) (n % 11)) else none

/-- The tone that a modem sends: its frequency in Hz, and its peak-to-peak level in mV into the loop or in µA on the current. -/
structure Tone where
  hz : Nat
  mv : Nat
  ua : Nat
  deriving DecidableEq, Repr

/-- The tone on a channel's loop now (Table 9 of 06_loops_and_modem, R443): 1200 Hz for a 1 and 2200 Hz for a 0, 500 mV from AII and AIP
and 1.0 mA from AOI and AOT; its mean is zero. -/
def State.tone (s : State) (c : Ch) : Option Tone :=
  let ch := s.ch c
  if s.modemUp c then
    (frameBit ch.mdm.sent (s.sys.raw - ch.mdm.sentAt)).map (fun one =>
      let hz := if one then 1200 else 2200
      if ch.mode.isLoopOut then Tone.mk hz 0 1000 else Tone.mk hz 500 0)
  else none

/-- The impedance of a loop input in the modem band, in Ω, synthesised with MDM = 1 (R132); of an output R132 gives a bound only. -/
def State.modemOhm (s : State) (c : Ch) : Option Nat :=
  if (s.holm (bankOf c)).up && (s.ch c).modem && !(s.ch c).mode.isLoopOut then some 250 else none

/-- The current at ISNSx in 125 nA: the selected switch's current (250 µA units) divided by 2000, 0 outside DO and DOP and in
lockout (R209). -/
def State.isns (s : State) (b : Bank) : Nat :=
  let ch := s.ch (chAt b (s.holm b).sel)
  if (s.holm b).up && s.holmLive b && ch.mode.isSwitch then ch.sw.icur else 0

end Sys2Proof.Machine
end

