-- ==== Sys2Proof/Safety.lean ====
section
/-! DEFINITION. What counts as a safe step, and the terms in which statements about commands are made: when a mailbox command
is free to run, that it completed with a status and a payload, and what stands besides its completion. -/

namespace Sys2Proof

/-- The outcome is a next state. -/
def Answers {σ φ ρ : Type} (o : Host.Outcome σ φ ρ) : Prop := ∃ t, o = .next t

/-- A step from s answers a next state. -/
def SafeStep (s : Machine.State) : Prop := Answers (Machine.step s)

namespace Machine

/-- A mailbox command is free to run: nothing earlier on its object is unfinished, its fence is satisfied and its core serves
(R34, R316, R317, R19), and none of the checks that stand before its own fails (its object, a recovery start, ownership, the
priority it requests, the link of its Holm; log entry 23), and its Holm hears it (R29). -/
abbrev Ready (op : BitVec 16) (r : Req) (s : State) : Prop :=
  s.opReady op r = true ∧ s.preFail op r = none ∧ s.unheard r.obj = none

/-- The state in which a command's own part runs: the operation's slot, if it holds one, is EXECUTING (Table 8 of
12_mailbox_operations). -/
def State.running (r : Req) (s : State) : State := setSlot r.port r (fun sl => { sl with st := .executing }) s

/-- What stands besides the completing of one operation: everything but the operation's own slot, the completions on their way
to the response store (R305) and the journals of link operation numbers (R30). -/
def State.besides (r : Req) (s : State) : State :=
  { s with
    completions := []
    ports := s.ports.set r.port.val
      { s.port r.port with slots := (s.port r.port).slots.filter (fun sl => !slotIs r sl) } r.port.isLt
    holms := s.holms.map (fun h => { h with linkOp := 0, journal := [] }) }

/-- The operation's status is fixed (R305): one completion with its status and payload follows those already on their way,
and besides it the state is that of `e`. -/
def Completed (op : BitVec 16) (r : Req) (st : Byte) (data : List Byte) (delay : Nat) (s e t : State) : Prop :=
  t.completions = s.completions ++ [Completion.mk r op (r.tag == 0) st data (s.sys.now + delay)] ∧ t.besides r = e.besides r

/-- The mailbox commands that run from an operation slot, by opcode (Table 14 of 12_mailbox_operations, R461). -/
def mailboxRows (r : Req) (m : ClampMeas) : List (BitVec 16 × Instr) :=
  ([(0x0101, .sysInfo r), (0x0102, .sysReset r), (0x0103, .sysTsync r), (0x0104, .sysWdog r), (0x0105, .sysClock r), (0x0201, .chMode r m)] : List (BitVec 16 × Instr)) ++
  ([(0x0202, .chInfo r), (0x0203, .chMeas r), (0x0204, .chDiag r), (0x0205, .chPlan r), (0x0206, .chStream r), (0x0207, .chPair r)] : List (BitVec 16 × Instr)) ++
  ([(0x0208, .chUnpair r), (0x0209, .chInput r), (0x020A, .chCount r), (0x020B, .chField r), (0x020C, .chSafe r), (0x020D, .chBmap r)] : List (BitVec 16 × Instr)) ++
  ([(0x0301, .outSet r m), (0x0302, .outProt r), (0x0303, .outWire r), (0x0304, .outFuse r), (0x0305, .outClear r), (0x0306, .outPgen r)] : List (BitVec 16 × Instr)) ++
  ([(0x0307, .outDiag r), (0x0401, .thrSet r), (0x0402, .thrGet r), (0x0403, .thrArm r), (0x0404, .thrDisarm r), (0x0405, .thrStab r)] : List (BitVec 16 × Instr)) ++
  ([(0x0501, .fltLoad r), (0x0502, .fltRom r), (0x0503, .fltSwap r), (0x0601, .loopCfg r), (0x0602, .loopSet r), (0x0603, .loopTrim r)] : List (BitVec 16 × Instr)) ++
  ([(0x0701, .mdmCfg r), (0x0702, .mdmSend r), (0x0703, .mdmRead r), (0x0704, .mdmReply r), (0x0801, .bdgSet r), (0x0802, .bdgQuery r)] : List (BitVec 16 × Instr)) ++
  ([(0x0803, .bdgShed r), (0x0901, .denSnap r), (0x0902, .denRead r), (0x0903, .denClear r), (0x0A01, .crcCfg r), (0x0A02, .crcRun r)] : List (BitVec 16 × Instr)) ++
  ([(0x0A03, .crcSave r), (0x0A04, .crcLoad r), (0x0A05, .crcRead r), (0x0B01, .updBegin r), (0x0B02, .updChunk r), (0x0B03, .updVerify r)] : List (BitVec 16 × Instr)) ++
  ([(0x0B04, .updActivate r), (0x0B05, .updConfirm r), (0x0B06, .updStatus r), (0x0C01, .secAttest r), (0x0C02, .secCert r), (0x0C03, .secOwnerkey r)] : List (BitVec 16 × Instr)) ++
  ([(0x0D01, .ownClaim r), (0x0D02, .ownRelease r), (0x0D03, .ownResume r), (0x0D04, .ownQuery r), (0x0E01, .lglGet r), (0x0E02, .lglDeclare r)] : List (BitVec 16 × Instr))

/-- The command answers a next state in which it has completed, and besides that the state is `e`. -/
def Completes (c : Instr) (op : BitVec 16) (r : Req) (st : Byte) (data : List Byte) (delay : Nat) (s e : State) : Prop :=
  ∃ t, exec c s = .next t ∧ Completed op r st data delay s e t

/-- A port takes framed transfers: Mainland and the pads have their supplies, the port serves, and its daisy-chain mode is off
(R280, R295, R425). -/
abbrev State.framed (p : Port) (s : State) : Prop :=
  s.sys.vddOk = true ∧ s.sys.vio = true ∧ (s.port p).chen = false ∧ (s.port p).rdy = true

/-- A port takes daisy-chain slots (R295). -/
abbrev State.chained (p : Port) (s : State) : Prop :=
  s.sys.vddOk = true ∧ s.sys.vio = true ∧ (s.port p).chen = true ∧ (s.port p).rdy = true

/-- What every committed frame without error leaves on its port besides its own effect: ECHO, FRM, OVR, the bits shifted out
and the watchdog restarted (R281, R280, R255). -/
def PortSt.judged (fseq : BitVec 4) (now : Nat) (sdo : List Byte) (q : PortSt) : PortSt :=
  { q with echo := echoByte fseq 0, frm := false, ovr := false, wdAt := now, wdExpired := false, sdo := sdo }

/-- A source has been raised: every port whose EVMASK selects it has it pending in EVPEND (R288). -/
abbrev State.latched (src : Nat) (s : State) : Prop :=
  ∀ p : Port, bit (s.port p).evmask src = true → bit (s.port p).evpend src = true

/-- The level and the output of a channel are those of its highest active level (R35). -/
abbrev State.settled (c : Ch) (s : State) : Prop := ((s.ch c).level, (s.ch c).out) = s.govern c

/-- Nothing waits inside Mainland that goes on by itself: no change of the boot record (R404), and no journal transfer or shed step for
want of an internal slot (R314). -/
abbrev State.idleInside (s : State) : Prop := s.upd.work = none ∧ ∀ o ∈ s.sys.internal.take 32, o.transfer = false

/-- The operation windows lie within R290, and EVMASK and IRQCFG hold no reserved bit (R289, R455). -/
abbrev State.portsLegal (s : State) : Prop :=
  (∀ p : Port, 16 ≤ (s.port p).opwindow.toNat ∧ (s.port p).opwindow.toNat ≤ 256 ∧
    (s.port p).evmask &&& ~~~evExists = 0 ∧ (s.port p).irqcfg &&& 0x70 = 0) ∧
  (s.port 0).opwindow.toNat + (s.port 1).opwindow.toNat + (s.port 2).opwindow.toNat ≤ 480

/-- The bytes of a command as a host writes them to CMDQ (R301 to R303). -/
def commandBytes (op : BitVec 16) (r : Req) : List Byte :=
  let body := le16 op.toNat ++ [BitVec.ofNat 8 (r.prio.toNat + 64 * b2n r.autorel + 128 * b2n r.fence), r.seq] ++
    le16 r.tag.toNat ++ le16 r.payload.length ++ le16 r.obj.toNat ++ le16 r.deadline.toNat ++ [1, 0, 0, 0] ++ r.payload
  body ++ le32 (crc32c (foldIn r.port 0 r.tag r.seq r.obj ++ body))

end Machine
end Sys2Proof
end

