-- ==== Sys2Proof/Certificates/Slice0/Obligations.lean ====
section
/-! DEFINITION. The statements about the model: what each command does and leaves, and what every step keeps. -/

open Sys2Proof Sys2Proof.Machine

/-- A step takes the front command and runs it on the rest of the queue (95_what_each_step_holds: each row is one indivisible
step; the queue is the model's own, log entry 1). -/
def Obligations.StepRunsFrontCommand : Prop :=
  ∀ (c : Instr) (s : State), step { s with pending := c :: s.pending } = exec c s

/-- What passing time does (the model's choice of log entries 1, 22, 73, 121 and 123, resting on R11, R22, R23, R25, R26, R289 and R404). -/
def Obligations.IdleStepIsOneTick : Prop :=
  ∀ s : State, s.pending = [] → ∃ t, step s = .next t ∧
    ((∀ c, (s.ch c).changing = none ∧ (s.ch c).brg.next = none) → (∀ b, s.tbWaits b = false) →
      s.idleInside →
      t = { s with sys := t.sys, holms := t.holms, ports := t.ports } ∧
      t.sys = { s.sys with now := t.sys.now, slew := t.sys.slew, raw := s.sys.raw + 1, sramFixed := t.sys.sramFixed } ∧
      (t.sys.sramFixed = s.sys.sramFixed ∨ t.sys.sramFixed = s.sys.sramFixed + 1) ∧
      (s.sys.vddOk = false → t.sys.now = s.sys.now + 1 ∧ t.sys.slew = s.sys.slew) ∧
      (s.sys.vddOk = true → s.sys.now ≤ t.sys.now ∧ t.sys.now ≤ s.sys.now + 2 ∧
        (s.sys.slew = 0 ∨ s.sys.raw % 1000 ≠ 999 → t.sys.now = s.sys.now + 1 ∧ t.sys.slew = s.sys.slew) ∧
        ((t.sys.now : Int) - s.sys.now = 1 + (s.sys.slew - t.sys.slew)) ∧ t.sys.slew.natAbs ≤ s.sys.slew.natAbs) ∧
      (∀ b : Bank, t.holm b = if (s.holm b).up then
          { s.holm b with slave :=
              ((s.holm b).slave + 1 + if s.sys.raw % 1000 = 999 then (s.holm b).rate else 0 : Int).toNat }
        else s.holm b) ∧
      ∀ p : Port,
        { t.port p with irqWas := false, irqLow := 0, irqGap := 0 } = { s.port p with irqWas := false, irqLow := 0, irqGap := 0 } ∧
        (bit (s.port p).irqcfg 7 = true → (s.port p).rdy = true →
          (t.port p).irqLow =
            if 0 < (s.port p).irqLow then (s.port p).irqLow - 1
            else if s.irqCondition p = true ∧ (s.port p).irqWas = false ∧ (s.port p).irqGap = 0 then 10 else 0) ∧
        (bit (s.port p).irqcfg 7 = false → (t.port p).irqLow = 0)) ∧
    ((∀ c, (s.ch c).changing = none ∧ (s.ch c).brg.next = none) → (∀ b, s.tbWaits b = false) → s.upd.work ≠ none →
      let u := bootTick (tickClocks s)
      (∀ o ∈ u.sys.internal.take 32, o.transfer = false) →
      t = { u with ports := t.ports } ∧ ∀ p : Port,
        { t.port p with irqWas := false, irqLow := 0, irqGap := 0 } = { u.port p with irqWas := false, irqLow := 0, irqGap := 0 })

/-- No fault and no refusal, in any state. -/
def Obligations.EveryCommandAnswersANextState : Prop :=
  (∀ (c : Instr) (s : State), Answers (exec c s)) ∧ ∀ s : State, SafeStep s

/-- The effect of a command is on everything but the queue. -/
def Obligations.CommandsLeaveTheQueue : Prop :=
  ∀ (c : Instr) (s t : State), exec c s = .next t → t.pending = s.pending

/-- Equal memories stay equal data. -/
def Obligations.StepKeepsMemoryCanonical : Prop :=
  ∀ s t : State, Memory.wf s.mram = true → step s = .next t → Memory.wf t.mram = true

/-- R3: the HY1624-PA (ordering code 2) has its legal partition disabled, whatever is commanded. -/
def Obligations.OrderingCodeIsFixedAndPaHasNoLegalPartition : Prop :=
  ∀ s t : State, step s = .next t →
    t.sys.order = s.sys.order ∧
    (s.sys.order = 2 → s.legal.port = none ∧ s.legal.sealed = false ∧ s.legal.mask = 0 →
      t.legal.port = none ∧ t.legal.sealed = false ∧ t.legal.mask = 0 ∧ t.lglBit = false)

/-- What reset leaves, as the Reset columns give it (R7, R268, R386); that BUR_EN is not asserted and that no byte of the MRAM has been
written is the model's choice (log entries 7 and 14). -/
def Obligations.ResetStateIsTheSpecsColdStart : Prop :=
  let s := State.reset
  s.sys.now = 0 ∧ s.pending = [] ∧ s.mram = [] ∧ Memory.wf s.mram = true ∧
  (∀ c : Ch, (s.ch c).mode = .off ∧ (s.ch c).owner = none ∧ (s.ch c).l5 = .off ∧ (s.ch c).shcls = 4 ∧
    (s.ch c).conducting = false ∧ (s.ch c).sw.prot = 0x003C05DC303C0001#64 ∧ (s.ch c).sw.wire = 0x00000A00#32 ∧
    (s.ch c).sw.diag = 0x00C00A14#32 ∧ (s.ch c).loop.word = 0x53FC0DDE00000200#64 ∧
    (s.ch c).brg.diag = 0x00000B0AFFFF0000#64 ∧ ∀ k : Fin 4, (s.ch c).thr[k].st = .disarmed) ∧
  (∀ b : Bank, (s.holm b).holdT = 100 ∧ (s.holm b).pend = none ∧ (s.holm b).burEn = false) ∧
  (∀ p : Port, (s.port p).rdy = true ∧ (s.port p).rstd = true ∧ (s.port p).echo = 0x0F ∧ (s.port p).opwindow = 160 ∧
    (s.port p).wdt = 0 ∧ (s.port p).evpend = 0 ∧ (s.port p).slots = []) ∧
  s.badger.ifmax = #v[4000, 4000] ∧ s.badger.ixmax = #v[250, 250] ∧ s.badger.pceil = 3500 ∧ s.badger.dtguard = 5 ∧
  s.badger.eres = 10 ∧ ∀ u : Fin 4, (s.unit u).ctx.reg = 0xFFFFFFFF ∧ (s.unit u).owner = none

/-- The checks before a command's own (R29, R54, R229, R306, R318, R328; their order is log entry 23), and the operation
that a Holm does not hear (R30; log entry 151). -/
def Obligations.PrecedingChecksDecideAndChangeNothing : Prop :=
  (∀ (r : Req) (m : ClampMeas) (s : State) (c : Instr) (op : BitVec 16) (st : Byte),
    (op, c) ∈ mailboxRows r m → s.opReady op r = true → s.preFail op r = some st →
      Completes c op r st [] 0 s s) ∧
  (∀ (op : BitVec 16) (r : Req) (s : State), s.opLate op r = true → s.preFail op r = some stE_TIMEOUT) ∧
  (∀ (r : Req) (m : ClampMeas) (s : State) (c : Instr) (op : BitVec 16) (b : Bank),
    (op, c) ∈ mailboxRows r m → s.opReady op r = true → s.preFail op r = none → s.unheard r.obj = some b →
      ∃ t, exec c s = .next t ∧ t.completions = s.completions ∧ t.chans = s.chans ∧ t.badger = s.badger ∧
        (t.holm b).held = (s.holm b).held ++ [Completion.mk r op (r.tag == 0) stE_ABORTED [] s.sys.now] ∧
        { t.holm b with held := [] } = { s.holm b with held := [] } ∧ ∀ b' : Bank, b' ≠ b → t.holm b' = s.holm b') ∧
  ∀ (op : BitVec 16) (r : Req) (s : State) (b : Bank), objBank r.obj = some b → (s.holm b).link = false →
    s.opLate op r = false → opAccepts op r.obj = true → s.recovery = false → s.lacksOwner op r = false → r.prio.toNat < 2 →
      s.preFail op r = some stE_STATE

/-- The queries (R73, R240, R330, R334, R338, R340, R353, R407). -/
def Obligations.QueriesAnswerAndChangeNothing : Prop :=
  ∀ (r : Req) (s : State), r.payload = [] →
    (Ready 0x0101 r s → Completes (.sysInfo r) 0x0101 r stOK (sysInfoData s) 0 s (s.running r) ∧
      (sysInfoData s).length = 32 ∧ leAt (sysInfoData s) 0 4 = 0x16244800 + s.sys.order.toNat) ∧
    (∀ c, chOf r.obj = some c → Ready 0x0202 r s →
      Completes (.chInfo r) 0x0202 r stOK (infoData s c) 0 s (s.running r) ∧
      (infoData s c).take 3 = [BitVec.ofNat 8 (s.ch c).mode.code, (s.ch c).wiring, ownerByte (s.ch c).owner]) ∧
    (∀ b, holmOf r.obj = some b → Ready 0x0205 r s →
      Completes (.chPlan r) 0x0205 r stOK (planData s b) 0 s (s.running r)) ∧
    (Ready 0x0D04 r s → Completes (.ownQuery r) 0x0D04 r stOK (ownQueryData s) 0 s (s.running r) ∧
      (ownQueryData s).length = 24 ∧ ∀ c : Ch, (ownQueryData s)[c.val]? = some (ownerByte (s.ch c).owner)) ∧
    (Ready 0x0E01 r s → Completes (.lglGet r) 0x0E01 r stOK (lglData s) 0 s (s.running r) ∧
      (s.sys.order = 2 → ∀ b ∈ lglData s, b = 0) ∧
      (s.sys.order ≠ 2 → leAt (lglData s) 0 2 = s.legal.mask.toNat)) ∧
    (Ready 0x0B06 r s → Completes (.updStatus r) 0x0B06 r stOK (updStatusData s) 0 s (s.running r)) ∧
    (∀ u, unitOf r.obj = some u → Ready 0x0A05 r s →
      Completes (.crcRead r) 0x0A05 r stOK (crcReadData s u) 0 s (s.running r) ∧
      (crcReadData s u).length = 20) ∧
    (Ready 0x0802 r s → Completes (.bdgQuery r) 0x0802 r stOK s.badger.report 0 s (s.running r))

/-- SYS.TSYNC (R338) and SYS.WDOG (R255). -/
def Obligations.SysTsyncAndWdogSetTheirRegisters : Prop :=
  (∀ (r : Req) (s : State) (mode : Fin 3) (target : BitVec 64), Ready 0x0103 r s →
    r.payload = BitVec.ofNat 8 mode.val :: List.replicate 7 0 ++ le64 target.toNat → (mode = 2 ∨ target = 0) →
      Completes (.sysTsync r) 0x0103 r stOK [] 0 s
        ((s.running r).setSys (fun y => { y with tsyncMode := mode, tsyncTarget := target }))) ∧
  ∀ (r : Req) (s : State) (w : BitVec 16), Ready 0x0104 r s → r.payload = le16 w.toNat ++ [0, 0] →
    ((w = 0 ∨ (10 ≤ w.toNat ∧ w.toNat ≤ 60000)) → Completes (.sysWdog r) 0x0104 r stOK [] 0 s
      ((s.running r).setPort r.port (fun q => { q with wdt := w }))) ∧
    (¬(w = 0 ∨ (10 ≤ w.toNat ∧ w.toNat ≤ 60000)) → Completes (.sysWdog r) 0x0104 r stE_RANGE [] 0 s (s.running r))

/-- SYS.RESET (R338, R385, R394). -/
def Obligations.SysResetSchedulesAStart : Prop :=
  ∀ (r : Req) (s : State), Ready 0x0102 r s → r.payload = [0x5A, 0xA5, 0, 0, 1, 0, 0, 0] →
    Completes (.sysReset r) 0x0102 r stOK [] 0 s ((s.running r).setSys (fun y => { y with
      startDue := y.startDue ++
        [StartDue.mk (if s.sys.start = .recovery then .cold else .warm) (s.sys.now + 10000) 2] }))

/-- SYS.CLOCK (R380, R381, R429). -/
def Obligations.SysClockReadsAndSets : Prop :=
  (∀ (r : Req) (s : State), Ready 0x0105 r s → r.payload = List.replicate 16 0 →
    Completes (.sysClock r) 0x0105 r stOK (clockData s s) 0 s (s.running r)) ∧
  ∀ (r : Req) (s : State) (w : BitVec 48), Ready 0x0105 r s →
    r.payload = 1 :: List.replicate 7 0 ++ le48 w.toNat ++ [0, 0] →
    ∃ t c, exec (.sysClock r) s = .next t ∧ t.completions = s.completions ++ [c] ∧ c.req = r ∧ c.status = stOK ∧
      c.payload.take 6 = le48 s.wall ∧ (c.payload.drop 6).take 6 = le48 w.toNat ∧
      t.wall = w.toNat ∧ t.sys.wallValid = s.sys.rtcRuns ∧ t.sys.rtcStopped = (!s.sys.rtcRuns) ∧ t.sys.rtcRuns = s.sys.rtcRuns ∧
      t.chans = s.chans ∧ t.holms = s.holms ∧ t.badger = s.badger ∧ t.crc = s.crc ∧ t.upd = s.upd ∧ t.sec = s.sec ∧
      t.legal = s.legal

/-- CH.STREAM (R109, R112), CH.INPUT (R165, R166), CH.COUNT (R174) and CH.DIAG (R77, R79, R465). That a time record is due after every
CH.STREAM is the model's choice (log entry 116), and so are the reports that CH.DIAG drops and the wire break that WBEN = 0 ends (log
entry 30) and the state that an INV change turns at once (log entry 131). -/
def Obligations.ChannelWordsTakeEffect : Prop :=
  ∀ (r : Req) (s : State) (c : Ch), chOf r.obj = some c →
    (∀ w : Byte, Ready 0x0206 r s → r.payload = [w, 0, 0, 0] → w &&& 0x0F = 0 → fld w 5 4 ≠ 3 →
      Completes (.chStream r) 0x0206 r stOK [] 0 s ((s.running r).setPort r.port (fun q => { q with
        subs := q.subs.set c.val { q.subs[c] with
          byte := w
          needTime := true
          tstepS := q.subs[c].tstepS && bit w 7
          tstepT := q.subs[c].tstepT && bit w 7 } c.isLt }))) ∧
    (∀ w : BitVec 32, Ready 0x0209 r s → r.payload = le32 w.toNat → s.isLegal c = false →
      (s.ch c).mode.isDigital = true → w &&& 0xFC003E00#32 = 0 →
      fld w 25 24 ≠ 3 → fld w 23 22 ≠ 3 → fld w 15 14 ≠ 3 → (fld w 15 14 = 2 → fld (s.ch c).din.word 15 14 = 2) →
      fld w 8 0 ≤ 500 → s.badger.heads = [] →
      ((s.ch c).mode = .di → w &&& 0x03E30000#32 = 0) → ((s.ch c).mode = .cnt → w &&& 0x001C01FF#32 = 0) →
      Completes (.chInput r) 0x0209 r stOK [] 0 s ((evaluate (s.running r)).setCh c (fun ch => { ch with din := { ch.din with
        word := w
        state := if bit w 18 != bit ch.din.word 18 then !ch.din.state else ch.din.state
        wireBreak := ch.din.wireBreak && bit w 19
        debFrom := if fld w 8 0 = fld ch.din.word 8 0 ∧ fld w 15 14 = fld ch.din.word 15 14 then ch.din.debFrom
          else s.sys.raw } }))) ∧
    (∀ (fl : Byte) (v : BitVec 32), Ready 0x020A r s → r.payload = fl :: le32 v.toNat → (s.ch c).mode = .cnt →
      fl &&& 0xF8 = 0 → ¬(bit fl 0 = true ∧ bit fl 1 = true) → (bit fl 1 = false → v = 0) →
      Completes (.chCount r) 0x020A r stOK (countData s c (bit fl 2)) 0 s ((s.running r).setCh c (fun ch => { ch with
        din := { ch.din with
          count := if bit fl 0 then 0 else if bit fl 1 then v else ch.din.count
          ovf := ch.din.ovf && !bit fl 0 && !bit fl 1
          caps := if bit fl 2 then [] else ch.din.caps
          capLost := if bit fl 2 then 0 else ch.din.capLost } }))) ∧
    (∀ w : BitVec 64, Ready 0x0204 r s → r.payload = le64 w.toNat → s.isLegal c = false →
      ((s.ch c).mode = .brg ∨ (s.ch c).mode = .res) → w &&& 0xFFFFF00000000000#64 = 0 →
      2 ≤ fld w 39 32 → fld w 39 32 ≤ 100 → fld w 15 0 ≤ fld w 31 16 →
      Completes (.chDiag r) 0x0204 r stOK [] 0 s ((s.running r).setCh c (fun ch => { ch with brg := { ch.brg with
        diag := w
        senseRep := ch.brg.senseRep && bit w 40
        signalRep := ch.brg.signalRep && bit w 41
        impRep := ch.brg.impRep && bit w 42
        leakRep := ch.brg.leakRep && bit w 43 } }))) ∧
    (∀ w : BitVec 64, Ready 0x0204 r s → r.payload = le64 w.toNat → s.isLegal c = false → r.deadline = 0 →
      ((s.ch c).mode = .brg ∨ (s.ch c).mode = .res) → w &&& 0xFFFFE00000000000#64 = 0 → bit w 44 = true →
      2 ≤ fld w 39 32 → fld w 39 32 ≤ 100 → fld w 15 0 ≤ fld w 31 16 → (s.ch c).brg.latch = true →
      s.badger.heads = [] → s.coreDown 6 = false → (s.holm (bankOf c)).shed = false →
      let u := clearShort c (setDiag c w (s.running r))
      let p := profileOf u 0x0204 8 (.excite c (s.ch c).brg.meas (some w))
      failures u true r.prio.toNat p none = [] → failures u false r.prio.toNat p none = [] →
      ∃ t, exec (.chDiag r) s = .next t ∧ Completion.mk r 0x0204 (r.tag == 0) stOK [] s.sys.now ∈ t.completions ∧
        (t.ch c).brg = { (s.ch c).brg with
          diag := w &&& ~~~(0x0000100000000000#64)
          senseRep := (s.ch c).brg.senseRep && bit w 40
          signalRep := (s.ch c).brg.signalRep && bit w 41
          impRep := (s.ch c).brg.impRep && bit w 42
          leakRep := (s.ch c).brg.leakRep && bit w 43
          latch := false
          shortNow := false
          exOn := true } ∧
        t.latched (8 * c.val + 4) ∧ ∀ d : Ch, d ≠ c → t.ch d = s.ch d)

/-- CH.MODE (R49 to R51, R462). The ticks at which a change is entered and ends rest on log entries 1 and 6, and that no lock stands
after the entry, whatever supply fault lasts, on log entry 74. -/
def Obligations.ChModeRebuildsItsChannel : Prop :=
  (∀ (r : Req) (mm : ClampMeas) (s : State) (c : Ch) (m : Mode) (w : Byte), chOf r.obj = some c → Ready 0x0201 r s →
    r.payload = [BitVec.ofNat 8 m.code, w, 0, 0] → w &&& 0x9E = 0 → wiringOk m w = true → s.isLegal c = false →
    s.oddMember c = false → s.badger.heads = [] →
    (m = (s.ch c).mode → w = (s.ch c).wiring →
      Completes (.chMode r mm) 0x0201 r stOK [] 0 s (evaluate (s.running r))) ∧
    (¬(m = (s.ch c).mode ∧ w = (s.ch c).wiring) → ((s.ch c).paired = true → m.isSwitch = true) →
      ((s.ch c).paired = false → bit (s.ch c).bmap.bflags 7 = true → m.isOutput = true) →
      ((s.ch c).mode.isOutput = true → (s.govern c).1 = 5) → (s.ch c).acts = [] → modeFits s c m w = true →
      s.coreDown 6 = false → s.quietRates (bankOf c) = [] →
      let p := profileOf s 0x0201 4 (.mode c m w)
      (raisedBy p none = [] ∨ (r.deadline = 0 ∧ (s.holm (bankOf c)).shed = false ∧
        failures s true r.prio.toNat p none = [] ∧ failures s false r.prio.toNat p none = [])) →
      ∃ t, exec (.chMode r mm) s = .next t ∧
        (∀ d ∈ s.members c,
          (t.ch d).changing = some (ModeChange.mk m w 0x0201 (if d = c then some r else none) s.sys.raw false) ∧
          (t.ch d).mode = (s.ch d).mode ∧ (t.ch d).wiring = (s.ch d).wiring ∧ (t.ch d).owner = (s.ch d).owner ∧
          (t.ch d).l5 = deenergised (s.ch d).mode ∧ (t.ch d).conducting = false ∧ (t.ch d).brg.exOn = false) ∧
        (∀ k : Fin 4, (t.ch c).thr[k].st = .disarmed) ∧
        t.legal.mask = s.legal.mask ∧ t.upd = s.upd ∧ t.crc = s.crc ∧ t.sec = s.sec ∧
        ∀ d : Ch, d ∉ s.members c → (t.ch d).mode = (s.ch d).mode ∧ (t.ch d).owner = (s.ch d).owner ∧
          (t.ch d).brg = (s.ch d).brg ∧ (t.ch d).thr = (s.ch d).thr)) ∧
  ∀ (s : State) (c : Ch) (g : ModeChange) (r : Req), s.pending = [] → (s.ch c).changing = some g → g.req = some r →
    chOf r.obj = some c → (s.holm (bankOf c)).link = true → (s.ch c).paired = false →
    (∀ d : Ch, d ≠ c → (s.ch d).changing = none) → (∀ d : Ch, (s.ch d).brg.next = none) → (∀ b, s.tbWaits b = false) →
    s.idleInside →
    (g.entered = false → (s.ch c).carrierMode = false → g.start + 15000 ≤ s.sys.raw + 1 → g.mode ≠ .off →
      (s.ch c).acts = [] → ∃ t, step s = .next t ∧ (t.ch c).changing = some { g with entered := true } ∧
        (∀ x : Terminal, s.highZ c x = true ∧ t.role c x = roleOf g.mode (bit g.wiring 5) (bit g.wiring 0) x) ∧
        (t.ch c).mode = g.mode ∧ (t.ch c).wiring = g.wiring ∧ (t.ch c).owner = (s.ch c).owner ∧
        (t.ch c).l5 = deenergised g.mode ∧ (t.ch c).locks = .none ∧ (t.ch c).l3 = (s.ch c).l3 ∧
        (∀ k : Fin 4, (t.ch c).thr[k].st = .disarmed ∧ (t.ch c).thr[k].ctrl = 0) ∧
        (t.ch c).safety = 0 ∧ (t.ch c).din.word = 0 ∧ (t.ch c).loop.word = loopWordReset ∧
        (t.ch c).mdm.word = mdmWordReset g.mode ∧ (t.ch c).sw.prot = protReset ∧ (t.ch c).sw.diag = swDiagReset ∧
        (t.ch c).sw.pgen.period = Pgen.reset.period ∧ (t.ch c).sw.pgen.duty = Pgen.reset.duty ∧
        (t.ch c).loop.trim = (s.ch c).loop.trim ∧ (t.ch c).sw.wire = (s.ch c).sw.wire ∧
        (t.ch c).sw.fuse = (s.ch c).sw.fuse ∧ (t.ch c).sw.ipk = (s.ch c).sw.ipk ∧ (t.ch c).sw.qin = (s.ch c).sw.qin ∧
        (t.ch c).sw.i100 = (s.ch c).sw.i100 ∧ t.completions = s.completions ∧
        ∀ d : Ch, d ≠ c → (t.ch d).mode = (s.ch d).mode ∧ (t.ch d).owner = (s.ch d).owner ∧ (t.ch d).brg = (s.ch d).brg ∧
          (t.ch d).thr = (s.ch d).thr) ∧
    (g.entered = false → (s.ch c).carrierMode = false → g.start + 15000 ≤ s.sys.raw + 1 → g.mode = .off →
      ∃ t, step s = .next t ∧ (t.ch c).changing = none ∧ (t.ch c).mode = .off ∧ (t.ch c).owner = (s.ch c).owner ∧
        t.completions = s.completions ++ [Completion.mk r g.op (r.tag == 0) stOK [] t.sys.now]) ∧
    (g.entered = true → g.start + 20000 ≤ s.sys.raw + 1 → (s.ch c).acts = [] →
      ∃ t, step s = .next t ∧ (t.ch c).changing = none ∧ (t.ch c).mode = (s.ch c).mode ∧ (t.ch c).l5 = (s.ch c).l5 ∧
        (t.ch c).thr = (s.ch c).thr ∧ (t.ch c).filt.seq = 0 ∧
        t.completions = s.completions ++ [Completion.mk r g.op (r.tag == 0) stOK [] t.sys.now] ∧
        ∀ d : Ch, d ≠ c → t.ch d = s.ch d)

/-- CH.MEAS (R60, R61, R72, R82, R465). A plan that is still pending is replaced and its waiters kept for the new instant (the model's
choice, log entry 25); the grid instants are those of log entry 21. -/
def Obligations.ChMeasSetsTheWord : Prop :=
  (∀ (r : Req) (s : State) (c : Ch) (w : BitVec 32), chOf r.obj = some c → Ready 0x0203 r s → r.payload = le32 w.toNat →
    s.isLegal c = false → ((s.ch c).mode = .brg ∨ (s.ch c).mode = .res) → (s.ch c).brg.exOn = true →
    measRaises (s.ch c).mode (s.ch c).brg.meas w = false → w &&& measReserved (s.ch c).mode = 0 →
    measRange (s.ch c).mode w = true → ((s.ch c).mode = .brg → (vexcMv w : Int) + 1000 ≤ (s.holm (bankOf c)).vx) →
    (0 : Int) < (s.holm (bankOf c)).vx → s.chainFits c ((s.ch c).withMeas w) = true → planOk s c w = true →
    s.badger.heads = [] →
    let b := bankOf c
    let ch := s.ch c
    let carrier := ch.carrierMode || (ch.withMeas w).carrierMode
    let dist := measDisturbs ch.mode ch.brg.meas w
    let g := gridAt (s.holm b) (gridNext (s.holm b) s.sys.now 1)
    let rates := (s.newPlan b (posOf c) (ch.withMeas w)).getD []
    let planned := carrier && (dist || rates != s.latestRates b)
    ∃ t, exec (.chMeas r) s = .next t ∧
      (t.ch c).mode = ch.mode ∧ (t.ch c).owner = ch.owner ∧ (t.ch c).brg.exOn = true ∧
      (∀ d : Ch, d ≠ c → t.ch d = s.ch d) ∧ t.mram = s.mram ∧ t.badger.heads = [] ∧ t.badger.admitted = s.badger.admitted ∧ t.legal = s.legal ∧
      (∀ b' : Bank, b' ≠ b ∨ planned = false → (t.holm b').pend = (s.holm b').pend ∧
        (t.holm b').planSeq = (s.holm b').planSeq) ∧
      (planned = true → t.ch c = s.ch c ∧ t.completions = s.completions ∧
        (t.holm b).pend = some (PlanPend.mk rates (s.planInstant b)
          ((match (s.holm b).pend with | some p => p.waiters | none => []) ++ [PlanWait.mk 0x0203 r 0]))) ∧
      (planned = false → dist = true → (t.ch c).brg.meas = w ∧
        Completion.mk r 0x0203 (r.tag == 0) stOK [] (s.sys.now + 5000) ∈ t.completions) ∧
      (planned = false → dist = false → ch.brg.meas = w → (t.ch c).brg.meas = w ∧
        (carrier = false → Completion.mk r 0x0203 (r.tag == 0) stOK [] s.sys.now ∈ t.completions)) ∧
      (planned = false → dist = false → carrier = true ∨ ch.brg.meas ≠ w →
        Completion.mk r 0x0203 (r.tag == 0) stOK [] (s.sys.now + (g - s.sys.now)) ∈ t.completions ∧
        (g ≤ s.sys.now → (t.ch c).brg.meas = w) ∧
        (s.sys.now < g → (t.ch c).brg.meas = ch.brg.meas ∧ (t.ch c).brg.next = some (w, g)))) ∧
  ∀ s : State, s.pending = [] → (∀ c, (s.ch c).changing = none) → (∀ b, s.tbWaits b = false) → s.idleInside →
    ∃ t, step s = .next t ∧ ∀ c : Ch, t.ch c =
      match (s.ch c).brg.next with
      | none => s.ch c
      | some n =>
        if n.2 ≤ t.sys.now then { (s.ch c).withMeas n.1 with brg := { ((s.ch c).withMeas n.1).brg with next := none } }
        else s.ch c

/-- CH.PAIR and CH.UNPAIR (R56 to R58, R208); the conductor temperature and fuse fraction of a new pair are the model's choice (log
entry 137). -/
def Obligations.PairingSharesAndDividesSettings : Prop :=
  ∀ (r : Req) (s : State) (e : Ch), chOf r.obj = some e → r.payload = [] →
    let o := partnerOf e
    (Ready 0x0207 r s → (s.ch e).mode = .dout → (s.ch e).paired = false → pairOk s e o = true →
      ∃ t, exec (.chPair r) s = .next t ∧ Completion.mk r 0x0207 (r.tag == 0) stOK [] s.sys.now ∈ t.completions ∧
        (t.ch e).paired = true ∧ (t.ch o).paired = true ∧
        (t.ch o).stored = some (SwSettings.mk (s.ch o).sw.prot (s.ch o).sw.wire (s.ch o).sw.fuse (s.ch o).sw.diag
          (s.ch o).sw.pgen) ∧
        (t.ch o).sw.prot = (s.ch e).sw.prot ∧ (t.ch o).sw.wire = (s.ch e).sw.wire ∧
        (t.ch o).sw.fuse = (s.ch e).sw.fuse ∧ (t.ch o).sw.diag = (s.ch e).sw.diag ∧
        (t.ch e).sw.theta = max (s.ch e).sw.theta (s.ch o).sw.theta ∧
        (t.ch e).sw.fuseF = max (s.ch e).sw.fuseF (s.ch o).sw.fuseF) ∧
    (Ready 0x0208 r s → e.val % 2 = 0 → (s.ch e).mode = .dout → (s.ch e).paired = true → (s.ch o).paired = true →
      (s.ch o).mode = .dout → (s.govern e).1 = 5 → (s.govern o).1 = 5 → (s.ch e).l5 = .off →
      ∃ t, exec (.chUnpair r) s = .next t ∧ Completion.mk r 0x0208 (r.tag == 0) stOK [] s.sys.now ∈ t.completions ∧
        (t.ch e).paired = false ∧ (t.ch o).paired = false ∧ (t.ch e).l5 = .off ∧ (t.ch o).l5 = .off ∧
        (∀ k, (s.ch o).stored = some k → (t.ch o).sw.prot = k.prot ∧ (t.ch o).sw.wire = k.wire ∧
          (t.ch o).sw.fuse = k.fuse ∧ (t.ch o).sw.diag = k.diag) ∧
        (t.ch e).sw.prot = (s.ch e).sw.prot ∧
        ∀ m : Ch, m = e ∨ m = o → (t.ch m).sw.theta = (s.ch e).sw.theta ∧ (t.ch m).sw.fuseF = (s.ch e).sw.fuseF ∧
          (t.ch m).sw.restarts = (s.ch e).sw.restarts ∧ (t.ch m).sw.ipk = (s.ch e).sw.ipk / 2 ∧
          (t.ch m).sw.qin = (s.ch e).sw.qin / 2 ∧ (t.ch m).sw.i100 = (s.ch e).sw.i100 / 2)

/-- Configuration writes admitted at once (R221, R226, R239, R257, R264, R354, R401). The bytes they are priced at are
the model's choice (log entry 24), and whether a write of the configuration region reads back is its free value (log entry 96). -/
def Obligations.ConfigurationWritesTakeEffectOnAdmission : Prop :=
  ∀ (r : Req) (s : State), r.deadline = 0 → s.badger.heads = [] → s.coreDown 6 = false →
    s.den.bufBytes + r.payload.length ≤ s.badger.reserveBytes →
    (∀ (b : Bank) (w : BitVec 16), holmOf r.obj = some b → Ready 0x020B r s → r.payload = le16 w.toNat ++ [0, 0] →
      (w.toNat ≤ 60000 ∨ w = 0xFFFF) → s.configReads = true →
      ∃ t, exec (.chField r) s = .next t ∧ Completion.mk r 0x020B (r.tag == 0) stOK [] s.sys.now ∈ t.completions ∧
        (t.holm b).holdT = w ∧ t.chans = s.chans ∧ t.den = s.den ∧ t.mram = s.mram ∧
        ∀ b' : Bank, b' ≠ b → t.holm b' = s.holm b') ∧
    (∀ (b : Bank) (k : Fin 8) (e : BurEntry), holmOf r.obj = some b → Ready 0x020D r s →
      r.payload = BitVec.ofNat 8 (2 ^ k.val) :: e.bytes → (s.ch (chAt b k)).owner = some r.port →
      s.isLegal (chAt b k) = false → (s.ch (chAt b k)).mode.isOutput = true → (s.ch (chAt b k)).paired = false →
      bit e.bflags 7 = true → fld e.bflags 1 0 = 0 → fld e.bflags 3 2 ≠ 3 → e.iact.toNat ≤ 24000000 →
      e.iinact.toNat ≤ 24000000 → (s.holm b).burEn = false → s.configReads = true →
      ∃ t, exec (.chBmap r) s = .next t ∧ Completion.mk r 0x020D (r.tag == 0) stOK [] s.sys.now ∈ t.completions ∧
        (t.ch (chAt b k)).bmap = e ∧ ∀ d : Ch, d ≠ chAt b k → (t.ch d).bmap = (s.ch d).bmap) ∧
    (Ready 0x0801 r s → r.payload.length = 16 → zeroBytes r.payload 13 3 = true → bdgRange r.payload = true →
      legalExcitation s 0 ≤ leAt r.payload 4 2 * 1000 → legalExcitation s 1 ≤ leAt r.payload 6 2 * 1000 →
      s.configReads = true →
      ∃ t, exec (.bdgSet r) s = .next t ∧ Completion.mk r 0x0801 (r.tag == 0) stOK [] s.sys.now ∈ t.completions ∧
        t.badger.ifmax = #v[leAt r.payload 0 2, leAt r.payload 2 2] ∧
        t.badger.ixmax = #v[leAt r.payload 4 2, leAt r.payload 6 2] ∧ t.badger.pceil = leAt r.payload 8 2 ∧
        t.badger.dtguard = leAt r.payload 10 1 ∧ t.badger.eres = leAt r.payload 11 1 ∧
        t.badger.tambx = leAt r.payload 12 1 ∧ t.chans = s.chans ∧ t.holms = s.holms ∧ t.mram = s.mram) ∧
    (∀ (off : Nat) (d : List Byte), Memory.wf s.mram = true → Ready 0x0B02 r s → s.sessionOf r.port = true → off % 4096 = 0 →
      off < s.upd.sessionLen → s.upd.sessionLen ≤ 0x180000 → d.length = min 4096 (s.upd.sessionLen - off) →
      r.payload = le32 off ++ le32 (crc32c (le32 off ++ d)) ++ d →
      (s.mramFails (slotBase s.upd.other + off) d.length = true → ∃ t, exec (.updChunk r) s = .next t ∧
        Completion.mk r 0x0B02 (r.tag == 0) stE_INTERNAL [] s.sys.now ∈ t.completions ∧ off / 4096 ∉ t.upd.chunks ∧
        t.chans = s.chans ∧ t.holms = s.holms ∧ t.legal = s.legal) ∧
      (s.mramFails (slotBase s.upd.other + off) d.length = false → ∃ t, exec (.updChunk r) s = .next t ∧ Completion.mk r 0x0B02 (r.tag == 0) stOK [] s.sys.now ∈ t.completions ∧
        (∀ i, i < d.length → mramRead t.mram (slotBase s.upd.other + off + i) = d.getD i 0) ∧
        (∀ a, (a < slotBase s.upd.other + off ∨ slotBase s.upd.other + off + d.length ≤ a) →
          mramRead t.mram a = mramRead s.mram a) ∧
        off / 4096 ∈ t.upd.chunks ∧ t.chans = s.chans ∧ t.holms = s.holms ∧ t.legal = s.legal)) ∧
    (∀ (b : Bank) (w : BitVec 16), holmOf r.obj = some b → Ready 0x020B r s → r.payload = le16 w.toNat ++ [0, 0] →
      (w.toNat ≤ 60000 ∨ w = 0xFFFF) → s.configReads = false →
      ∃ t, exec (.chField r) s = .next t ∧ Completion.mk r 0x020B (r.tag == 0) stE_INTERNAL [] s.sys.now ∈ t.completions ∧
        (∀ b' : Bank, (t.holm b').holdT = (s.holm b').holdT) ∧ t.chans = s.chans)

/-- OUT.SET off (R180), refused while a higher level governs (R39). -/
def Obligations.OutSetTurnsASwitchOff : Prop :=
  ∀ (r : Req) (m : ClampMeas) (s : State) (c : Ch), chOf r.obj = some c → Ready 0x0301 r s → r.payload = [0, 0, 0, 0] →
    (s.ch c).mode.isSwitch = true → (s.ch c).paired = false →
    ((s.govern c).1 = 5 → (s.ch c).l5 = .on → s.quietRates (bankOf c) = [] → s.badger.heads = [] →
      ∃ t, exec (.outSet r m) s = .next t ∧ Completion.mk r 0x0301 (r.tag == 0) stOK [] s.sys.now ∈ t.completions ∧
        (t.ch c).l5 = .off ∧ (t.ch c).conducting = false ∧ ∀ d : Ch, d ≠ c → t.ch d = s.ch d) ∧
    ((s.govern c).1 ≠ 5 → Completes (.outSet r m) 0x0301 r stE_STATE [] 0 s (s.running r))

/-- OUT.SET on (R180, R181) through the Badger's admission (R226). -/
def Obligations.OutSetTurnsASwitchOnWhenAdmitted : Prop :=
  ∀ (r : Req) (m : ClampMeas) (s : State) (c : Ch), chOf r.obj = some c → Ready 0x0301 r s → r.payload = [1, 0, 0, 0] →
    r.deadline = 0 → (s.ch c).mode = .dout → (s.ch c).paired = false → (s.govern c).1 = 5 → (s.ch c).l5 = .off →
    (s.ch c).restore = .none → (s.ch c).presag = none → s.isLegal c = false →
    (s.ch c).loop.session = .none → s.quietRates (bankOf c) = [] → s.badger.heads = [] → s.badger.stagger = [] →
    s.coreDown 6 = false → (s.holm (bankOf c)).shed = false →
    failures s true r.prio.toNat (turnOnProfile s 0x0301 c) (some c) = [] →
    failures s false r.prio.toNat (turnOnProfile s 0x0301 c) (some c) = [] →
    ∃ t, exec (.outSet r m) s = .next t ∧ Completion.mk r 0x0301 (r.tag == 0) stOK [] s.sys.now ∈ t.completions ∧
      (t.ch c).l5 = .on ∧ (t.ch c).level = 5 ∧ (t.ch c).out = .on ∧ (t.ch c).conducting = true ∧
      ∀ d : Ch, d ≠ c → t.ch d = s.ch d

/-- OUT.PROT, OUT.WIRE, OUT.FUSE, OUT.PGEN, OUT.DIAG (R182, R183, R187, R200, R203) at any level (R39), on both members of a
pair (R208). -/
def Obligations.SwitchSettingsTakeTheirWords : Prop :=
  ∀ (r : Req) (s : State) (c : Ch), chOf r.obj = some c → (s.ch c).mode.isSwitch = true → s.oddMember c = false →
    let all (f : Sw → Sw) : State :=
      overAll (s.members c) (fun m s => s.setCh m (fun ch => { ch with sw := f ch.sw })) (s.running r)
    (∀ w : BitVec 64, Ready 0x0302 r s → r.payload = le64 w.toNat → w &&& 0x000000000F80FFFC#64 = 0 →
      1 ≤ fld w 63 48 → fld w 63 48 ≤ 3600 → 100 ≤ fld w 47 32 → fld w 47 32 ≤ 1500 → 20 ≤ fld w 22 16 →
      fld w 22 16 ≤ 80 → (∀ m ∈ s.members c, (s.ch m).sw.bucket ≤ 100 * fld w 47 32) →
      Completes (.outProt r) 0x0302 r stOK [] 0 s (all (fun x => { x with prot := w }))) ∧
    (∀ w : BitVec 32, Ready 0x0303 r s → r.payload = le32 w.toNat → w &&& 0x70C0E0FF#32 = 0 → fld w 27 24 ≤ 12 →
      fld w 21 20 ≠ 3 → fld w 19 16 ≤ 7 → fld w 12 8 ≤ 30 →
      Completes (.outWire r) 0x0303 r stOK [] 0 s (all (fun x => { x with wire := w }))) ∧
    (∀ (n t : Nat) (d : List Byte), Ready 0x0304 r s → r.payload = [BitVec.ofNat 8 n, 0] ++ le16 t ++ d → 2 ≤ n → n ≤ 8 →
      1 ≤ t → t ≤ 3600 → d.length = 4 * n → fuseOk (fusePoints r.payload n) = true →
      Completes (.outFuse r) 0x0304 r stOK [] 0 s
        (all (fun x => { x with fuse := { tcool := t, pts := fusePoints r.payload n } }))) ∧
    (∀ w : BitVec 32, Ready 0x0307 r s → r.payload = le32 w.toNat → w &&& 0xFF1F0000#32 = 0 →
      (if bit w 21 then 5 else 10) ≤ fld w 15 8 → fld w 15 8 ≤ 100 → 1 ≤ fld w 7 0 →
      Completes (.outDiag r) 0x0307 r stOK [] 0 s (all (fun x => { x with
        diag := w
        onOpen := x.onOpen && bit w 22
        offOpen := x.offOpen && bit w 23 && !bit w 21 }))) ∧
    ∀ g : Pgen, Ready 0x0306 r s →
      r.payload = le32 g.period.toNat ++ le16 g.duty.toNat ++ [g.phase, BitVec.ofNat 8 (b2n g.phauto), 0, 0, 0, 0] →
      2458 ≤ g.period.toNat → g.period.toNat ≤ 245760000 →
      ((s.ch c).mode = .dout → (s.ch c).paired = false → Completes (.outPgen r) 0x0306 r stOK [] 0 s
        ((s.running r).setCh c (fun ch => { ch with sw := { ch.sw with
          pgen := g
          prun := g
          tbNext := if g.period = ch.sw.pgen.period then ch.sw.tbNext else none } }))) ∧
      ((s.ch c).mode = .dop → tbAvailable s c g.period = true → ∃ t, exec (.outPgen r) s = .next t ∧
        Completion.mk r 0x0306 (r.tag == 0) stOK [] s.sys.now ∈ t.completions ∧
        (t.ch c).sw.pgen.period = g.period ∧ (t.ch c).sw.pgen.duty = g.duty ∧ (t.ch c).sw.pgen.phauto = g.phauto ∧
        (t.ch c).out = (s.ch c).out ∧ (t.ch c).conducting = (s.ch c).conducting ∧
        ((s.ch c).sw.tb ≠ none → (∀ d, (s.ch d).paired = false) → (t.ch c).sw.prun = (s.ch c).sw.prun) ∧
        ∀ d : Ch, (t.ch d).mode = (s.ch d).mode ∧ (t.ch d).out = (s.ch d).out ∧ (t.ch d).l5 = (s.ch d).l5 ∧
          (t.ch d).sw.prot = (s.ch d).sw.prot)

/-- OUT.CLEAR (R198) and the level-5 state it leaves (R37). -/
def Obligations.OutClearReleasesTheFuse : Prop :=
  ∀ (r : Req) (s : State) (c : Ch), chOf r.obj = some c → Ready 0x0305 r s → (s.ch c).paired = false → (s.ch c).acts = [] →
    (∀ fl : Byte, r.payload = [fl] → fl &&& 0xE0 = 0 → clearMode (s.ch c).mode fl = true →
      (bit fl 4 = true → (s.ch c).reloading = false) →
      (clearAllowed s c fl = true → ∃ t, exec (.outClear r) s = .next t ∧
        Completion.mk r 0x0305 (r.tag == 0) stOK [] s.sys.now ∈ t.completions ∧
        (t.ch c).locks = { (s.ch c).locks with
          fuse := (s.ch c).locks.fuse && !bit fl 0
          clamp := (s.ch c).locks.clamp && !bit fl 1
          thermHold := (s.ch c).locks.thermHold && !bit fl 2
          thermLatch := (s.ch c).locks.thermLatch && !bit fl 2
          seqFault := (s.ch c).locks.seqFault && !bit fl 4 } ∧
        ((t.ch c).locks ≠ (s.ch c).locks → (t.ch c).l5 = (s.ch c).putL5 (deenergised (s.ch c).mode)) ∧
        (bit fl 3 = true → (t.ch c).sw.learned = false ∧ (t.ch c).sw.ipk = 0 ∧ (t.ch c).sw.qin = 0 ∧ (t.ch c).sw.i100 = 0) ∧
        (bit fl 3 = false → (t.ch c).sw.ipk = (s.ch c).sw.ipk ∧ (t.ch c).sw.qin = (s.ch c).sw.qin) ∧
        ∀ d : Ch, d ≠ c → t.ch d = s.ch d) ∧
      (clearAllowed s c fl = false → Completes (.outClear r) 0x0305 r stE_THERMAL [] 0 s (s.running r))) ∧
    (r.payload = [1] → (s.ch c).mode = .dout → (s.ch c).locks.fuse = true → bit (s.ch c).sw.wire 31 = false →
      ((s.ch c).sw.theta ≤ thetaTrip (s.ch c).sw.wire - 5000000000000 → (s.ch c).l3 = none → s.burrowOn c = false →
        ∃ t, exec (.outClear r) s = .next t ∧ Completion.mk r 0x0305 (r.tag == 0) stOK [] s.sys.now ∈ t.completions ∧
          (t.ch c).locks.fuse = false ∧ (t.ch c).l5 = .off ∧ (t.ch c).conducting = false) ∧
      (thetaTrip (s.ch c).sw.wire - 5000000000000 < (s.ch c).sw.theta →
        Completes (.outClear r) 0x0305 r stE_THERMAL [] 0 s (s.running r)))

/-- The THR family (R119, R120, R124, R130, R470). -/
def Obligations.ComparatorSettingsAndArming : Prop :=
  ∀ (r : Req) (s : State) (c : Ch), chOf r.obj = some c → (s.ch c).mode.usesFilter = true → s.isLegal c = false →
    (Ready 0x0401 r s → r.payload.length = 24 → rsvZero (byteAt r.payload 0) 0xFC = true →
      rsvZero (word32 r.payload 4) 0xF00301FF#32 = true → zeroBytes r.payload 22 2 = true →
      thrRange (thrIdx r.payload).val (thrOf r.payload (s.ch c).thr[thrIdx r.payload]) = true →
      let old := (s.ch c).thr[thrIdx r.payload]
      let new := thrOf r.payload old
      (new.act = 0 ∨ (s.owns r.port (chObj new.tgt) = true ∧ s.oddMember new.tgt = false)) →
      (old.st = .fired → new.act = old.act ∧ new.tgt = old.tgt) →
      ∃ t, exec (.thrSet r) s = .next t ∧ Completed 0x0401 r stOK [] 0 s ((s.running r).setCh c (fun ch => { ch with
          thr := (t.ch c).thr })) t ∧
        (∀ k : Fin 4, k ≠ thrIdx r.payload → (t.ch c).thr[k] = (s.ch c).thr[k]) ∧
        (t.ch c).thr[thrIdx r.payload].ctrl = word32 r.payload 4 ∧
        (t.ch c).thr[thrIdx r.payload].level = word32 r.payload 8 ∧
        (t.ch c).thr[thrIdx r.payload].hyst = word32 r.payload 12 ∧
        (t.ch c).thr[thrIdx r.payload].rwin = byteAt r.payload 1 ∧
        (t.ch c).thr[thrIdx r.payload].adly = word16 r.payload 2 ∧
        (t.ch c).thr[thrIdx r.payload].tpre = word32 r.payload 16 ∧
        (t.ch c).thr[thrIdx r.payload].acur = word16 r.payload 20 ∧
        (t.ch c).thr[thrIdx r.payload].st = (s.ch c).thr[thrIdx r.payload].st ∧
        (t.ch c).thr[thrIdx r.payload].cond = (s.ch c).thr[thrIdx r.payload].cond) ∧
    (Ready 0x0402 r s → r.payload = [] → ∃ d, Completes (.thrGet r) 0x0402 r stOK d 0 s (s.running r) ∧ d.length = 112 ∧
      ∀ k : Fin 4, d.getD (28 * k.val) 0 = BitVec.ofNat 8 k.val ∧
        d.getD (28 * k.val + 24) 0 = BitVec.ofNat 8 (s.ch c).thr[k].st.code) ∧
    (Ready 0x0405 r s → r.payload.length = 12 → zeroBytes r.payload 2 2 = true → leAt r.payload 0 2 ≠ 1 →
      leAt r.payload 0 2 ≤ 1024 → leAt r.payload 4 4 ≤ leAt r.payload 8 4 →
      ∃ t, exec (.thrStab r) s = .next t ∧ Completion.mk r 0x0405 (r.tag == 0) stOK [] s.sys.now ∈ t.completions ∧
        (t.ch c).stab = Stab.mk (word16 r.payload 0) (word32 r.payload 4) (word32 r.payload 8) [] false ∧
        (t.ch c).filt = (s.ch c).filt ∧ (t.ch c).thr = (s.ch c).thr ∧ ∀ d : Ch, d ≠ c → t.ch d = s.ch d) ∧
    (∀ m : Byte, m &&& 0xF0 = 0 → r.payload = [m] →
      (Ready 0x0403 r s → ∃ t, exec (.thrArm r) s = .next t ∧
        Completion.mk r 0x0403 (r.tag == 0) stOK [] s.sys.now ∈ t.completions ∧
        (∀ k : Fin 4, (t.ch c).thr[k].st = (if bit m k.val then .armed else (s.ch c).thr[k].st) ∧
          (t.ch c).thr[k].ctrl = (s.ch c).thr[k].ctrl ∧ (t.ch c).thr[k].level = (s.ch c).thr[k].level) ∧
        (t.ch c).filt = (s.ch c).filt ∧ (t.ch c).brg = (s.ch c).brg) ∧
      (Ready 0x0404 r s → ∃ t, exec (.thrDisarm r) s = .next t ∧
        Completion.mk r 0x0404 (r.tag == 0) stOK [] s.sys.now ∈ t.completions ∧
        (∀ k : Fin 4, (t.ch c).thr[k].st = (if bit m k.val then .disarmed else (s.ch c).thr[k].st) ∧
          (bit m k.val = true → (t.ch c).thr[k].timer = none) ∧
          (t.ch c).thr[k].ctrl = (s.ch c).thr[k].ctrl ∧ (t.ch c).thr[k].level = (s.ch c).thr[k].level) ∧
        (t.ch c).filt = (s.ch c).filt ∧ (t.ch c).brg = (s.ch c).brg))

/-- FLT.LOAD, FLT.ROM and FLT.SWAP (R97 to R100). -/
def Obligations.FilterBanksLoadWhileTheRunningOnesStay : Prop :=
  ∀ (r : Req) (s : State) (c : Ch), chOf r.obj = some c → (s.ch c).mode.usesFilter = true → s.isLegal c = false →
    (∀ (k : Fin 3) (first : Byte) (d : BitVec 64) (w : List Byte) (n : Nat), Ready 0x0501 r s → w.length = 4 * n →
      first.toNat + n ≤ 256 → descReserved d = true → descRange d = true →
      r.payload = [BitVec.ofNat 8 (k.val + 1), 1, first, 0] ++ le64 d.toNat ++ w →
      idleFits s c ((s.ch c).filt.withIdle k.val (.desc d (overlay [] (wordsAt r.payload 12 n) first.toNat)))
        (BitVec.ofNat 3 (2 ^ k.val)) = true →
      ∃ t, Completes (.fltLoad r) 0x0501 r stOK [] 0 s t ∧ t = (s.running r).setCh c (fun ch => { ch with filt := (t.ch c).filt }) ∧
        ((t.ch c).filt.stage k.val).idle = .desc d (overlay [] (wordsAt r.payload 12 n) first.toNat) ∧
        (∀ j : Fin 3, j ≠ k → (t.ch c).filt.stage j.val = (s.ch c).filt.stage j.val) ∧
        ((t.ch c).filt.stage k.val).hist = ((s.ch c).filt.stage k.val).hist ∧
        ((t.ch c).filt.stage k.val).activeB = ((s.ch c).filt.stage k.val).activeB ∧
        (t.ch c).filt.mdiv = (s.ch c).filt.mdiv ∧ (t.ch c).filt.sdecm1 = (s.ch c).filt.sdecm1) ∧
    (∀ (k : Fin 3) (first : Byte) (w : List Byte) (n : Nat), Ready 0x0501 r s → w.length = 4 * n → first.toNat + n ≤ 256 →
      r.payload = [BitVec.ofNat 8 (k.val + 1), 0, first, 0] ++ w →
      let edited := loadBank ((s.ch c).filt.stage k.val).idle k.val none (wordsAt r.payload 4 n) first.toNat
      (∀ b, edited = some b → idleFits s c ((s.ch c).filt.withIdle k.val b) (BitVec.ofNat 3 (2 ^ k.val)) = true →
        ∃ t, Completes (.fltLoad r) 0x0501 r stOK [] 0 s t ∧
          t = (s.running r).setCh c (fun ch => { ch with filt := (t.ch c).filt }) ∧
          ((t.ch c).filt.stage k.val).idle = b ∧
          ((t.ch c).filt.stage k.val).activeB = ((s.ch c).filt.stage k.val).activeB ∧
          ∀ j : Fin 3, j ≠ k → (t.ch c).filt.stage j.val = (s.ch c).filt.stage j.val) ∧
      (edited = none → idleFits s c (s.ch c).filt (BitVec.ofNat 3 (2 ^ k.val)) = true →
        Completes (.fltLoad r) 0x0501 r stE_STATE [] 0 s (s.running r))) ∧
    (∀ (e : Fin 16) (copy : Bool), Ready 0x0502 r s → r.payload = [BitVec.ofNat 8 e.val, BitVec.ofNat 8 (b2n copy), 0, 0] →
      idleFits s c ((((s.ch c).filt.withIdle 0 (romBank e copy 0)).withIdle 1 (romBank e copy 1)).withIdle 2
        (romBank e copy 2)) 7 = true →
      ∃ t, Completes (.fltRom r) 0x0502 r stOK [] 0 s t ∧ t = (s.running r).setCh c (fun ch => { ch with filt := (t.ch c).filt }) ∧
        ∀ j : Fin 3, ((t.ch c).filt.stage j.val).idle = romBank e copy j.val ∧
          ((t.ch c).filt.stage j.val).activeB = ((s.ch c).filt.stage j.val).activeB ∧
          ((t.ch c).filt.stage j.val).hist = ((s.ch c).filt.stage j.val).hist) ∧
    (∀ w : BitVec 32, Ready 0x0503 r s → r.payload = le32 w.toNat → w &&& 0xFF000700#32 = 0 → s.badger.heads = [] →
      Completes (.fltSwap r) 0x0503 r stOK [] 0 s (evaluate (s.running r))) ∧
    (∀ w : BitVec 32, Ready 0x0503 r s → r.payload = le32 w.toNat → w &&& 0x0F000000#32 ≠ 0 →
      firstFail (swapChecks c w 4 s) = none → swapRises (s.ch c) w = false → s.badger.heads = [] →
      ∃ (t : State) (plan : Bool), exec (.fltSwap r) s = .next t ∧ t.completions = s.completions ∧
        (plan = true → (s.ch c).carrierMode = true ∧ ∃ p, (t.holm (bankOf c)).pend = some p ∧
          p.rates ≠ s.latestRates (bankOf c) ∧ p.due = s.planInstant (bankOf c)) ∧
        (plan = false → t.holms = s.holms) ∧
        t = { (evaluate (s.running r)).setCh c (fun ch => { ch with filt := { ch.filt with swap := (t.ch c).filt.swap } }) with
          holms := t.holms } ∧
        (t.ch c).filt.swap = some (Swap.mk (BitVec.ofNat 3 (fld w 27 25)) (bit w 24)
          (BitVec.ofNat 13 (fld w 23 11)) (BitVec.ofNat 8 (fld w 7 0)) r s.sys.now plan))

/-- LOOP.CFG, LOOP.SET and LOOP.TRIM (R135, R136, R138, R142, R146 to R148). -/
def Obligations.LoopCommandsSetWordCurrentAndTrimSession : Prop :=
  ∀ (r : Req) (s : State) (c : Ch), chOf r.obj = some c → (s.ch c).paired = false →
    let done (op : BitVec 16) (st : Byte) : Completion := Completion.mk r op (r.tag == 0) st [] s.sys.now
    (∀ w : BitVec 64, Ready 0x0601 r s → r.payload = le64 w.toNat → w &&& 0x00000000FF00F0FF#64 = 0 →
      ((s.ch c).mode.isLoopOut = true ∧ 21000 ≤ fld w 63 48 ∧ fld w 63 48 ≤ 23000 ∧ 3500 ≤ fld w 47 32 ∧
          fld w 47 32 ≤ 3600 ∧ fld w 11 10 ≠ 3 ∧ bit w 8 = false ∧
          (alarmDir (s.holm (bankOf c)).strap (fld w 11 10)).2 = true) ∨
        ((s.ch c).mode.isLoop = true ∧ (s.ch c).mode.isLoopOut = false ∧ fld w 63 48 = 0x53FC ∧ fld w 47 32 = 0x0DDE ∧
          fld w 23 16 = 0 ∧ fld w 11 10 = 0 ∧ bit w 9 = true) →
      ∃ t, exec (.loopCfg r) s = .next t ∧
        Completed 0x0601 r stOK [] 0 s ((s.running r).setCh c (fun ch => { ch with loop := (t.ch c).loop })) t ∧
        (t.ch c).loop.word = w ∧
        (t.ch c).loop.dirHigh = (alarmDir (s.holm (bankOf c)).strap (fld w 11 10)).1 ∧
        (t.ch c).loop.trim = (s.ch c).loop.trim ∧ (t.ch c).loop.session = (s.ch c).loop.session) ∧
    ((s.ch c).mode.isLoopOut = true → Ready 0x0602 r s → (s.ch c).loop.session = .none → (s.ch c).parked = false →
      (s.govern c).1 = 5 → (s.ch c).restore = .none → (s.ch c).presag = none → s.quietRates (bankOf c) = [] →
      s.coreDown 6 = false →
      (∀ i : BitVec 32, r.payload = le32 i.toNat ++ [0, 0, 0, 0] → s.badger.heads = [] → i.toNat ≤ 24000000 →
        ((s.ch c).mode = .aot → 3500000 ≤ i.toNat) → i.toNat ≤ (s.ch c).outNa →
        ∃ t, exec (.loopSet r) s = .next t ∧ done 0x0602 stOK ∈ t.completions ∧
          (t.ch c).l5 = .cur i.toNat ∧ (t.ch c).out = .cur i.toNat ∧ (t.ch c).level = 5 ∧
          (t.ch c).loop.alarm = false ∧ (t.ch c).loop.word = (s.ch c).loop.word ∧
          ∀ d : Ch, d ≠ c → t.ch d = s.ch d) ∧
      (r.payload = [0, 0, 0, 0, 1, 0, 0, 0] → r.deadline = 0 → s.badger.heads = [] →
        ∃ t, exec (.loopSet r) s = .next t ∧ done 0x0602 stOK ∈ t.completions ∧
          (t.ch c).l5 = .cur (1000 * if (s.ch c).loop.dirHigh = true ∧ (s.ch c).loop.fallback = false
            then fld (s.ch c).loop.word 63 48 else fld (s.ch c).loop.word 47 32) ∧
          (t.ch c).level = 5 ∧ (t.ch c).loop.alarm = true ∧ (t.ch c).loop.word = (s.ch c).loop.word ∧
          ∀ d : Ch, d ≠ c → t.ch d = s.ch d)) ∧
    ((s.ch c).mode.isLoopOut = true → s.isLegal c = false → (s.ch c).parked = false → Ready 0x0603 r s →
      (s.govern c).1 = 5 →
      (r.payload = [1, 0, 0, 0, 0, 0, 0, 0] → (s.ch c).loop.session = .none →
        ∃ t, exec (.loopTrim r) s = .next t ∧ done 0x0603 stOK ∈ t.completions ∧
          (t.ch c).loop.session = .atC4 ∧
          (t.ch c).out = .cur (match (s.ch c).loop.trim with | .factory => 4000125 | .user p4 _ => p4) ∧ (t.ch c).loop.trim = (s.ch c).loop.trim ∧
          ∀ d : Ch, d ≠ c → t.ch d = s.ch d) ∧
      (∀ m : BitVec 32, r.payload = [2, 0, 0, 0] ++ le32 m.toNat → (s.ch c).loop.session = .atC4 →
        ∃ t, exec (.loopTrim r) s = .next t ∧ done 0x0603 stOK ∈ t.completions ∧
          (t.ch c).loop.session = .atC20 m.toNat ∧
          (t.ch c).out = .cur (match (s.ch c).loop.trim with | .factory => 19999875 | .user _ p20 => p20) ∧
          (t.ch c).loop.trim = (s.ch c).loop.trim ∧ ∀ d : Ch, d ≠ c → t.ch d = s.ch d) ∧
      (r.payload = [0, 0, 0, 0, 0, 0, 0, 0] → (s.ch c).loop.session ≠ .none →
        ∃ t, exec (.loopTrim r) s = .next t ∧ done 0x0603 stOK ∈ t.completions ∧
          (t.ch c).loop.session = .none ∧ (t.ch c).out = normDemand (s.ch c).mode (s.ch c).l5 ∧
          (t.ch c).loop.trim = (s.ch c).loop.trim ∧ ∀ d : Ch, d ≠ c → t.ch d = s.ch d) ∧
      (∀ (m4 : Nat) (m : BitVec 32), r.payload = [3, 0, 0, 0] ++ le32 m.toNat → (s.ch c).loop.session = .atC20 m4 →
        ¬(3600125 ≤ m4 ∧ m4 ≤ 4400125 ∧ 19599875 ≤ m.toNat ∧ m.toNat ≤ 20399875) →
        Completes (.loopTrim r) 0x0603 r stE_RANGE [] 0 s (s.running r)) ∧
      (r.deadline = 0 → s.badger.heads = [] → s.coreDown 6 = false → s.configReads = true →
        s.den.bufBytes + 8 ≤ s.badger.reserveBytes →
        (∀ (m4 : Nat) (m : BitVec 32), r.payload = [3, 0, 0, 0] ++ le32 m.toNat → (s.ch c).loop.session = .atC20 m4 →
          3600125 ≤ m4 → m4 ≤ 4400125 → 19599875 ≤ m.toNat → m.toNat ≤ 20399875 →
          ∃ t, exec (.loopTrim r) s = .next t ∧ done 0x0603 stOK ∈ t.completions ∧
            (t.ch c).loop.session = .none ∧ (t.ch c).loop.trim = .user m4 m.toNat ∧ ∀ d : Ch, d ≠ c → t.ch d = s.ch d) ∧
        (r.payload = [4, 0, 0, 0, 0, 0, 0, 0] → (s.ch c).loop.session = .none →
          ∃ t, exec (.loopTrim r) s = .next t ∧ done 0x0603 stOK ∈ t.completions ∧
            (t.ch c).loop.session = .none ∧ (t.ch c).loop.trim = .factory ∧ ∀ d : Ch, d ≠ c → t.ch d = s.ch d)))

/-- MDM.CFG, MDM.SEND, MDM.READ and MDM.REPLY (R152, R155 to R157, R159, R160). MDM.SEND while C4 or C5 is in recovery is log entry
130. -/
def Obligations.ModemCommandsConfigureQueueReadAndReply : Prop :=
  ∀ (r : Req) (s : State) (c : Ch), chOf r.obj = some c → (s.ch c).modem = true → (s.ch c).paired = false →
    (∀ (w : BitVec 32) (u : BitVec 38), Ready 0x0701 r s → r.payload = le32 w.toNat ++ leBytes u.toNat 5 ++ [0, 0, 0] →
      w &&& 0xFF000F00#32 = 0 → (if (s.ch c).mode = .aot then fld w 23 22 = 2 else fld w 23 22 < 2 ∧ fld w 21 16 = 0) →
      fld w 15 12 ≤ 3 → 10 ≤ fld w 7 0 → fld w 7 0 ≤ 240 →
      ∃ t, exec (.mdmCfg r) s = .next t ∧ Completion.mk r 0x0701 (r.tag == 0) stOK [] s.sys.now ∈ t.completions ∧
        (t.ch c).mdm = { (s.ch c).mdm with word := w, uid := u } ∧
        ((s.ch c).mode = .aot → fld w 21 16 ≠ 0 → (s.ch c).parked = false →
          (t.ch c).parked = true ∧ (t.ch c).l5 = .cur 4000000 ∧ (t.ch c).loop.alarm = false) ∧
        (∀ d : Ch, d ≠ c → t.ch d = s.ch d)) ∧
    (Ready 0x0702 r s → (s.ch c).master = true → (s.ch c).mdm.txq.length < 8 → 9 ≤ r.payload.length →
      r.payload.length ≤ 264 → byteAt r.payload 0 &&& 0xFE = 0 → byteAt r.payload 2 &&& 0xC0 = 0 →
      byteAt r.payload 7 &&& 0xC0 = 0 →
      (if bit (byteAt r.payload 0) 0 then leAt r.payload 2 1 = 0 else leAt r.payload 3 5 = 0) →
      5 ≤ leAt r.payload 1 1 → leAt r.payload 1 1 ≤ 20 →
      Completes (.mdmSend r) 0x0702 r stOK (le16 (s.ch c).mdm.nextTxn.toNat) 0 s ((s.running r).setCh c (fun ch =>
        { ch with mdm := { ch.mdm with
          txq := ch.mdm.txq ++ [MdmTx.mk ch.mdm.nextTxn (bit (byteAt r.payload 0) 0) (byteAt r.payload 1)
            (BitVec.ofNat 6 (leAt r.payload 2 1)) (BitVec.ofNat 38 (leAt r.payload 3 5)) (byteAt r.payload 8)
            (r.payload.drop 9)]
          nextTxn := ch.mdm.nextTxn + 1 } }))) ∧
    (Ready 0x0703 r s → r.payload = [] →
      (∀ e rest, (s.ch c).mdm.rx = e :: rest → Completes (.mdmRead r) 0x0703 r stOK e.bytes 0 s ((s.running r).setCh c
        (fun ch => { ch with mdm := { ch.mdm with rx := rest } }))) ∧
      ((s.ch c).mdm.rx = [] → Completes (.mdmRead r) 0x0703 r stOK (List.replicate 11 0) 0 s (s.running r))) ∧
    (∀ (q : MdmReq) (p : Byte) (d : List Byte), Ready 0x0704 r s → (s.ch c).master = false → (s.ch c).mdm.latest = some q →
      r.payload = le16 q.num.toNat ++ [p, 0] ++ d → d.length ≤ 255 → 5 ≤ p.toNat → p.toNat ≤ 20 →
      (s.repliesGo c = true → s.sys.now ≤ q.endAt + 10000 * fld (s.ch c).mdm.word 7 0 →
        Completes (.mdmReply r) 0x0704 r stOK [] 0 s ((s.running r).setCh c (fun ch => { ch with mdm := { ch.mdm with
          sent := mdmFrame p.toNat (replyBody q d)
          sentAt := s.sys.raw } }))) ∧
      (q.endAt + 10000 * fld (s.ch c).mdm.word 7 0 < s.sys.now →
        Completes (.mdmReply r) 0x0704 r stE_TIMEOUT [] 0 s (s.running r)))

/-- CH.SAFE (R258) and BDG.SHED (R234). -/
def Obligations.ChSafeAndBdgShedSetTheirWords : Prop :=
  ∀ (r : Req) (s : State) (c : Ch), chOf r.obj = some c →
    (∀ w : BitVec 64, Ready 0x020C r s → r.payload = le64 w.toNat → (s.ch c).mode.isOutput = true →
      (s.ch c).paired = false → s.isLegal c = false → w &&& 0x00000000FFFFFFC8#64 = 0 → fld w 2 0 ≤ 4 →
      scurOk (s.ch c).mode w = true → safeAllowed (s.ch c).mode (fld w 2 0) = true →
      (s.ch c).loop.session = .none → (s.ch c).acts = [] →
      ∃ t, exec (.chSafe r) s = .next t ∧ Completion.mk r 0x020C (r.tag == 0) stOK [] s.sys.now ∈ t.completions ∧
        (t.ch c).safety = w ∧ (t.ch c).mode = (s.ch c).mode ∧ (t.ch c).l5 = (s.ch c).l5 ∧ (t.ch c).l3 = (s.ch c).l3 ∧
        ((t.ch c).level, (t.ch c).out) = t.govern c ∧ ∀ d : Ch, d ≠ c → t.ch d = s.ch d) ∧
    (∀ k : Fin 8, Ready 0x0803 r s → r.payload = [BitVec.ofNat 8 k.val, 0, 0, 0] →
      (s.isLegal c = false → Completes (.bdgShed r) 0x0803 r stOK [] 0 s
        ((s.running r).setCh c (fun ch => { ch with shcls := BitVec.ofNat 3 k.val }))) ∧
      (s.isLegal c = true → Completes (.bdgShed r) 0x0803 r stE_LEGAL [] 0 s (s.running r)))

/-- DEN.SNAP (R375), DEN.READ (R376) and DEN.CLEAR (R378, R379). -/
def Obligations.DenSnapshotsReadAndClear : Prop :=
  ∀ (r : Req) (s : State),
    (Ready 0x0901 r s → r.payload = [0, 0, 0, 0] → ∃ t nonce, exec (.denSnap r) s = .next t ∧
      Completion.mk r 0x0901 (r.tag == 0) stOK (snapData t nonce) s.sys.now ∈ t.completions ∧ t.den.buf = [] ∧
      t.den.snaps[r.port] = some (Snap.mk t.den.head (t.den.liveRing.map (·.seq)) t.den.legWrites (some nonce)) ∧
      (∀ p : Port, p ≠ r.port → t.den.snaps[p] = s.den.snaps[p]) ∧ t.chans = s.chans ∧ t.badger = s.badger ∧
      t.upd = s.upd ∧ t.sec = s.sec) ∧
    (∀ (sn : Snap) (region : Fin 3) (minsev : Fin 6) (maxb : BitVec 16) (first : BitVec 64), Ready 0x0902 r s →
      s.den.snaps[r.port] = some sn → first.toNat ≤ sn.head → 256 ≤ maxb.toNat → maxb.toNat ≤ 8148 →
      r.payload = [BitVec.ofNat 8 region.val, BitVec.ofNat 8 minsev.val] ++ le16 maxb.toNat ++ le64 first.toNat ++
        [0, 0, 0, 0] →
      ∃ t, exec (.denRead r) s = .next t ∧ t.den.buf = [] ∧ t.den.snaps = s.den.snaps ∧ t.chans = s.chans ∧
        Completion.mk r 0x0902 (r.tag == 0) stOK (readData t.den sn region.val minsev.val maxb.toNat first.toNat)
          s.sys.now ∈ t.completions) ∧
    (∀ (key : List Byte) (sn : Snap) (nonce : List Byte) (legal : Bool), Ready 0x0903 r s → s.sec.ownerKey = some key →
      s.den.snaps[r.port] = some sn → sn.nonce = some nonce → r.payload.length = 4735 →
      r.payload.take 4 = [BitVec.ofNat 8 (b2n legal), 0, 0, 0] →
      (legal = true → s.sys.order ≠ 2 ∧ s.isLegalPort r.port = true ∧ s.legal.sealed = false ∧
        sn.legalWrites = s.den.legWrites ∧ s.mramFails 0x300000 160 = false) →
      (legal = false → s.den.buf = [] ∧ (∃ k : Fin 1536, ∀ e ∈ s.den.ring, e.1 = k.val → e.2.seq ≤ sn.head) ∧
        ∀ k : Fin 1536, s.mramFails (0x320000 + 256 * k.val) 256 = false) → s.den.legWait = [] →
      let good : Bool := (r.payload.drop 4).take 64 == identityDigest && (r.payload.drop 68).take 32 == nonce &&
        leAt r.payload 100 8 == sn.head && mldsaVerify key (sha3_512 (r.payload.take 108)) (r.payload.drop 108)
      ∃ t, exec (.denClear r) s = .next t ∧
        Completion.mk r 0x0903 (r.tag == 0) (if good then stOK else stE_AUTH) [] s.sys.now ∈ t.completions ∧
        (good = true → t.den.snaps = Vector.replicate 3 none ∧
          (legal = false → t.den.ringClear = max s.den.ringClear (sn.head + 1)) ∧
          (legal = true → t.den.ringClear = s.den.ringClear ∧ t.den.lec = s.den.lec + 1 ∧ t.den.legal.length = 1 ∧
            ∀ e ∈ t.den.legal, e.1 = 0 ∧ e.2.typ = 0x0003)) ∧
        (good = false → t.den.snaps[r.port] = some { sn with nonce := none } ∧ t.den.ring = s.den.ring ∧
          t.den.legal = s.den.legal ∧ t.den.ringClear = s.den.ringClear) ∧
        t.chans = s.chans ∧ t.upd = s.upd ∧ t.sec = s.sec)

/-- CRC.CFG (R343), CRC.RUN (R345 to R350), CRC.SAVE and CRC.LOAD (R352). That the count is 0 again after a closing run is the model's
reading (log entry 58). -/
def Obligations.CheckUnitsConfigureRunSaveAndLoad : Prop :=
  ∀ (r : Req) (s : State) (u : Fin 4), unitOf r.obj = some u →
    (∀ cfg poly init xo : BitVec 32, Ready 0x0A01 r s →
      r.payload = le32 cfg.toNat ++ le32 poly.toNat ++ le32 init.toNat ++ le32 xo.toNat →
      cfg &&& 0xF00CFFFF#32 = 0 → cfgRange cfg poly init xo = true →
      Completes (.crcCfg r) 0x0A01 r stOK [] 0 s ((s.running r).setUnit u (fun x => { x with
        ctx := CrcCtx.mk cfg poly init xo (match fld cfg 27 24 with | 0 => init | 1 | 2 => 0xFFFFFFFF | 3 => 0xFFFF | _ => 0xFF)
          0 0 false }))) ∧
    (∀ (cmp : Bool) (e : BitVec 32) (data : List Byte), Ready 0x0A02 r s → (s.unit u).ctx.open_ = false →
      bit (s.unit u).ctx.cfg 16 = false → bit (s.unit u).ctx.cfg 17 = false → 1 ≤ data.length → data.length ≤ 8156 →
      (cmp = false → e = 0) →
      r.payload = [BitVec.ofNat 8 (8 + b2n cmp), 0, 0, 0] ++ le32 0 ++ le32 data.length ++ le32 e.toNat ++ data →
      let a := (s.unit u).ctx.alg
      let v := crcFinal a.width a.reflOut a.xorout (crcFeed a.width a.poly a.refl a.init data)
      ∃ t, exec (.crcRun r) s = .next t ∧
        Completion.mk r 0x0A02 (r.tag == 0) stOK (le32 v ++
          [if cmp = false then 0 else if v = e.toNat then 1 else 2, 0, 0, 0] ++ le32 data.length ++ [0, 0, 0, 0]) s.sys.now
          ∈ t.completions ∧
        (t.unit u).ctx = { (s.unit u).ctx with
          reg := BitVec.ofNat 32 a.init
          count := 0
          seq := (s.unit u).ctx.seq + 1 } ∧
        (t.unit u).slots = (s.unit u).slots ∧
        (t.unit u).mism.toNat = (if cmp = true ∧ v ≠ e.toNat then min 65535 ((s.unit u).mism.toNat + 1)
          else (s.unit u).mism.toNat) ∧
        (∀ w : Fin 4, w ≠ u → t.unit w = s.unit w) ∧ t.chans = s.chans ∧ t.den = s.den ∧ t.mram = s.mram) ∧
    (Ready 0x0A03 r s →
      (∀ k : Fin 4, r.payload = [BitVec.ofNat 8 k.val, 0, 0, 0] →
        Completes (.crcSave r) 0x0A03 r stOK (s.unit u).ctx.bytes 0 s ((s.running r).setUnit u (fun x => { x with
          slots := x.slots.set k.val (some x.ctx) k.isLt }))) ∧
      (r.payload = [0xFF, 0, 0, 0] → Completes (.crcSave r) 0x0A03 r stOK (s.unit u).ctx.bytes 0 s (s.running r))) ∧
    (∀ (k : Fin 4) (x : CrcCtx), Ready 0x0A04 r s → r.payload = [BitVec.ofNat 8 k.val, 0, 0, 0] →
      (s.unit u).slots[k] = some x →
      Completes (.crcLoad r) 0x0A04 r stOK [] 0 s ((s.running r).setUnit u (fun y => { y with ctx := x })))

/-- UPD.BEGIN (R400), UPD.VERIFY (R402), UPD.ACTIVATE (R403, R404) and UPD.CONFIRM (R406). That a stage of the journaled change takes one
tick is the model's choice (log entry 121; O2 states that the step of an empty queue runs one), and whether a write of the configuration
region reads back is its free value (log entry 96). -/
def Obligations.UpdateSessionBeginsVerifiesActivatesAndConfirms : Prop :=
  ∀ (r : Req) (s : State), let k := s.upd.other; let a := s.upd.active
    let admits : Prop := r.deadline = 0 ∧ s.badger.heads = [] ∧ s.coreDown 6 = false ∧
      s.den.bufBytes + r.payload.length ≤ s.badger.reserveBytes ∧ s.configReads = true
    let only (t : State) : Prop := t.upd = { s.upd with work := t.upd.work } ∧ t.completions = s.completions ∧
      t.chans = s.chans ∧ t.holms = s.holms ∧ t.den = s.den ∧ t.mram = s.mram ∧ t.sec = s.sec ∧ t.legal = s.legal ∧
      t.crc = s.crc ∧ t.badger.heads = [] ∧ t.badger.admitted = s.badger.admitted
    (∀ len : BitVec 32, Ready 0x0B01 r s → r.payload = le32 len.toNat ++ [0, 0, 0, 0] → 0x4000 < len.toNat →
      len.toNat ≤ 0x180000 → s.upd.inTrial = false → s.upd.sessionPort = none → admits →
      ∃ t, exec (.updBegin r) s = .next t ∧
        Completion.mk r 0x0B01 (r.tag == 0) stOK t.upd.progress s.sys.now ∈ t.completions ∧
        t.upd = { s.upd with
          sessionLen := len.toNat
          sessionPort := some r.port
          chunks := []
          st := s.upd.st.set k.val .downloading k.isLt
          info := s.upd.info.set k.val none k.isLt } ∧
        t.chans = s.chans ∧ t.badger.heads = [] ∧ t.badger.admitted = s.badger.admitted ∧ t.sec = s.sec ∧
        t.legal = s.legal) ∧
    (Ready 0x0B03 r s → r.payload = [0, 0, 0, 0] → s.sessionOf r.port = true → s.upd.complete = true →
      let st := verifyStatus s k s.upd.sessionLen
      ∃ t d, exec (.updVerify r) s = .next t ∧ Completion.mk r 0x0B03 (r.tag == 0) st d s.sys.now ∈ t.completions ∧
        t.upd = { s.upd with
          st := s.upd.st.set k.val (if st = stOK then .verified else .invalid) k.isLt
          info := s.upd.info.set k.val (if st = stOK then some (s.manifest k).info else none) k.isLt } ∧
        t.chans = s.chans ∧ t.badger = s.badger ∧ t.sec = s.sec ∧ t.legal = s.legal) ∧
    (∀ (tw : BitVec 16) (tb : Byte), Ready 0x0B04 r s → r.payload = le16 tw.toNat ++ [tb, 0] → 30 ≤ tw.toNat →
      tw.toNat ≤ 3600 → 1 ≤ tb.toNat → tb.toNat ≤ 10 → s.sessionOf r.port = true → s.upd.st[k] = .verified →
      s.upd.inTrial = false → s.lchg = false → admits →
      ∃ t, exec (.updActivate r) s = .next t ∧ only t ∧
        let e := Nat.iterate bootTick 5 t
        Completion.mk r 0x0B04 (r.tag == 0) stOK [] s.sys.now ∈ e.completions ∧
        e.upd.active = k ∧ e.upd.st[k] = .trial ∧ e.upd.st[a] = .fallback ∧ e.upd.twin = tw.toNat ∧
        e.upd.tboot = tb.toNat ∧ e.upd.trialStarts = 0 ∧ e.upd.sessionLen = 0 ∧ e.upd.floor = s.upd.floor ∧
        e.upd.info = s.upd.info ∧ e.upd.work = none ∧ e.upd.copies = Vector.replicate 2 (e.upd.bootRec, true) ∧
        e.sys.startDue = s.sys.startDue ++ [StartDue.mk .cold (s.sys.now + 50000) 2] ∧
        e.chans = s.chans ∧ e.sec = s.sec ∧ e.legal = s.legal) ∧
    (∀ i : ImgInfo, Ready 0x0B05 r s → r.payload = [0, 0, 0, 0] → s.upd.inTrial = true → s.upd.trialLegal = false →
      s.infoOf a = some i → admits →
      ∃ t, exec (.updConfirm r) s = .next t ∧ only t ∧
        let e := Nat.iterate bootTick 5 t
        Completion.mk r 0x0B05 (r.tag == 0) stOK [] s.sys.now ∈ e.completions ∧
        e.upd.active = a ∧ e.upd.st[a] = .active ∧ e.upd.floor.toNat = max s.upd.floor.toNat i.arb.toNat ∧
        (∀ j : ImgInfo, s.infoOf k = some j →
          e.upd.st[k] = if e.upd.floor.toNat ≤ j.arb.toNat then .verified else .invalid) ∧
        (s.infoOf k = none → e.upd.st[k] = .invalid) ∧ e.upd.info = s.upd.info ∧ e.upd.work = none ∧
        e.upd.copies = Vector.replicate 2 (e.upd.bootRec, true) ∧ e.chans = s.chans ∧ e.sec = s.sec ∧ e.legal = s.legal)

/-- SEC.ATTEST (R413), SEC.CERT (R412) and SEC.OWNERKEY (R414). -/
def Obligations.SecurityCommandsAttestCertifyAndHoldTheOwnerKey : Prop :=
  ∀ (r : Req) (s : State),
    (∀ nonce : List Byte, Ready 0x0C01 r s → nonce.length = 32 → r.payload = nonce ++ [0, 0, 0, 0] →
      ∃ t sig, exec (.secAttest r) s = .next t ∧ sig.length = 4627 ∧
        Completion.mk r 0x0C01 (r.tag == 0) stOK (attestReport s nonce ++ sig) s.sys.now ∈ t.completions ∧
        t.chans = s.chans ∧ t.upd = s.upd ∧ t.sec = s.sec ∧ t.legal = s.legal ∧ t.badger = s.badger) ∧
    (∀ i : Fin 2, Ready 0x0C02 r s → r.payload = [BitVec.ofNat 8 i.val, 0, 0, 0] →
      Completes (.secCert r) 0x0C02 r stOK (certData s i.val) 0 s (s.running r) ∧ (certData s i.val).length = 7251 ∧
      (certData s i.val).take 2 = [1, 0] ∧ (i = 0 → leAt (certData s i.val) 16 4 = s.devid)) ∧
    (Ready 0x0C03 r s → r.payload = [0, 0, 0, 0] → ∃ t nonce, exec (.secOwnerkey r) s = .next t ∧
      Completion.mk r 0x0C03 (r.tag == 0) stOK ([BitVec.ofNat 8 (b2n s.sec.ownerKey.isSome)] ++ s.ownerDigest ++ nonce)
        s.sys.now ∈ t.completions ∧ nonce.length = 32 ∧ t.sec.nonces[r.port] = some nonce ∧
      t.sec.ownerKey = s.sec.ownerKey ∧ (∀ p : Port, p ≠ r.port → t.sec.nonces[p] = s.sec.nonces[p]) ∧
      t.den = s.den ∧ t.chans = s.chans ∧ t.upd = s.upd) ∧
    (∀ key : List Byte, Ready 0x0C03 r s → r.payload = [1, 0, 0, 0] ++ key → key.length = 2592 → s.sys.order = 2 →
      (s.sec.ownerKey = none → ∃ t, exec (.secOwnerkey r) s = .next t ∧
        Completion.mk r 0x0C03 (r.tag == 0) stOK [] s.sys.now ∈ t.completions ∧ t.sec.ownerKey = some key ∧
        t.sec.nonces[r.port] = none ∧ t.den.snaps = Vector.replicate 3 none ∧ t.upd.st[s.upd.other] ≠ .verified ∧
        t.upd.active = s.upd.active ∧ t.chans = s.chans) ∧
      (s.sec.ownerKey ≠ none → ∃ t, exec (.secOwnerkey r) s = .next t ∧
        Completion.mk r 0x0C03 (r.tag == 0) stE_STATE [] s.sys.now ∈ t.completions ∧
        t.sec.ownerKey = s.sec.ownerKey ∧ t.sec.nonces[r.port] = none ∧ t.chans = s.chans ∧ t.den = s.den)) ∧
    (∀ (replace : Bool) (body key sig : List Byte), Ready 0x0C03 r s → body.length = 160 → sig.length = 4627 →
      key.length = (if replace then 2592 else 0) →
      r.payload = [if replace then 2 else 3, 0, 0, 0] ++ body ++ key ++ sig →
      let good : Bool := match s.sec.ownerKey with
        | none => false
        | some k => body.take 64 == identityDigest && s.sec.nonces[r.port] == some ((body.drop 64).take 32) &&
            body.drop 96 == (if replace then sha3_512 key else List.replicate 64 0) &&
            mldsaVerify k (sha3_512 body) sig
      ∃ t, exec (.secOwnerkey r) s = .next t ∧
        Completion.mk r 0x0C03 (r.tag == 0) (if good then stOK else stE_AUTH) [] s.sys.now ∈ t.completions ∧
        t.sec.nonces[r.port] = none ∧ t.chans = s.chans ∧ t.legal = s.legal ∧
        t.sec.ownerKey = (if good then (if replace then some key else none) else s.sec.ownerKey) ∧
        (good = true → t.den.snaps = Vector.replicate 3 none))

/-- OWN.CLAIM (R328), OWN.RELEASE (R329), OWN.RESUME (R260; log entries 118 and 151) and LGL.DECLARE (R335). -/
def Obligations.OwnershipAndLegalDeclarationsPass : Prop :=
  ∀ (r : Req) (s : State),
    let done (op : BitVec 16) (t : State) : Prop := Completion.mk r op (r.tag == 0) stOK [] s.sys.now ∈ t.completions
    let quiet : Prop := ∀ (d : Ch) (k : Fin 4), (s.ch d).thr[k].act = 0 ∨ (s.ch d).thr[k].st = .disarmed
    let only (c : Ch) (o : Option Port) (t : State) : Prop := (t.ch c).owner = o ∧
      (∀ d : Ch, d ≠ c → (t.ch d).owner = (s.ch d).owner) ∧ (∀ d : Ch, (t.ch d).mode = (s.ch d).mode) ∧
      (quiet → t.ch c = { s.ch c with owner := o } ∧ ∀ d : Ch, d ≠ c → t.ch d = s.ch d)
    (∀ c : Ch, chOf r.obj = some c → (s.ch c).paired = false →
      (∀ take : Bool, Ready 0x0D01 r s → r.payload = [BitVec.ofNat 8 (b2n take), 0, 0, 0] →
        ((s.ch c).owner = none ∧ s.isLegal c = false ∨ s.isLegal c = true ∧ s.isLegalPort r.port = true ∨
            (∃ p : Port, (s.ch c).owner = some p ∧ s.isLegal c = false ∧ take = true ∧ (s.port p).wdExpired = true) →
          ∃ t, exec (.ownClaim r) s = .next t ∧ done 0x0D01 t ∧ only c (some r.port) t) ∧
        (∀ p : Port, take = false → s.isLegal c = false → (s.ch c).owner = some p → p ≠ r.port →
          Completes (.ownClaim r) 0x0D01 r stE_OWNER [] 0 s (s.running r))) ∧
      (Ready 0x0D02 r s → r.payload = [0, 0, 0, 0] → s.isLegal c = false →
        ((s.ch c).mode.isOutput = false ∨
            (energised (s.ch c).mode (s.ch c).l5 = false ∧ (s.ch c).loop.session = .none) →
          ∃ t, exec (.ownRelease r) s = .next t ∧ done 0x0D02 t ∧ only c none t) ∧
        ((s.ch c).mode.isOutput = true →
            energised (s.ch c).mode (s.ch c).l5 = true ∨ (s.ch c).loop.session ≠ .none →
          Completes (.ownRelease r) 0x0D02 r stE_STATE [] 0 s (s.running r))) ∧
      (∀ (keep : Bool) (h : HostLoss), Ready 0x0D03 r s → r.payload = [BitVec.ofNat 8 (b2n keep), 0, 0, 0] →
        (s.ch c).mode.isOutput = true → (s.ch c).l3 = some h → (s.ch c).acts = [] → (s.ch c).loop.session = .none →
        (s.ch c).parked = false →
        ∃ t, exec (.ownResume r) s = .next t ∧ done 0x0D03 t ∧ (t.ch c).l3 = none ∧
          normDemand (s.ch c).mode (t.ch c).l5 = normDemand (s.ch c).mode (if keep then s.l3Demand c h else (s.ch c).l5) ∧
          ((t.ch c).level, (t.ch c).out) = t.govern c ∧ ∀ d : Ch, d ≠ c → t.ch d = s.ch d)) ∧
    (chOf r.obj = none → r.payload = [0, 0, 0, 0] →
      (Ready 0x0D01 r s → s.ownerOf r.obj = none → ∃ t, exec (.ownClaim r) s = .next t ∧ done 0x0D01 t ∧
        t.ownerOf r.obj = some r.port ∧ t.chans = s.chans ∧ t.mram = s.mram) ∧
      (Ready 0x0D02 r s → ∃ t, exec (.ownRelease r) s = .next t ∧ done 0x0D02 t ∧
        t.ownerOf r.obj = none ∧ t.chans = s.chans ∧ t.mram = s.mram)) ∧
    (∀ keep : Bool, r.obj = portObj r.port → Ready 0x0D03 r s → r.payload = [BitVec.ofNat 8 (b2n keep), 0, 0, 0] →
      ((∀ c : Ch, (s.ch c).owner = some r.port → s.whole (bankOf c) = true) →
        ∃ t, exec (.ownResume r) s = .next t ∧ done 0x0D03 t ∧
          (∀ c : Ch, (s.ch c).owner = some r.port → (s.ch c).paired = false → (t.ch c).l3 = none) ∧
          ∀ c : Ch, (t.ch c).mode = (s.ch c).mode ∧ (t.ch c).owner = (s.ch c).owner) ∧
      ((∃ c : Ch, (s.ch c).owner = some r.port ∧ s.whole (bankOf c) = false) →
        Completes (.ownResume r) 0x0D03 r stE_STATE [] 0 s (s.running r))) ∧
    (∀ mask : BitVec 16, Ready 0x0E02 r s → r.payload = le16 mask.toNat ++ [0, 0] → s.isLegalPort r.port = true →
      s.legal.sealed = false → (∀ c ∈ addedChs s mask, (s.ch c).mode.mayBeLegal = true ∧
        ((s.ch c).owner = none ∨ (s.ch c).owner = some r.port)) → s.legcfgFits r = true →
      s.legalReadsBack (72 + min 64 r.payload.length) = true →
      ∃ t, exec (.lglDeclare r) s = .next t ∧ done 0x0E02 t ∧
        t.legal = { s.legal with mask := mask } ∧
        (∀ c ∈ addedChs s mask, (t.ch c).owner = some r.port ∧ (t.ch c).shcls = 0) ∧
        (∀ c : Ch, c ∉ addedChs s mask → (t.ch c).owner = (s.ch c).owner ∧ (t.ch c).shcls = (s.ch c).shcls) ∧
        ∀ c : Ch, (t.ch c).mode = (s.ch c).mode ∧ (t.ch c).brg = (s.ch c).brg)

/-- OWN.QUERY (R330). -/
def Obligations.OwnQueryAnswersEveryOwner : Prop :=
  ∀ (r : Req) (s : State), r.obj = 0x0700 → r.payload = [] → s.opReady 0x0D04 r = true → s.opLate 0x0D04 r = false →
    s.recovery = false →
    r.prio.toNat < 2 →
    ∃ d, Completes (.ownQuery r) 0x0D04 r stOK d 0 s (s.running r) ∧ d.length = 24 ∧
      (∀ c : Ch, d.getD c.val 0 = (match (s.ch c).owner with | some p => BitVec.ofNat 8 p.val | none => 0xFF)) ∧
      (∀ b : Bank, d.getD (16 + b.val) 0 = (match (s.holm b).owner with | some p => BitVec.ofNat 8 p.val | none => 0xFF)) ∧
      d.getD 18 0 = (match s.badger.owner with | some p => BitVec.ofNat 8 p.val | none => 0xFF) ∧
      (∀ u : Fin 4, d.getD (19 + u.val) 0 =
        (match (s.unit u).owner with | some p => BitVec.ofNat 8 p.val | none => 0xFF)) ∧ d.getD 23 1 = 0

/-- OP.QUERY (R319), OP.ABORT (R322), OP.RELEASE (R321) and OP.FETCH (R320). -/
def Obligations.OpFamilyQueriesAbortsReleasesAndFetches : Prop :=
  ∀ (r : Req) (s : State), s.sys.vddOk = true → s.coreDown (portCore r.port) = false →
    ((s.port r.port).rsp.filter (fun x => x.kind == 1)).length < 32 →
    let q := s.port r.port
    let rec1 (op : BitVec 16) (st : Byte) (d : List Byte) : RspRec :=
      RspRec.mk 1 (record r.port op st r.seq r.tag r.obj 1 0 s.sys.now 0 0 d) 0 true
    let put (l : List RspRec) : State := s.setPort r.port (fun q => { q with rsp := q.rsp ++ l })
    (r.obj ≠ portObj r.port →
      exec (.opQuery r) s = .next (put [rec1 0x0F01 stE_RANGE []]) ∧
      exec (.opAbort r) s = .next (put [rec1 0x0F02 stE_RANGE []]) ∧
      exec (.opRelease r) s = .next (put [rec1 0x0F03 stE_RANGE []]) ∧
      exec (.opFetch r) s = .next (put [rec1 0x0F04 stE_RANGE []])) ∧
    (r.obj = portObj r.port → r.payload = [0, 0, 0, 0] →
      exec (.opQuery r) s = .next (put [rec1 0x0F01 stOK (querySummary s r.port)])) ∧
    (∀ tag : BitVec 16, r.obj = portObj r.port → tag ≠ 0 →
      (r.payload = le16 tag.toNat ++ [0, 0] →
        exec (.opQuery r) s = .next (put [rec1 0x0F01 stOK (queryData s r.port tag)]) ∧
        (q.held tag = none → exec (.opFetch r) s = .next (put [rec1 0x0F04 stE_STATE []])) ∧
        (q.held tag = none → q.cached tag = none → exec (.opAbort r) s = .next (put [rec1 0x0F02 stE_RANGE []])) ∧
        ∀ sl : Slot, q.held tag = some sl →
          (sl.st = .executing → exec (.opAbort r) s = .next (put [rec1 0x0F02 stE_STATE []])) ∧
          (sl.st = .completed → exec (.opAbort r) s = .next (put [rec1 0x0F02 stALREADY_DONE []]) ∧
            exec (.opFetch r) s = .next (put [rec1 0x0F04 stOK [], RspRec.mk 4 sl.record sl.req.tag false])) ∧
          (sl.st ≠ .completed → exec (.opFetch r) s = .next (put [rec1 0x0F04 stE_STATE []])) ∧
          ((sl.st = .queued ∨ sl.st = .fenced ∨ sl.st = .deferred) → sl.req.port = r.port →
            ∃ t, exec (.opAbort r) s = .next t ∧
              (t.port r.port).rsp.getLast? = some (rec1 0x0F02 stOK []) ∧
              (∀ x ∈ (t.port r.port).slots, x.req.tag = tag → x.st = .completed ∧ x.status = stE_ABORTED) ∧
              (∀ x ∈ (t.port r.port).slots, x.req.tag ≠ tag → x ∈ q.slots) ∧ t.chans = s.chans ∧ t.holms = s.holms)) ∧
      (r.payload = [1, 0] ++ le16 tag.toNat →
        (q.held tag = none → exec (.opRelease r) s = .next (put [rec1 0x0F03 stOK [2]])) ∧
        ∀ sl : Slot, q.held tag = some sl → sl.st = .completed →
          ∃ t, exec (.opRelease r) s = .next t ∧ (t.port r.port).rsp.getLast? = some (rec1 0x0F03 stOK [0]) ∧
            (t.port r.port).slots = q.slots.filter (fun x => !(x.req.tag == tag && x.st == .completed)) ∧
            (∀ x ∈ (t.port r.port).rsp, x.kind = 0 → x.tag ≠ tag) ∧ (t.port r.port).replay = q.replay ∧
            t.chans = s.chans ∧ t.holms = s.holms))

/-- Write frames (R277, R286 to R296). -/
def Obligations.RegisterWritesTakeEffectAsAWhole : Prop :=
  ∀ (p : Port) (fseq : BitVec 4) (s : State), s.framed p →
    let commits (c : Instr) (f : PortSt → PortSt) : Prop :=
      ∃ sdo, exec c s = .next (s.setPort p (fun q => f (q.judged fseq s.sys.now sdo)))
    (∀ (k : Fin 32) (data : List Byte), 1 ≤ data.length → k.val + data.length ≤ 32 →
      commits (.evpend p fseq k data) (fun q => { q with
        evpend := q.evpend &&& ~~~(BitVec.ofNat 256 (leAt data 0 data.length * 2 ^ (8 * k.val))) })) ∧
    (∀ (k : Fin 4) (v : Byte), commits (.frmerr p fseq k v) (fun q => { q with
      crce := if k = 0 then 0 else q.crce
      shorte := if k = 1 then 0 else q.shorte
      fmte := if k = 2 then 0 else q.fmte
      ovre := if k = 3 then 0 else q.ovre })) ∧
    (∀ w : BitVec 16, let sum := ((allPorts.filter (· != p)).map (fun x => (s.port x).opwindow.toNat)).sum + w.toNat
      (16 ≤ w.toNat ∧ w.toNat ≤ 256 ∧ sum ≤ 480 →
        commits (.opwindow p fseq 0x56 (le16 w.toNat)) (fun q => { q with opwindow := w })) ∧
      (¬(16 ≤ w.toNat ∧ w.toNat ≤ 256 ∧ sum ≤ 480) → ∃ t, exec (.opwindow p fseq 0x56 (le16 w.toNat)) s = .next t ∧
        (t.port p).opwindow = (s.port p).opwindow ∧ (t.port p).echo = echoByte fseq 7 ∧ t.chans = s.chans)) ∧
    commits (.cmdrst p fseq) (fun q => { q with cmdBuf := [], desync := false }) ∧
    commits (.rwnd p fseq) (fun q => { q with rdPos := 0 }) ∧
    commits (.rstd p fseq) (fun q => { q with rstd := false }) ∧
    ((s.port p).cmdBuf = [] → commits (.chen p fseq [1]) (fun q => { q with chen := true })) ∧
    (∀ m : BitVec 256, commits (.registerWrite p fseq 0x30 (leBytes m.toNat 32)) (fun q => { q with
      evmask := m &&& evExists })) ∧
    (∀ v : Byte, commits (.registerWrite p fseq 0x50 [v]) (fun q => { q with irqcfg := v &&& 0x8F })) ∧
    (∀ w : BitVec 16, commits (.registerWrite p fseq 0x72 (le16 w.toNat)) (fun q => { q with outen := w }) ∧
      commits (.registerWrite p fseq 0x7E (le16 w.toNat)) (fun q => { q with pset3 := w }))

/-- Discarded frames (R276, R277, R281, R287). -/
def Obligations.DiscardedFramesChangeNoRegister : Prop :=
  ∀ (p : Port) (f : RawFrame) (s : State), s.sys.vddOk = true → s.sys.vio = true → (s.port p).chen = false →
    let b := f.bytes.take (f.edges / 8)
    let code := frameResult s p b f.edges f.rdyAtFall
    code ≠ 0 → code ≠ 4 → ∃ t, exec (.discardedFrame p f) s = .next t ∧
      (t.port p).echo = echoByte (if code = 8 then 0 else BitVec.ofNat 4 (fld (byteAt b 0) 5 2)) code ∧
      (t.port p).crce = (if code = 1 then satInc (s.port p).crce else (s.port p).crce) ∧
      (t.port p).shorte = (if code = 2 ∨ code = 8 then satInc (s.port p).shorte else (s.port p).shorte) ∧
      (t.port p).fmte = (if code = 3 then satInc (s.port p).fmte else (s.port p).fmte) ∧
      (t.port p).ovre = (s.port p).ovre ∧ (t.port p).evmask = (s.port p).evmask ∧
      (t.port p).irqcfg = (s.port p).irqcfg ∧ (t.port p).opwindow = (s.port p).opwindow ∧
      (t.port p).chen = false ∧ (t.port p).outen = (s.port p).outen ∧ (t.port p).cmdBuf = (s.port p).cmdBuf ∧
      (t.port p).rdPos = (s.port p).rdPos ∧ (t.port p).slots = (s.port p).slots ∧ (t.port p).rstd = (s.port p).rstd ∧
      t.chans = s.chans ∧ t.holms = s.holms ∧ t.badger = s.badger ∧ t.crc = s.crc ∧ t.upd = s.upd ∧ t.sys = s.sys

/-- DEVTIME (R278, R279, R291, R292). -/
def Obligations.DevtimeReadsReturnOneCoherentValue : Prop :=
  ∀ (p : Port) (fseq : BitVec 4) (a : BitVec 8) (n : Nat) (good : Bool) (s : State), s.sys.vddOk = true →
    s.sys.vio = true → (s.port p).chen = false → 1 ≤ n → n ≤ 256 →
    let has (x : Nat) : Prop := a.toNat ≤ x ∧ x < a.toNat + n
    ∃ t, exec (.devtime p fseq a n good) s = .next t ∧
      ((t.port p).devLatch = if has 0x60 then BitVec.ofNat 64 s.sys.now else (s.port p).devLatch) ∧
      ((t.port p).imgLatch = if has 0x80 then pimage s p else (s.port p).imgLatch) ∧
      t.chans = s.chans ∧ t.holms = s.holms ∧ t.badger = s.badger ∧
      (good = true → ∀ i : Fin 8, has (0x60 + i.val) →
        (t.port p).sdo.getD (5 + (0x60 + i.val - a.toNat)) 0 = BitVec.ofNat 8 ((t.port p).devLatch.toNat / 2 ^ (8 * i.val))) ∧
      (good = false → ∀ i : Nat, i < n → (t.port p).sdo.getD (5 + i) 1 = 0) ∧
      (good = true → (s.port p).rdy = true → a.toNat ≤ 0xF0 → t = s.setPort p (fun q =>
        { q.judged fseq s.sys.now (t.port p).sdo with
          devLatch := (t.port p).devLatch
          imgLatch := (t.port p).imgLatch }))

/-- PIMAGE (R279, R292), status-only frames (R274, R280) and RSPQ (R294). -/
def Obligations.ImageStatusAndResponseReads : Prop :=
  ∀ (p : Port) (fseq : BitVec 4) (s : State), s.framed p →
    (∃ sdo, exec (.pimage p fseq 0x80 32 true) s = .next (s.setPort p (fun q => { q.judged fseq s.sys.now sdo with
        imgLatch := pimage s p })) ∧ ∀ i : Fin 32, sdo.getD (5 + i.val) 0 = byteAt (pimage s p) i.val) ∧
    (∃ t, exec (.pimage p fseq 0x80 32 false) s = .next t ∧ (t.port p).imgLatch = pimage s p ∧
      (t.port p).echo = echoByte fseq 1 ∧ (t.port p).frm = true ∧ (t.port p).crce = satInc (s.port p).crce) ∧
    (∀ d : List Byte, d = [s.status p, (s.port p).echo, 0] →
      exec (.statusOnlyFrame p fseq) s = .next (s.setPort p (fun q =>
        q.judged fseq s.sys.now (d ++ le16 (devCrc p fseq.toNat d))))) ∧
    ∀ n : Nat, 1 ≤ n → n ≤ 256 →
      ((s.port p).rsp = [] → ∃ sdo, exec (.rspq p fseq n) s = .next (s.setPort p (fun q => q.judged fseq s.sys.now sdo)) ∧
        ∀ i : Nat, i < n → sdo.getD (5 + i) 1 = 0) ∧
      ∀ (x : RspRec) (rest : List RspRec), (s.port p).rsp = x :: rest → (s.port p).rdPos < x.bytes.length →
        ∃ sdo f, exec (.rspq p fseq n) s = .next (s.setPort p (fun q => f (q.judged fseq s.sys.now sdo))) ∧
          (∀ i : Nat, i < n → sdo.getD (5 + i) 1 = x.bytes.getD ((s.port p).rdPos + i) 0) ∧
          ((s.port p).rdPos + n < x.bytes.length → f = fun q => { q with rdPos := q.rdPos + n }) ∧
          (x.bytes.length ≤ (s.port p).rdPos + n →
            (x.kind = 1 ∨ x.kind = 2 ∨ x.kind = 3 → f = fun q => { q with rsp := rest, rdPos := 0 }) ∧
            (x.kind = 0 → x.autorel = false → f = fun q => { q with rdPos := x.bytes.length }))

/-- CMDQ (R293) and acceptance (R301 to R307). -/
def Obligations.CommandsWrittenToCmdqBecomeOperations : Prop :=
  ∀ (p : Port) (fseq : BitVec 4) (s : State), s.framed p → (s.port p).cmdBuf = [] → (s.port p).desync = false →
    (∀ d : List Byte, 1 ≤ d.length → d.length < 8 → ∃ sdo, exec (.cmdq p fseq d) s =
      .next (s.setPort p (fun q => { q.judged fseq s.sys.now sdo with cmdBuf := d }))) ∧
    ∀ (op : BitVec 16) (r : Req), r.port = p → r.payload.length ≤ 236 → op.toNat ∈ opcodeList → family op ≠ 15 →
      r.tag ≠ 0 → (s.port p).held r.tag = none → (∀ e ∈ (s.port p).replay, e.tag ≠ r.tag) → opAccepts op r.obj = true →
      s.recovery = false → (s.port p).full = false → s.lacksOwner op r = false →
      let b := commandBytes op r
      let body := b.take (16 + r.payload.length)
      (s.linkOk r.obj = true → ∃ sdo, exec (.cmdq p fseq b) s = .next ((s.setSys (fun y => { y with accepted := y.accepted + 1 })).setPort p (fun q =>
        { q.judged fseq s.sys.now sdo with slots := q.slots ++ [Slot.mk op r
            (BitVec.ofNat 32 (crc32c (foldIn p 0 r.tag r.seq r.obj ++ body))) false s.sys.now (s.sys.accepted + 1)
            .queued none 0 0 []] }))) ∧
      (s.linkOk r.obj = false → ∃ t, exec (.cmdq p fseq b) s = .next t ∧
        t.completions = s.completions ++ [Completion.mk r op false stE_STATE [] s.sys.now] ∧
        (t.port p).slots.length = (s.port p).slots.length + 1 ∧ (t.port p).cmdBuf = [] ∧ t.chans = s.chans ∧
        t.holms = s.holms) ∧
      (∀ bad : BitVec 32, bad.toNat ≠ crc32c (foldIn p 0 r.tag r.seq r.obj ++ body) →
        ∃ t, exec (.cmdq p fseq (body ++ le32 bad.toNat)) s = .next t ∧ (t.port p).slots = (s.port p).slots ∧
          RspRec.mk 1 (record p op stE_CRC r.seq r.tag r.obj 1 0 s.sys.now 0 0 []) 0 true ∈ (t.port p).rsp ∧
          (t.port p).cmdBuf = [] ∧ t.chans = s.chans ∧ t.sys = s.sys)

/-- Daisy-chain slots (R297 to R299) and chain frames (R274). -/
def Obligations.DaisyChainSlotsApplyOrAreRejected : Prop :=
  ∀ (p : Port) (sq : Byte) (s : State), s.sys.image.length = 32 →
    let latched (sdo : List Byte) (q : PortSt) : PortSt :=
      { q with slotSeq := sq, lastRej := false, refused := false, frm := false, wdAt := s.sys.now, wdExpired := false, sdo := sdo }
    (∀ fseq : BitVec 4, s.framed p → ∃ sdo, exec (.chainFrame p fseq [0, 0, 0, 0, 0, 0, sq]) s = .next (s.setPort p (fun q =>
        { q.judged fseq s.sys.now sdo with slotSeq := sq, lastRej := false, refused := false })) ∧
      ∀ i : Fin 7, sdo.getD (12 + i.val) 0 = byteAt (replySlot s p true) i.val) ∧
    (s.chained p →
      (∃ sdo, exec (.exchange p sq) s = .next (s.setPort p (latched sdo)) ∧
        sdo = replySlot s p true ++ [BitVec.ofNat 8 (crc8 0xFF (replySlot s p true))]) ∧
      (∃ sdo, exec (.exit p sq) s = .next (s.setPort p (fun q => { latched sdo q with chen := false }))) ∧
      (∀ (edges : Nat) (l : List Byte), edges % 64 ≠ 0 → ∃ t, exec (.slotRejected p edges l) s = .next t ∧
        (t.port p).lastRej = true ∧ (t.port p).frm = true ∧ (t.port p).slotSeq = (s.port p).slotSeq ∧
        (t.port p).chen = true ∧ (t.port p).wdAt = (s.port p).wdAt ∧ t.chans = s.chans ∧ t.holms = s.holms) ∧
      ∀ c : Ch, let mask := BitVec.ofNat 16 (2 ^ c.val); let n := BitVec.ofNat 8 (s.sys.accepted + 1)
        (bit (s.port p).outen c.val = false → ∃ sdo, ∀ w : BitVec 16, exec (.output p w mask sq) s =
          .next (s.setPort p (fun q => { latched sdo q with refused := true }))) ∧
        (bit (s.port p).outen c.val = true → (s.ch c).owner = some p → (s.ch c).paired = false →
          (∀ q : Port, ∀ x ∈ (s.port q).slots, x.req.obj ≠ chObj c) → (s.port p).full = false →
          ((s.ch c).mode.isSwitch = true → Ready 0x0301 (chainReq p n c (setPayload false)) s → (s.govern c).1 = 5 →
            (s.ch c).l5 = .on →
            s.quietRates (bankOf c) = [] → s.badger.heads = [] →
            ∃ t, exec (.output p 0 mask sq) s = .next t ∧ (t.port p).slotSeq = sq ∧
              Completion.mk (chainReq p n c (setPayload false)) 0x0301 true stOK [] s.sys.now ∈ t.completions ∧
              (t.ch c).l5 = .off ∧ (t.ch c).conducting = false ∧ ∀ d : Ch, d ≠ c → t.ch d = s.ch d) ∧
          (∀ k : BitVec 2, let g := { (s.ch c).sw.pgen with duty := (s.port p).pset k.toNat }
            (s.ch c).mode = .dop → (s.ch c).l5 = .off → Ready 0x0306 (chainReq p n c (pgenPayload g)) s →
            (∀ x ∈ s.completions, x.req.obj ≠ chObj c) → 2458 ≤ g.period.toNat → g.period.toNat ≤ 245760000 →
            tbAvailable s c g.period = true →
            ∃ t, exec (.outputWithPulseSet p 0 mask k sq) s = .next t ∧ (t.port p).slotSeq = sq ∧
              (t.port p).refused = false ∧ (t.ch c).l5 = .off ∧
              (t.ch c).sw.pgen.duty = (s.port p).pset k.toNat ∧
              (t.ch c).sw.pgen.period = (s.ch c).sw.pgen.period)))

/-- The Badger's tick (R226), deadlines (R232, R318), completions (R305), the ceiling (R220) and EV205 (R242). -/
def Obligations.BadgerTicksDeadlinesCompletionsAndCeiling : Prop :=
  ∀ s : State, s.sys.vddOk = true →
    (s.sys.now / 100000 = s.badger.tickAt / 100000 → exec .badgerEvaluation s = .next s) ∧
    (s.coreDown 6 = false → s.badger.heads = [] → s.sys.now / 100000 ≠ s.badger.tickAt / 100000 →
      ∃ t, exec .badgerEvaluation s = .next t ∧
      t.badger.meters = s.badger.meters.map Meter.read ∧ t.badger.admitted = s.badger.admitted.filter s.stillDue ∧
      t.badger.stagger = [] ∧ t.badger.heads = [] ∧ t.badger.report.take 2 = le16 s.badger.ceiling ∧
      t.badger.ceiling = s.badger.ceiling ∧ t.chans = s.chans ∧ t.holms = s.holms ∧ t.completions = s.completions) ∧
    (∀ (p : Port) (tag : BitVec 16) (h : Head) (r : Req) (d : Nat), s.headOf p tag = some h → h.req = some r →
      h.deadline = some d →
      (d ≤ s.sys.now → h.deferred = true → ∃ t, exec (.deadlineExpiry p tag) s = .next t ∧
        Completion.mk r h.opcode (r.tag == 0) stE_BUDGET [] s.sys.now ∈ t.completions ∧
        t.badger.heads = s.badger.heads.filter (fun x => !x.same h) ∧ t.latched 197 ∧ t.chans = s.chans ∧
        t.holms = s.holms) ∧
      (s.sys.now < d → exec (.deadlineExpiry p tag) s = .next s)) ∧
    (∀ (p : Port) (tag : BitVec 16) (sl : Slot), (s.port p).held tag = some sl → sl.st = .queued →
      (sl.req.deadline ≠ 0 → sl.takenAt + 10000 * sl.req.deadline.toNat ≤ s.sys.now →
        ∃ t, exec (.queueDeadlineExpiry p tag) s = .next t ∧
          t.completions = s.completions ++ [Completion.mk sl.req sl.opcode (sl.req.tag == 0) stE_TIMEOUT [] s.sys.now] ∧
          t.chans = s.chans ∧ t.holms = s.holms ∧ t.badger = s.badger) ∧
      (s.sys.now < sl.takenAt + 10000 * sl.req.deadline.toNat → exec (.queueDeadlineExpiry p tag) s = .next s)) ∧
    (∀ (x : Completion) (sl : Slot), s.completions = [x] → x.chain = false → x.req.tag ≠ 0 → x.tdone ≤ s.sys.now →
      s.coreDown (portCore x.req.port) = false → s.coreServes x.opcode = true → sl ∈ (s.port x.req.port).slots → sl.req.tag = x.req.tag →
      sl.opcode = x.opcode → sl.st = .executing →
      ∃ t, exec .operationCompletion s = .next t ∧ t.completions = [] ∧
        (∀ y ∈ (t.port x.req.port).slots, y.req.tag = x.req.tag → y.st = .completed ∧ y.status = x.status) ∧
        (t.port x.req.port).slots.length = (s.port x.req.port).slots.length ∧ t.chans = s.chans ∧ t.holms = s.holms) ∧
    (s.coreDown 6 = false → s.sys.now / 10000000 ≠ s.badger.ceilAt / 10000000 → ∃ t, exec .ceilingRecomputation s = .next t ∧
      t.badger.ceiling = s.ceilingNow ∧ t.badger.ceilAt = s.sys.now ∧
      (s.badger.ceiling + 50 < s.ceilingNow ∨ s.ceilingNow + 50 < s.badger.ceiling → t.latched 204) ∧ t.chans = s.chans ∧ t.holms = s.holms ∧ t.sys = s.sys) ∧
    (s.sys.now / 10000000 = s.badger.ceilAt / 10000000 → exec .ceilingRecomputation s = .next s) ∧
    ∀ (code : BitVec 8) (c : Ch) (t0 : Nat), s.coreDown 6 = false →
      (1 ≤ code.toNat ∧ code.toNat ≤ 5 ∨ code = 8 ∨ (code = 6 ∨ code = 7) ∧ (s.ch c).mode.isSwitch = true) →
      let k : Byte := if code = 6 ∨ code = 7 then BitVec.ofNat 8 c.val else 0xFF
      s.badger.excess.find? (fun x => x.1 == code && x.2.1 == k) = some (code, k, some t0) →
      (t0 + 10000000 ≤ s.sys.now → ∃ t, exec (.ledgerExcess code c) s = .next t ∧ t.latched 205 ∧
        t.badger.excess.find? (fun x => x.1 == code && x.2.1 == k) = some (code, k, none) ∧ t.chans = s.chans ∧
        t.holms = s.holms) ∧
      (s.sys.now < t0 + 10000000 → exec (.ledgerExcess code c) s = .next s)

/-- Shedding (R235), its end (R236) and restores (R252); that the alarm returns with the current is log entry 157. -/
def Obligations.SheddingTurnsOffByClassAndRestores : Prop :=
  ∀ (s : State) (b : Bank) (x : SupplyRead) (vf : Int), (∀ c : Ch, (s.ch c).acts = []) →
    (s.canShed b = true → (s.holm b).up = true → s.sys.internal.length < 32 → vf ≤ 18000 → x.vf ≤ 18000 → 10000 ≤ x.held →
      ((s.holm b).shed = false → ∃ t, exec (.shedState b x) s = .next t ∧ (t.holm b).shed = true ∧
        (∀ c ∈ shedList s b, (t.ch c).l5 = deenergised (s.ch c).mode ∧ (t.ch c).presag.isSome = true) ∧
        (shedList s b ≠ [] → t.latched (198 + b.val)) ∧ ∀ c : Ch, bankOf c ≠ b → t.ch c = s.ch c) ∧
      ((s.holm b).shed = true → ((s.holm b).shedLow = 8 ∨ (s.holm b).shedAt + 200000 ≤ s.sys.now) → ∃ t, exec (.shedStep b vf) s = .next t ∧
        (t.holm b).shed = true ∧ (t.holm b).shedAt = s.sys.now ∧
        (∀ c ∈ shedList s b, (t.ch c).l5 = deenergised (s.ch c).mode ∧ (t.ch c).presag.isSome = true) ∧
        ∀ c : Ch, bankOf c ≠ b → t.ch c = s.ch c) ∧
      ((s.holm b).shed = true → (s.holm b).shedLow ≠ 8 → s.sys.now < (s.holm b).shedAt + 200000 → exec (.shedStep b vf) s = .next s)) ∧
    (s.canShed b = false → (s.holm b).up = true → (s.holm b).shed = false → x.vf ≤ 18000 → 10000 ≤ x.held →
      ∃ t, exec (.shedState b x) s = .next t ∧ (t.holm b).shed = true ∧ t.chans = s.chans) ∧
    (18000 < x.vf ∨ x.held < 10000 → exec (.shedState b x) s = .next s) ∧ (18000 < vf → exec (.shedStep b vf) s = .next s) ∧
    (s.canShed b = true → (s.holm b).up = true → (s.holm b).shed = true → (s.holm b).uv = false →
      (19200 ≤ x.vf → 1000000 ≤ x.held → s.badger.heads = [] → (∀ c : Ch, (s.ch c).presag = none) →
        ∃ t, exec (.shedStateEnd b x) s = .next t ∧ (t.holm b).shed = false ∧ t.latched (200 + b.val) ∧
          ∀ c : Ch, (t.ch c).l5 = (s.ch c).l5 ∧ (t.ch c).out = (s.ch c).out ∧ (t.ch c).mode = (s.ch c).mode) ∧
      (x.vf < 19200 ∨ x.held < 1000000 → exec (.shedStateEnd b x) s = .next s)) ∧
    ∀ (c : Ch) (d : Demand), (s.ch c).restore = .admitted → (s.ch c).presag = some d → (s.ch c).paired = false →
      (s.ch c).mode.isOutput = true → (s.ch c).loop.session = .none → (s.ch c).parked = false →
      ∃ t, exec (.restore c) s = .next t ∧ (t.ch c).restore = .none ∧ (t.ch c).presag = none ∧
        (t.ch c).l5 = normDemand (s.ch c).mode d ∧ t.settled c ∧
        (t.ch c).loop.alarm = (s.ch c).loop.sagAlarm.isSome ∧ (t.ch c).loop.fallback = (s.ch c).loop.sagAlarm.getD false ∧
        t.sys.internal = s.sys.internal.erase (.restore c) ∧
        ∀ d : Ch, d ≠ c → t.ch d = s.ch d

/-- WARNING, UNDERVOLTAGE, SURGE, GROUND_LOSS and SUPPLY_STATE_EXIT (R244 to R251). -/
def Obligations.SupplyFaultsLockOutputsAndRelease : Prop :=
  ∀ (s : State) (b : Bank) (x : SupplyRead), (s.holm b).up = true → (s.holm b).restarted = false →
    let lockedOut (t : State) (c : Ch) : Prop :=
      (t.ch c).level = 1 ∧ (t.ch c).out = deenergised (s.ch c).mode ∧ (t.ch c).presag.isSome = true ∧
        (t.ch c).mode = (s.ch c).mode
    let offNow (c : Ch) : Demand := if (s.ch c).parked then .cur 4000000 else deenergised (s.ch c).mode
    ((19200 ≤ x.vf ∨ x.held < 10000 → exec (.warning b x) s = .next s) ∧
      (16000 ≤ x.vf ∨ x.held < 1000 → exec (.undervoltage b x) s = .next s) ∧
      (x.vf ≤ 36000 ∨ x.held < 100 → exec (.surge b x) s = .next s) ∧
      (x.gnd ≤ 2500 ∨ x.held < 200 → exec (.groundLoss b x) s = .next s)) ∧
    (x.vf < 19200 → 10000 ≤ x.held → ∃ t, exec (.warning b x) s = .next t ∧ (t.holm b).warn = true ∧ t.chans = s.chans) ∧
    ((s.holm b).uv = false → x.vf < 16000 → 1000 ≤ x.held → ∃ t, exec (.undervoltage b x) s = .next t ∧ (t.holm b).uv = true ∧
      (t.holm b).warn = true ∧ (∀ c : Ch, bankOf c ≠ b → t.ch c = s.ch c) ∧
      ∀ c : Ch, bankOf c = b → (s.ch c).mode.isOutput = true → s.uvhold c = false →
        (t.ch c).locks.supUv = true ∧ lockedOut t c) ∧
    ((s.holm b).surge = false → 36000 < x.vf → 100 ≤ x.held → ∃ t, exec (.surge b x) s = .next t ∧ (t.holm b).surge = true ∧
      (∀ c : Ch, bankOf c ≠ b → t.ch c = s.ch c) ∧
      ∀ c : Ch, bankOf c = b → (s.ch c).mode.isOutput = true → (t.ch c).locks.supSurge = true ∧ lockedOut t c) ∧
    ((s.holm b).gnd = false → 2500 < x.gnd → 200 ≤ x.held → ∃ t, exec (.groundLoss b x) s = .next t ∧ (t.holm b).gnd = true ∧
      (∀ c : Ch, bankOf c ≠ b → t.ch c = s.ch c) ∧
      ∀ c : Ch, bankOf c = b → (s.ch c).mode.isOutput = true → (t.ch c).locks.supGnd = true ∧ lockedOut t c) ∧
    (s.badger.heads = [] → (∀ c : Ch, (s.ch c).acts = []) →
      ((s.holm b).surge = true → x.vf ≤ 33000 → 100000 ≤ x.held → ∃ t, exec (.supplyStateExit b .surge x) s = .next t ∧
        (t.holm b).surge = false ∧ ∀ c : Ch, bankOf c = b → (s.ch c).locks.supSurge = true →
          (t.ch c).locks = { (s.ch c).locks with supSurge := false } ∧
          (t.ch c).l5 = offNow c) ∧
      ((s.holm b).gnd = true → x.gnd < 1000 → 1000000 ≤ x.held → ∃ t, exec (.supplyStateExit b .groundLoss x) s = .next t ∧
        (t.holm b).gnd = false ∧ ∀ c : Ch, bankOf c = b → (s.ch c).locks.supGnd = true →
          (t.ch c).locks = { (s.ch c).locks with supGnd := false } ∧
          (t.ch c).l5 = offNow c) ∧
      ((s.holm b).uv = true → 19200 ≤ x.vf → 1000000 ≤ x.held → ∃ t, exec (.supplyStateExit b .undervoltage x) s = .next t ∧
        (t.holm b).uv = false ∧ (t.holm b).warn = false ∧ ∀ c : Ch, bankOf c = b → (s.ch c).locks.supUv = true →
          (t.ch c).locks = { (s.ch c).locks with supUv := false } ∧
          (t.ch c).l5 = offNow c) ∧
      ((s.holm b).warn = true → (s.holm b).uv = false → (s.holm b).shed = false →
        (19200 ≤ x.vf → 1000000 ≤ x.held → ∃ t, exec (.supplyStateExit b .warning x) s = .next t ∧
          (t.holm b).warn = false ∧ ((s.holm b).link = true → s.sys.vddOk = true → t.latched (128 + 16 * b.val)) ∧
          ∀ c : Ch, (t.ch c).locks = (s.ch c).locks ∧ (t.ch c).l5 = (s.ch c).l5 ∧ (t.ch c).out = (s.ch c).out ∧
            (t.ch c).level = (s.ch c).level ∧ (t.ch c).mode = (s.ch c).mode) ∧
        (x.vf < 19200 ∨ x.held < 1000000 → exec (.supplyStateExit b .warning x) s = .next s)))

/-- HOLM_LOCKOUT (R248), REVERSE (R249) and HOLM_RESTART (R267). That locks, held actions and a mode change under way are lost in
lockout is the model's choice (log entry 39). -/
def Obligations.LockoutStopsAHolmAndRestartKeepsItOff : Prop :=
  ∀ (s : State) (b : Bank),
    let stopped (rev : Bool) (t : State) : Prop :=
      (t.holm b).up = false ∧ (t.holm b).restarted = true ∧ (t.holm b).reversed = rev ∧ (t.holm b).pend = none ∧
      (t.holm b).burEn = false ∧ (∀ c : Ch, bankOf c ≠ b → t.ch c = s.ch c) ∧
      ∀ c : Ch, bankOf c = b → (t.ch c).out = .off ∧ (t.ch c).conducting = false ∧ (t.ch c).level = 0 ∧
        t.modeNow c = .off ∧ (t.ch c).locks = .none ∧ (t.ch c).mode = (s.ch c).mode ∧ (t.ch c).owner = (s.ch c).owner ∧
        (t.ch c).acts = [] ∧ (t.ch c).brg.exOn = false ∧
        ((s.ch c).mode.isOutput = true → (s.ch c).presag = none → (t.ch c).presag = some (s.ch c).l5)
    ((s.holm b).up = true →
      (∀ vf : Int, vf < 10000 → ∃ t, exec (.holmLockout b vf) s = .next t ∧ stopped false t) ∧
      (∀ vf : Int, 10000 ≤ vf → exec (.holmLockout b vf) s = .next s) ∧
      ∃ t, exec (.reverse b) s = .next t ∧ stopped true t) ∧
    ((s.holm b).up = false → ∃ t, exec (.reverse b) s = .next t ∧ (t.holm b).reversed = true ∧ (t.holm b).up = false ∧
      t.chans = s.chans) ∧
    ((s.holm b).up = false → ∀ (pin : StrapPin) (x : RestartRead), x.vf ≤ 11000 → exec (.holmRestart b pin x) s = .next s) ∧
    ((s.holm b).up = false → ∀ (pin : StrapPin) (x : RestartRead), 11000 < x.vf → ∃ t, exec (.holmRestart b pin x) s = .next t ∧
      (t.holm b).up = true ∧ (t.holm b).slave = 0 ∧ (t.holm b).tunc = true ∧ (t.holm b).noBeacon = true ∧
      (t.holm b).strap = strapOf pin ∧ (t.holm b).case = x.case ∧ (t.holm b).vf = x.vf ∧ (t.holm b).link = (s.holm b).link ∧
      (∀ c : Ch, bankOf c ≠ b → t.ch c = s.ch c) ∧
      ∀ c : Ch, bankOf c = b → t.modeNow c = .off ∧ (t.ch c).out = .off ∧ (t.ch c).conducting = false ∧
        (t.ch c).level = 0 ∧ (t.ch c).mode = (s.ch c).mode ∧ (t.ch c).owner = (s.ch c).owner ∧
        (t.ch c).sw.tj = x.case ∧ (t.ch c).sw.theta =
          if (s.holm b).caseFault then (if s.sys.order = 1 then 105 else 85) * 1000000000000 else x.case * 62500000000)

/-- LINK_LOSS, LINK_ESTABLISHMENT, HOLD_T_EXPIRY and PORT_WATCHDOG_EXPIRY (R25, R29, R30, R254 to R259); the two lanes of a link are
log entry 151. -/
def Obligations.HostLossHoldsThenTakesTheSafeState : Prop :=
  ∀ s : State,
    let held3 (b : Bank) (t : State) : Prop := ∀ c : Ch, bankOf c = b → (s.ch c).mode.isOutput = true → (s.ch c).l3 = none →
      let k := (s.holm b).holdT.toNat
      let held := if (s.ch c).mode.isLoopOut then .cur ((s.ch c).rampNow s.sys.now) else (s.ch c).out
      (t.ch c).l3 = some (HostLoss.mk held
        (if k = 0xFFFF ∨ k = 0 then none else some (s.sys.raw + 10000 * k)) (decide (k = 0)) held)
    (∀ b : Bank, (s.holm b).link = true → (s.holm b).deaf = false →
      (∃ t, exec (.linkLoss ⟨b, true, true⟩) s = .next t ∧ (t.holm b).link = false ∧ (t.holm b).deaf = true ∧
        (s.sys.vddOk = true → t.latched (128 + 16 * b.val + 1)) ∧ (∀ c : Ch, bankOf c ≠ b → t.ch c = s.ch c) ∧ held3 b t) ∧
      (∃ t, exec (.linkLoss ⟨b, true, false⟩) s = .next t ∧ (t.holm b).link = true ∧ (t.holm b).deaf = true ∧
        (∀ c : Ch, bankOf c ≠ b → t.ch c = s.ch c) ∧ held3 b t) ∧
      (∃ t, exec (.linkLoss ⟨b, false, true⟩) s = .next t ∧ (t.holm b).link = false ∧ (t.holm b).deaf = false ∧
        (s.sys.vddOk = true → t.latched (128 + 16 * b.val + 1)) ∧
        ∀ c : Ch, (t.ch c).l3 = (s.ch c).l3 ∧ (t.ch c).out = (s.ch c).out ∧ (t.ch c).level = (s.ch c).level ∧
          (t.ch c).mode = (s.ch c).mode)) ∧
    (∀ (b : Bank) (down up : Bool), (up = true → (s.holm b).link = false) → (down = true → (s.holm b).deaf = true) →
      exec (.linkLoss ⟨b, down, up⟩) s = .next s) ∧
    (∀ b : Bank, s.whole b = false → (s.holm b).up = true → s.sys.vddOk = true →
      s.sys.internal.length < 32 → ∃ t, exec (.linkEstablishment b) s = .next t ∧ (t.holm b).link = true ∧
        (t.holm b).deaf = false ∧ (t.holm b).restarted = false ∧
        (t.holm b).beacons = (if (s.holm b).lostAt + 500000 < s.sys.now ∨ (s.holm b).restarted = true then 0
          else (s.holm b).beacons) ∧
        (t.holm b).held = [] ∧ (t.holm b).notices = [] ∧
        ((s.holm b).link = false → t.latched (128 + 16 * b.val + 1)) ∧
        ((s.holm b).restarted = false → ∀ x ∈ (s.holm b).held, x ∈ t.completions)) ∧
    (∀ (c : Ch) (h : HostLoss) (d : Nat), (s.ch c).l3 = some h → h.due = some d → h.safe = false →
      (d ≤ s.sys.raw → (s.ch c).paired = false → s.holmLive (bankOf c) = true → (s.ch c).mode.isOutput = true →
        ∃ t, exec (.holdTExpiry c) s = .next t ∧ (t.ch c).l3 = some { h with safe := true, atEnd := s.stateNow c } ∧ t.settled c ∧
          ∀ e : Ch, e ≠ c → t.ch e = s.ch e) ∧
      (s.sys.raw < d → exec (.holdTExpiry c) s = .next s)) ∧
    ∀ p : Port, (s.wdDue p = true → ∃ t, exec (.portWatchdogExpiry p) s = .next t ∧ (t.port p).wdExpired = true ∧
        t.latched (162 + 8 * p.val) ∧
        (∀ c : Ch, (s.ch c).owner = some p → (s.ch c).mode.isOutput = true → (t.ch c).l3.isSome = true) ∧
        ∀ c : Ch, (s.ch c).owner ≠ some p → (t.ch c).l3 = (s.ch c).l3 ∧ (t.ch c).mode = (s.ch c).mode) ∧
      ((s.port p).wdt = 0 → exec (.portWatchdogExpiry p) s = .next s)

/-- TIME_BEACON, TIME_UNCERTAIN, TSYNC_EDGE, CROSS_HOLM_RELAY, BUR_EN, BUR_IN and SEAL (R23 to R27, R32, R33, R262, R332,
R431). The course of a
slew is log entry 105, the slave copy's rate log entry 2, the frames of a beacon log entry 98: the model's choices. -/
def Obligations.BeaconsTsyncRelayBurrowAndSeal : Prop :=
  ∀ s : State, s.sys.vddOk = true →
    (∀ (b : Bank) (osc delayNs : Nat), s.whole b = true → (s.holm b).up = true →
      ∃ t, exec (.timeBeacon b ⟨osc, delayNs⟩) s = .next t ∧ (t.holm b).rate = s.sys.slew.sign ∧
      (t.holm b).beacons = (s.holm b).beacons + 1 ∧ (t.holm b).noBeacon = false ∧ t.sys.now = s.sys.now ∧
      (let k := if 20 ≤ (s.holm b).beacons + 1 then 1 else 50
       s.sys.now ≤ (t.holm b).slave + k ∧ (t.holm b).slave ≤ s.sys.now + k) ∧
      (20 ≤ (s.holm b).beacons + 1 → (t.holm b).tunc = false) ∧
      (s.sys.tstepHolms.contains b = false → t.chans = s.chans)) ∧
    (∀ b : Bank, (s.holm b).up = true → (s.holm b).tunc = false → (s.holm b).lastBeacon + 500000 ≤ (s.holm b).slave →
      ∃ t, exec (.timeUncertain b) s = .next t ∧ (t.holm b).tunc = true ∧ (t.holm b).slave = (s.holm b).slave ∧
        t.chans = s.chans) ∧
    (∀ ns : Nat, 1000 ≤ ns → (∀ t0, s.sys.tsyncLast = some t0 → t0 + 1000 ≤ s.sys.now) → s.sys.tsyncMode ≠ 0 → ∃ t, exec (.tsyncEdge ns) s = .next t ∧
      t.latched 250 ∧ t.sys.tsyncCapture = BitVec.ofNat 64 s.sys.now ∧
      (∀ c : Ch, (t.ch c).out = (s.ch c).out ∧ (t.ch c).level = (s.ch c).level) ∧
      (∀ p : Port, s.wdDue p = t.wdDue p) ∧
      (s.sys.tsyncMode = 1 → t.sys.now = s.sys.now ∧ t.sys.slew = s.sys.slew ∧ t.chans = s.chans) ∧
      (s.sys.tsyncMode = 2 → s.sys.tsyncTarget ≠ 0 → t.sys.tsyncTarget = 0 ∧
        let g := s.sys.tsyncTarget.toNat
        (s.sys.now + 10000 < g → t.sys.now = g ∧ t.sys.slew = 0) ∧
        (g + 10000 < s.sys.now → t.sys.now = s.sys.now ∧ t.sys.slew = s.sys.slew ∧ t.latched 251) ∧
        (g = s.sys.now → t.sys.now = s.sys.now ∧ t.sys.slew = s.sys.slew) ∧
        (g ≠ s.sys.now → g ≤ s.sys.now + 10000 → s.sys.now ≤ g + 10000 →
          t.sys.now = s.sys.now ∧ t.sys.slew = (g : Int) - s.sys.now))) ∧
    (∀ ns : Nat, ns < 1000 ∨ s.sys.tsyncMode = 0 ∨ (∃ t0, s.sys.tsyncLast = some t0 ∧ s.sys.now < t0 + 1000) →
      exec (.tsyncEdge ns) s = .next s) ∧
    (∀ (src : Bank) (m : ActMsg) (rest : List ActMsg), (s.holm src).relay = m :: rest →
      let through : Prop := s.whole src = true ∧ s.whole (bankOf m.tgt) = true
      ∃ t, exec (.crossHolmRelay src) s = .next t ∧ (t.holm src).relay = rest ∧ t.chans = s.chans ∧
        (through → (t.holm (bankOf m.tgt)).bus = (s.holm (bankOf m.tgt)).bus ++ [m]) ∧
        (¬through → (∃ x ∈ (s.holm (bankOf m.src)).bus, x.src = m.src) →
          (t.holm (bankOf m.src)).bus = (s.holm (bankOf m.src)).bus ++ [{ m with note := some 5 }]) ∧
        (¬through → (∀ x ∈ (s.holm (bankOf m.src)).bus, x.src ≠ m.src) → ∀ b : Bank, (t.holm b).bus = (s.holm b).bus)) ∧
    (∀ b : Bank, (s.holm b).up = true → (s.holm b).restarted = false →
      let burrowed (t : State) (c : Ch) : Prop := bankOf c = b → (s.ch c).paired = false → (s.ch c).mode.isOutput = true →
        (s.holm b).mapHere = true → bit (s.ch c).bmap.bflags 7 = true → (s.ch c).locks.any = false → (s.ch c).inBreak = false →
        (t.ch c).level = 2 ∧ (t.ch c).out = t.burDemand c
      (∀ x : PinRead, 50000 ≤ x.held →
        ((s.holm b).burEn = false → 9000 ≤ x.mv → ∃ t, exec (.burEn b x) s = .next t ∧ (t.holm b).burEn = true ∧
          ∀ c : Ch, burrowed t c) ∧
        ((s.holm b).burEn = true → x.mv ≤ 7500 → ∃ t, exec (.burEn b x) s = .next t ∧ (t.holm b).burEn = false ∧
          ∀ c : Ch, bankOf c = b → (t.ch c).level ≠ 2) ∧
        ∀ k : Fin 4, ∃ t, exec (.burIn b k x) s = .next t ∧
          (t.holm b).burIn[k] = (if 9000 ≤ x.mv then true else if x.mv ≤ 7500 then false else (s.holm b).burIn[k]) ∧
          ((s.holm b).burEn = true → ∀ c : Ch, burrowed t c)) ∧
      ∀ x : PinRead, x.held < 50000 → exec (.burEn b x) s = .next s) ∧
    (∀ x : PinHeld, x.held < 100000 → exec (.seal x) s = .next s) ∧
    (∀ (v : Bool) (n : Nat), s.sys.vio = true → 100000 ≤ n →
      (s.sys.order ≠ 2 → s.legal.sealRec = v → exec (.seal ⟨v, n⟩) s = .next { s with legal := { s.legal with sealed := v } }) ∧
      (s.sys.order ≠ 2 → s.legal.sealRec ≠ v → s.coreDown 7 = false → ∃ t, exec (.seal ⟨v, n⟩) s = .next t ∧ t.legal = { s.legal with sealed := v, sealRec := v } ∧
        t.den.lec = s.den.lec + 1 ∧ t.latched 186 ∧ t.chans = s.chans ∧ t.holms = s.holms) ∧
      (s.sys.order = 2 → exec (.seal ⟨v, n⟩) s = .next s))

/-- SAMPLE, ACTION and CHAINED_ARMING (R88, R106, R117, R121, R125, R126). That a latched excitation (R79) leaves its channel's
instants uncomputed, so that no comparator sees them, is the model's choice (log entry 49). -/
def Obligations.SamplesFeedComparatorsWhoseActionsTakeLevelFour : Prop :=
  ∀ (s : State) (c : Ch),
    (∀ (x : SampleIn) (y : Int), s.samples c = true → s.uncomputed c = false → SampleIn.senseBad x = false →
      (((s.ch c).filt.absorb (s.sampleEnd x)).run (s.ch c).front x.inputs).2.1 = some y →
      ((s.ch c).filt.absorb (s.sampleEnd x)).supp = 0 →
      let v := (outWord s.sys.freeCtr y).1
      ∃ t, exec (.sample c x) s = .next t ∧ (t.ch c).filt.seq = (s.ch c).filt.seq + 1 ∧ (t.ch c).filt.gap = false ∧
        (t.ch c).filt.lastTs = s.sampleStamp (bankOf c) x ∧ (t.ch c).filt.lastSeq = (s.ch c).filt.seq ∧
        (t.ch c).mode = (s.ch c).mode ∧ (∀ d : Ch, d ≠ c → t.ch d = s.ch d) ∧
        ∀ k : Fin 4, let h := (s.ch c).thr[k]
          h.st = .armed → h.src = 0 → h.sreq = false → h.dskip = false → h.ffire = false → h.falling = false →
            (h.level.toInt ≤ v → (t.ch c).thr[k].st = .fired ∧ (t.ch c).thr[k].lastFire = (s.ch c).filt.seq) ∧
            (v < h.level.toInt - h.hyst.toNat → (t.ch c).thr[k].st = .armed) ∧
            (t.ch c).thr[k].level = h.level ∧ (t.ch c).thr[k].ctrl = h.ctrl) ∧
    (∀ x : SampleIn, s.samples c = true → s.uncomputed c = true → ∃ t, exec (.sample c x) s = .next t ∧
      (t.ch c).filt.seq = (s.ch c).filt.seq + 1 ∧ (t.ch c).filt.gap = true ∧ (t.ch c).thr = (s.ch c).thr ∧
      (t.ch c).filt.lastTs = (s.ch c).filt.lastTs ∧ (t.ch c).filt.lastSeq = (s.ch c).filt.lastSeq ∧
      ∀ d : Ch, d ≠ c → t.ch d = s.ch d) ∧
    (∀ x : SampleIn, s.samples c = false → exec (.sample c x) s = .next s) ∧
    (∀ g : ActMsg, (s.holm (bankOf c)).bus.find? (fun a => a.tgt == c && a.note.isNone) = some g → (s.holm (bankOf c)).up = true →
      (s.holm (bankOf c)).restarted = false → (s.ch c).mode = .dout → (s.ch c).paired = false →
      (s.ch c).locks.any = false → s.burrowOn c = false → (s.ch c).l3 = none → (s.ch c).acts = [] →
      (s.ch c).moved = none → (s.ch c).changing = none → g.kind = .off → g.live = true →
      ∃ t, exec (.action c (ClampMeas.mk [])) s = .next t ∧ (t.ch c).level = 4 ∧ (t.ch c).out = .off ∧
        (t.ch c).l5 = .off ∧ (t.ch c).conducting = false ∧
        (t.ch c).acts = [ActHold.mk g.src g.idx .off g.ts true] ∧
        ((∀ a ∈ (s.holm (bankOf c)).bus, a.note = none ∧ (a.src = g.src → a.tgt = c)) →
          (t.holm (bankOf c)).bus = (s.holm (bankOf c)).bus.eraseP (fun a => a.tgt == c && a.note.isNone)) ∧
        ∀ d : Ch, d ≠ c → t.ch d = s.ch d) ∧
    ∀ (k : Fin 4) (due : Nat), (s.ch c).thr[k].st = .pending → (s.ch c).thr[k].timer = some due →
      (due ≤ s.sys.now → exec (.chainedArming c k) s = .next (s.setCh c (fun ch => { ch with
        thr := ch.thr.set k.val { ch.thr[k] with st := .armed, timer := none } k.isLt }))) ∧
      (s.sys.now < due → exec (.chainedArming c k) s = .next s)

/-- SWAP_BOUNDARY (R100), PLAN_EFFECT (R72, R73), MOVED_CHANGE (R213) and DATAPATH_RELOAD (R102). -/
def Obligations.BoundariesAndInstantsTakeEffect : Prop :=
  ∀ s : State,
    (∀ (c : Ch) (w : Swap), (s.ch c).filt.swap = some w →
      (s.samples c = true → s.swapDue c w = true → objBank w.req.obj = some (bankOf c) →
        (s.holm (bankOf c)).link = true →
        ∃ t d, exec (.swapBoundary c) s = .next t ∧
          Completion.mk w.req 0x0503 (w.req.tag == 0) stOK d s.sys.now ∈ t.completions ∧ (t.ch c).filt.swap = none ∧
          (t.ch c).filt.s1.activeB = ((s.ch c).filt.s1.activeB != bit w.smask 0) ∧
          (t.ch c).filt.s2.activeB = ((s.ch c).filt.s2.activeB != bit w.smask 1) ∧
          (t.ch c).filt.s3.activeB = ((s.ch c).filt.s3.activeB != bit w.smask 2) ∧
          (t.ch c).filt.mdiv = (if w.chw then w.mdiv else (s.ch c).filt.mdiv) ∧
          (t.ch c).filt.sdecm1 = (if w.chw then w.sdecm1 else (s.ch c).filt.sdecm1) ∧
          (t.ch c).filt.seq = (s.ch c).filt.seq ∧ (t.ch c).filt.settlePend = true ∧
          (t.ch c).filt.sinc = (if w.chw then .reset else (s.ch c).filt.sinc) ∧ ∀ d : Ch, d ≠ c → t.ch d = s.ch d) ∧
      (s.swapDue c w = false → exec (.swapBoundary c) s = .next s)) ∧
    (∀ (b : Bank) (p : PlanPend), (s.holm b).pend = some p →
      ((s.holm b).up = true → p.due ≤ s.sys.now → p.waiters = [] → ∃ t, exec (.planEffect b) s = .next t ∧
        (t.holm b).pend = none ∧ (∀ k : Fin 8, (t.ch (chAt b k)).brg.rate = p.rates.getD k.val none) ∧
        ((∃ k : Fin 8, (s.ch (chAt b k)).brg.rate ≠ p.rates.getD k.val none) →
          (t.holm b).planSeq = (s.holm b).planSeq + 1 ∧ (t.holm b).teff = p.due) ∧
        ((∀ k : Fin 8, (s.ch (chAt b k)).brg.rate = p.rates.getD k.val none) →
          (t.holm b).planSeq = (s.holm b).planSeq) ∧
        (∀ c : Ch, (t.ch c).mode = (s.ch c).mode ∧ (t.ch c).brg.meas = (s.ch c).brg.meas) ∧
        ∀ c : Ch, bankOf c ≠ b → t.ch c = s.ch c) ∧
      (s.sys.now < p.due → exec (.planEffect b) s = .next s)) ∧
    (∀ (c : Ch) (v : Moved) (m : ClampMeas), (s.ch c).moved = some v →
      (v.due ≤ s.sys.now → s.holmLive (bankOf c) = true → v.kind = .demand .off false → (s.ch c).mode = .dout →
        (s.ch c).paired = false → (s.govern c).1 = 5 → (s.ch c).l5 = .on → objBank v.req.obj = some (bankOf c) →
        (s.holm (bankOf c)).link = true →
        ∃ t, exec (.movedChange c m) s = .next t ∧
          Completion.mk v.req v.op (v.req.tag == 0) stOK [] s.sys.now ∈ t.completions ∧ (t.ch c).moved = none ∧
          (t.ch c).l5 = .off ∧ (t.ch c).conducting = false ∧ ∀ d : Ch, d ≠ c → t.ch d = s.ch d) ∧
      (s.sys.now < v.due → exec (.movedChange c m) s = .next s)) ∧
    ∀ b : Bank,
      ((s.holm b).reloadDp = true → (s.holm b).up = true → s.sys.failedEngines = [] →
        ∃ t, exec (.datapathReload b) s = .next t ∧ (t.holm b).reloadDp = false ∧
          (∀ c : Ch, bankOf c = b → (s.ch c).mode.usesFilter = true → (t.ch c).filt.s1.hist = [] ∧
            (t.ch c).filt.s2.hist = [] ∧ (t.ch c).filt.s3.hist = [] ∧ (t.ch c).filt.mdiv = (s.ch c).filt.mdiv ∧
            (t.ch c).filt.s1.activeB = (s.ch c).filt.s1.activeB) ∧
          ∀ c : Ch, bankOf c ≠ b ∨ (s.ch c).mode.usesFilter = false → t.ch c = s.ch c) ∧
      ((s.holm b).reloadDp = false → exec (.datapathReload b) s = .next s)

/-- DISTURBED_INPUT_EVENT, DIAGNOSTIC_REPORT, DIAGNOSTIC_CLEARANCE, EXCITATION_SHORT and EXCITATION_SUPPLY (R61, R77 to R81). -/
def Obligations.BridgeDiagnosticsReportAndClear : Prop :=
  ∀ (s : State) (c : Ch), (s.ch c).mode = .brg → (s.holm (bankOf c)).up = true → (s.holm (bankOf c)).restarted = false →
    (s.holm (bankOf c)).link = true → s.sys.vddOk = true →
    (let b := (s.ch c).brg
      let takes (d : Disturb) (n : Brg) (hit : Prop) : Prop := ∃ t, exec (.disturbedInputEvent c d) s = .next t ∧
        (t.ch c).brg = n ∧ (∀ e : Ch, e ≠ c → t.ch e = s.ch e) ∧
        (hit → (t.ch c).filt.later = (s.ch c).filt.later ++ [(s.sys.now, (s.ch c).chain.settleFull)]) ∧
        (¬ hit → (t.ch c).filt.later = (s.ch c).filt.later)
      (∀ sig sen : Bool, takes (.modLimit sig sen) { b with modLim := sig || sen } (b.modLim ≠ (sig || sen))) ∧
      (∀ ua ticks : Nat, (ua < 75000 → takes (.driverLimit ua ticks) { b with drvLim := false } (b.drvLim = true)) ∧
        (75000 ≤ ua → b.drvLim = true ∨ 200 ≤ s.unblanked c ticks →
          takes (.driverLimit ua ticks) { b with drvLim := true } (b.drvLim = false)) ∧
        (b.drvLim = false → s.unblanked c ticks < 200 → takes (.driverLimit ua ticks) b False) ∧
        ((s.ch c).carrierMode = false → s.unblanked c ticks = ticks)) ∧
      ∀ v : Int, (b.vsen = none → takes (.senseStep v) { b with vsen := some v } False) ∧
        ∀ last : Int, b.vsen = some last →
          takes (.senseStep v) { b with vsen := some v } (2 * last.natAbs < 100 * (v - last).natAbs)) ∧
    (∀ d : BrgDiag, (s.ch c).hasDiag d = true →
      ((s.ch c).brg.enabled d = true → (s.ch c).brg.rep d = false → s.heldFor c (diagBad d) 200000 = true →
        ∃ t, exec (.diagnosticReport c d) s = .next t ∧ (t.ch c).brg = (s.ch c).brg.setRep d true ∧
          t.latched (8 * c.val + (if d = .leakage then 4 else 3)) ∧ ∀ e : Ch, e ≠ c → t.ch e = s.ch e) ∧
      ((s.ch c).brg.enabled d = false ∨ (s.ch c).brg.rep d = true ∨ s.heldFor c (diagBad d) 200000 = false →
        exec (.diagnosticReport c d) s = .next s) ∧
      ((s.ch c).brg.rep d = true → s.heldFor c (diagSound d) 2000000 = true →
        ∃ t, exec (.diagnosticClearance c d) s = .next t ∧ (t.ch c).brg = (s.ch c).brg.setRep d false ∧
          t.latched (8 * c.val + (if d = .leakage then 4 else 3)) ∧ ∀ e : Ch, e ≠ c → t.ch e = s.ch e) ∧
      ((s.ch c).brg.rep d = false ∨ s.heldFor c (diagSound d) 2000000 = false →
        exec (.diagnosticClearance c d) s = .next s)) ∧
    (s.shorted c = true → s.heldFor c .excShort 2000 = true → ∃ t, exec (.excitationShort c) s = .next t ∧
      (t.ch c).brg.latch = true ∧ (t.ch c).brg.exOn = false ∧ (t.ch c).brg.shortNow = true ∧ (t.ch c).brg.iexc = 0 ∧
      (t.ch c).brg.meas = (s.ch c).brg.meas ∧ (t.ch c).filt.later.length = (s.ch c).filt.later.length + 1 ∧
      (t.ch c).mode = .brg ∧ t.latched (8 * c.val + 4) ∧ ∀ e : Ch, e ≠ c → t.ch e = s.ch e) ∧
    ((s.shorted c = true ↔ (s.ch c).brg.exOn = true ∧ (s.ch c).brg.latch = false ∧
      (75000 ≤ (s.ch c).brg.iexc ∨ 2 * (s.ch c).brg.vpn.natAbs < s.deliverable c)) ∧
      (s.shorted c = false ∨ s.heldFor c .excShort 2000 = false → exec (.excitationShort c) s = .next s)) ∧
    ∀ vx : Int, ∃ t, exec (.excitationSupply (bankOf c) vx) s = .next t ∧ (t.holm (bankOf c)).vx = vx ∧
      (t.holm (bankOf c)).vxLow = decide (vx < s.vxNeed (bankOf c)) ∧ t.chans = s.chans

/-- COMPLIANCE, ALARM_FALLBACK, READBACK_FAULT, LOOP_WIRE_BREAK, LOOP_SHORT and FOLD_BACK_RETRY (R139 to R144). -/
def Obligations.LoopDiagnosticsAndFallback : Prop :=
  ∀ (s : State) (c : Ch), (s.holm (bankOf c)).up = true → (s.holm (bankOf c)).restarted = false →
    (s.ch c).paired = false → (s.ch c).acts = [] → (s.ch c).parked = false →
    let b := bankOf c
    let k := posOf c
    let others (t : State) : Prop := ∀ d : Ch, d ≠ c → t.ch d = s.ch d
    let l := (s.ch c).loop
    let still (t : State) : Prop := (t.ch c).out = (s.ch c).out ∧ (t.ch c).l5 = (s.ch c).l5 ∧ others t
    ((s.ch c).mode = .aoi ∨ (s.ch c).mode = .aot →
      (l.compl = false → s.heldFor c .compBelow 100000 = true → ∃ t, exec (.compliance b k true) s = .next t ∧
        (t.ch c).loop = { l with compl := true, complAt := s.sys.raw } ∧ still t) ∧
      (s.heldFor c .compBelow 100000 = false → exec (.compliance b k true) s = .next s) ∧
      (l.compl = true → s.heldFor c .compNear 1000000 = true → ∃ t, exec (.compliance b k false) s = .next t ∧
        (t.ch c).loop = { l with compl := false } ∧ still t) ∧
      (s.heldFor c .compNear 1000000 = false → exec (.compliance b k false) s = .next s) ∧
      (l.alarm = true → l.session = .none → (s.ch c).highAlarm = true → l.fallback = false → l.compl = true → (s.ch c).level = 5 →
        (l.complAt + 500000 ≤ s.sys.raw → ∃ t, exec (.alarmFallback b k) s = .next t ∧ (t.ch c).loop.fallback = true ∧
          (t.ch c).loop.alarm = true ∧ (t.ch c).l5 = .cur ((s.ch c).alarmNa false) ∧ t.settled c ∧ others t) ∧
        (s.sys.raw < l.complAt + 500000 → exec (.alarmFallback b k) s = .next s)) ∧
      (l.alarm = false ∨ l.session ≠ .none ∨ (s.ch c).highAlarm = false → exec (.alarmFallback b k) s = .next s) ∧
      (l.readback = false → s.heldFor c .rbFault 500000 = true → ∃ t, exec (.readbackFault b k) s = .next t ∧
        (t.ch c).loop.readback = true ∧ others t ∧
        (bit l.word 9 = false → (t.ch c).l5 = (s.ch c).l5 ∧ (t.ch c).out = (s.ch c).out) ∧
        (bit l.word 9 = true → (t.ch c).l5 = .cur ((s.ch c).alarmNa (l.dirHigh && !l.fallback)) ∧
          (t.ch c).loop.alarm = true ∧ t.settled c)) ∧
      (s.heldFor c .rbFault 500000 = false → exec (.readbackFault b k) s = .next s)) ∧
    ((s.ch c).mode.isLoop = true →
      (l.wireBreak = false → s.heldFor c .breakOn 1000000 = true → ∃ t, exec (.loopWireBreak b k true) s = .next t ∧
        (t.ch c).loop = { l with wireBreak := true } ∧ still t) ∧
      (l.wireBreak = true → s.heldFor c .breakOff (if (s.ch c).mode = .aoi then 1000000 else 2000000) = true →
        exec (.loopWireBreak b k false) s = .next (s.setCh c (fun ch => { ch with loop := { ch.loop with wireBreak := false } })))) ∧
    ((s.ch c).mode = .aii ∨ (s.ch c).mode = .aip →
      (l.folded = false → l.short = false ∨ (s.ch c).mode = .aii → s.heldFor c .shortOn 1000000 = true →
        ∃ t, exec (.loopShort b k true) s = .next t ∧
          (t.ch c).loop = { l with short := true, folded := decide ((s.ch c).mode = .aii), foldAt := s.sys.raw } ∧ still t) ∧
      (l.short = true → s.heldFor c .shortOff 2000000 = true → exec (.loopShort b k false) s =
        .next (s.setCh c (fun ch => { ch with loop := { ch.loop with short := false } }))) ∧
      (s.heldFor c .shortOn 1000000 = false → exec (.loopShort b k true) s = .next s)) ∧
    ((s.ch c).mode = .aii → ∀ recovered : Bool,
      (l.folded = true → l.foldAt + 10000000 ≤ s.sys.raw → exec (.foldBackRetry c recovered) s =
        .next (s.setCh c (fun ch => { ch with loop := { ch.loop with folded := !recovered, foldAt := s.sys.raw } }))) ∧
      (l.folded = false ∨ s.sys.raw < l.foldAt + 10000000 → exec (.foldBackRetry c recovered) s = .next s))

/-- TRANSACTION, REPLY_TIMEOUT and MODEM_FRAME (R24, R150 to R157); the time of a failure's report is the model's choice (log entry 147). -/
def Obligations.ModemTransactionsRunRetryAndAreHeard : Prop :=
  ∀ (s : State) (c : Ch), s.modemUp c = true →
    let others (t : State) : Prop := ∀ d : Ch, d ≠ c → t.ch d = s.ch d
    ((s.ch c).master = true →
      (∀ (x : MdmTx) (rest : List MdmTx), (s.ch c).mdm.run = none → (s.ch c).mdm.txq = x :: rest →
        (s.ch c).mdm.quietAt ≤ s.sys.now →
        let f := mdmFrame x.preamb.toNat (x.body (mdmRole (s.ch c).mdm.word == 0))
        exec (.transaction c) s = .next (setMdm c (fun m => { m with
          txq := rest
          run := some (MdmRun.mk x 1 (s.sys.now + charTicks f.length) 0)
          sent := f
          sentAt := s.sys.raw }) s)) ∧
      (s.sys.now < (s.ch c).mdm.quietAt → exec (.transaction c) s = .next s) ∧
      (∀ r : MdmRun, (s.ch c).mdm.run = some r → r.lastReason = 0 →
        (r.endAt + (s.ch c).rt1 ≤ s.sys.now → r.attempts ≤ fld (s.ch c).mdm.word 15 12 →
          exec (.replyTimeout c) s = .next (setMdm c (fun m => { m with
            quietAt := max m.quietAt (s.sys.now + rt2)
            run := some { r with lastReason := 1 } }) s)) ∧
        (r.endAt + (s.ch c).rt1 ≤ s.sys.now → fld (s.ch c).mdm.word 15 12 < r.attempts → (s.ch c).mdm.rx.length < 8 →
          ∃ t, exec (.replyTimeout c) s = .next t ∧ (t.ch c).mdm.run = none ∧
            (t.ch c).mdm.rx = (s.ch c).mdm.rx ++
              [MdmEntry.mk 4 (BitVec.ofNat 8 (16 * r.attempts + 1)) r.tx.txn (s.stamp (bankOf c)) []] ∧
            t.latched (8 * c.val + 7) ∧ others t) ∧
        (s.sys.now < r.endAt + (s.ch c).rt1 → exec (.replyTimeout c) s = .next s) ∧
        ∀ f : MdmHeard, 120 ≤ f.level → f.carrierLost = false → MdmHeard.discarded f = false → fld (byteAt f.bytes 0) 2 0 = 6 →
          replyMatches r.tx (mdmRole (s.ch c).mdm.word == 0) f.bytes = true → (s.ch c).mdm.rx.length < 8 →
          ∃ t, exec (.modemFrame c f) s = .next t ∧ (t.ch c).mdm.run = none ∧
            (t.ch c).mdm.rx = (s.ch c).mdm.rx ++
              [MdmEntry.mk 1 (BitVec.ofNat 8 r.attempts) r.tx.txn (s.stampAgo (bankOf c) f.age) f.bytes.dropLast] ∧
            (t.ch c).mdm.quietAt = max (s.ch c).mdm.quietAt (s.sys.now - f.age + rt2) ∧ t.latched (8 * c.val + 7) ∧ others t)) ∧
    (∀ f : MdmHeard, f.level ≤ 80 → exec (.modemFrame c f) s = .next s) ∧
    ((s.ch c).master = false → ∀ f : MdmHeard, 120 ≤ f.level →
      (MdmHeard.discarded f = false → f.carrierLost = false → (s.ch c).mdm.accepts f.bytes = true →
        (s.ch c).mdm.rx.length < 8 →
        ∃ t, exec (.modemFrame c f) s = .next t ∧ (t.ch c).mdm.reqNum = (s.ch c).mdm.reqNum + 1 ∧
          (t.ch c).mdm.rx = (s.ch c).mdm.rx ++ [MdmEntry.mk 2 0 ((s.ch c).mdm.reqNum + 1) (s.stampAgo (bankOf c) f.age)
            f.bytes.dropLast] ∧
          (∃ q, (t.ch c).mdm.latest = some q ∧ q.num = (s.ch c).mdm.reqNum + 1 ∧
            q.endAt = s.sys.now - f.age) ∧ t.latched (8 * c.val + 7) ∧ others t) ∧
      (f.bad = true ∨ frameSound f.bytes = false ∨ f.carrierLost = true → exec (.modemFrame c f) s = .next s))

/-- EDGE, WIRE_BREAK, SENSOR_SUPPLY_OVERLOAD, FOLD_BACK_RETRY, COUNT and CAPTURE (R162, R167 to R173). That the counter of lost captures
stops at 65535 is the model's choice (log entry 51). -/
def Obligations.DigitalInputsFollowCountAndCapture : Prop :=
  ∀ (s : State) (c : Ch), (s.holm (bankOf c)).up = true → (s.holm (bankOf c)).restarted = false →
    let others (t : State) : Prop := ∀ d : Ch, d ≠ c → t.ch d = s.ch d
    let din := (s.ch c).din
    let ago (ticks : Nat) : Nat := s.stampAgo (bankOf c) ticks
    ((s.ch c).mode = .di →
      (∀ (vip : Int) (held : Nat), let lv := inputLevel din.word din.raw vip
        let new := lv != bit din.word 18
        let due : Prop := max (s.sys.raw - held) din.debFrom + 1000 * fld din.word 8 0 ≤ s.sys.raw
        (lv ≠ din.raw → 5 ≤ held → din.wireBreak = false → new ≠ din.state → due → ∃ t, exec (.edge c vip held) s = .next t ∧
          (t.ch c).din = { din with
            raw := lv
            rawSince := s.sys.raw - held
            state := new
            tsRise := if new then ago (min held s.sys.raw) else din.tsRise
            tsFall := if new then din.tsFall else ago (min held s.sys.raw) } ∧ others t) ∧
        (lv ≠ din.raw → 5 ≤ held → din.wireBreak = true ∨ ¬ due → exec (.edge c vip held) s =
          .next (s.setCh c (fun ch => { ch with din := { ch.din with raw := lv, rawSince := s.sys.raw - held } }))) ∧
        (lv = din.raw → new = din.state → exec (.edge c vip held) s = .next s)) ∧
      (bit din.word 19 = true →
        (din.wireBreak = false → s.heldFor c .sinkLow 100000 = true → ∃ t, exec (.wireBreak c true) s = .next t ∧
          (t.ch c).din = { din with wireBreak := true } ∧ others t) ∧
        (din.wireBreak = true → s.heldFor c .sinkHigh 500000 = true → ∃ t, exec (.wireBreak c false) s = .next t ∧
          (t.ch c).din = { din with wireBreak := false } ∧ others t)) ∧
      (bit din.word 19 = false ∨ s.heldFor c .sinkLow 100000 = false → exec (.wireBreak c true) s = .next s)) ∧
    ((s.ch c).mode = .di ∨ (s.ch c).mode = .cnt →
      ((s.ch c).ssup = true →
        (din.folded = false → s.heldFor c .supplyLimit 1000000 = true → ∃ t, exec (.sensorSupplyOverload c true) s = .next t ∧
          (t.ch c).din = { din with overload := true, folded := true, foldAt := s.sys.raw } ∧ others t) ∧
        (din.overload = true → s.heldFor c .supplyClear 2000000 = true → exec (.sensorSupplyOverload c false) s =
          .next (s.setCh c (fun ch => { ch with din := { ch.din with overload := false } })))) ∧
      ((s.ch c).ssup = false → ∀ on : Bool, exec (.sensorSupplyOverload c on) s = .next s) ∧
      ∀ recovered : Bool, din.folded = true → din.foldAt + 10000000 ≤ s.sys.raw → exec (.foldBackRetry c recovered) s =
        .next (s.setCh c (fun ch => { ch with din := { ch.din with folded := !recovered, foldAt := s.sys.raw } }))) ∧
    ((s.ch c).mode = .cnt →
      (∀ e g : PinEdge, din.raw = false → inputLevel din.word false e.mv = true →
        (glitchNs din.word ≤ e.widthNs → fld din.word 25 24 = 0 → fld din.word 23 22 ≠ 1 → exec (.count c e g) s =
          .next (s.setCh c (fun ch => { ch with din := { ch.din with
            raw := true
            state := true
            tsRise := ago (e.widthNs / 100)
            count := ch.din.count + 1
            ovf := ch.din.ovf || ch.din.count == 0xFFFFFFFF#32 } }))) ∧
        (glitchNs din.word ≤ e.widthNs → fld din.word 23 22 = 1 →
          (if glitchNs din.word ≤ g.widthNs then inputLevel din.word din.inLevel g.mv else din.inLevel) = bit din.word 21 →
          ∃ t, exec (.count c e g) s = .next t ∧ (t.ch c).din.raw = true ∧ (t.ch c).din.count = din.count ∧
            (t.ch c).din.inLevel = bit din.word 21 ∧ (t.ch c).din.ovf = din.ovf ∧ others t) ∧
        (e.widthNs < glitchNs din.word → exec (.count c e g) s = .next s)) ∧
      (∀ e : PinEdge, glitchNs din.word ≤ e.widthNs → din.inLevel = false → inputLevel din.word false e.mv = true →
        fld din.word 23 22 = 2 → bit din.word 21 = false →
        (din.caps.length < 4 → ∃ t, exec (.capture c e) s = .next t ∧
          (t.ch c).din = { din with inLevel := true, caps := din.caps ++ [(din.count, ago (e.widthNs / 100))] } ∧ others t) ∧
        (4 ≤ din.caps.length → ∃ t, exec (.capture c e) s = .next t ∧ (t.ch c).din.caps = din.caps ∧
          (t.ch c).din.count = din.count ∧
          (t.ch c).din.capLost.toNat = min 65535 (din.capLost.toNat + 1) ∧ others t)))

/-- WIRE_MODEL_TRIP, FUSE_TABLE_TRIP, THERMAL_HOLD, RESTART, THERMAL_LATCH, SENSING_FAULT, REVERSE_CURRENT_HOLD and its end
(R186 to R207). -/
def Obligations.SwitchProtectionLocksAndReleases : Prop :=
  ∀ (s : State) (c : Ch), (s.ch c).mode = .dout → (s.ch c).paired = false → (s.holm (bankOf c)).up = true →
    (s.holm (bankOf c)).restarted = false → (s.ch c).acts = [] →
    let b := bankOf c
    let k := posOf c
    let same (t : State) : Prop := (t.ch c).l5 = (s.ch c).l5 ∧ (t.ch c).mode = .dout ∧ ∀ d : Ch, d ≠ c → t.ch d = s.ch d
    let lockedBy (l : Locks) (t : State) : Prop :=
      (t.ch c).locks = l ∧ (t.ch c).level = 1 ∧ (t.ch c).out = .off ∧ (t.ch c).conducting = false ∧ same t
    ((s.ch c).locks.fuse = false →
      (bit (s.ch c).sw.wire 31 = false → thetaTrip (s.ch c).sw.wire ≤ (s.ch c).sw.theta →
        ∃ t, exec (.wireModelTrip c) s = .next t ∧ lockedBy { (s.ch c).locks with fuse := true } t) ∧
      (bit (s.ch c).sw.wire 31 = true → 2 ^ 48 ≤ (s.ch c).sw.fuseF →
        ∃ t, exec (.fuseTableTrip c) s = .next t ∧ lockedBy { (s.ch c).locks with fuse := true } t)) ∧
    (∀ dt : Int, (s.holm (bankOf c)).case + dt < 2800 → s.sensingFaulty c = false →
      (s.ch c).locks.thermHold = false → (s.ch c).conducting = true → (fld (s.ch c).sw.prot 22 16 : Int) * 16 < dt →
      ∃ t, exec (.thermalHold c dt) s = .next t ∧ lockedBy { (s.ch c).locks with thermHold := true } t) ∧
    (∀ dt : Int, (s.holm (bankOf c)).case + dt < 2800 → s.sensingFaulty c = false →
      (s.ch c).locks = { Locks.none with thermHold := true } → dt < ((fld (s.ch c).sw.prot 22 16 : Int) - 15) * 16 →
      (0 < s.restartsLeft c → ∃ t, exec (.restart c dt) s = .next t ∧ (t.ch c).locks = .none ∧
        (t.ch c).sw.restarts = s.sys.now :: (s.ch c).sw.restarts.take 15 ∧ t.settled c ∧ same t) ∧
      (s.restartsLeft c = 0 → ∃ t, exec (.restart c dt) s = .next t ∧
        lockedBy { Locks.none with thermLatch := true } t)) ∧
    (∀ tj dt : Int, 2800 ≤ tj → (s.ch c).locks.thermLatch = false → ∃ t, exec (.thermalLatch c tj dt) s = .next t ∧
      lockedBy { (s.ch c).locks with thermHold := false, thermLatch := true } t) ∧
    ((s.ch c).sw.junBad = true → s.sensingFaulty c = false → (s.ch c).locks = { Locks.none with thermHold := true } →
      (s.ch c).sw.tj < 2800 → ∃ t, exec (.sensingFault b k false) s = .next t ∧ (t.ch c).sw.sensFault = true ∧
        lockedBy { Locks.none with thermLatch := true } t) ∧
    ((s.ch c).sw.junBad = (s.ch c).sw.sensFault → exec (.sensingFault b k false) s = .next s) ∧
    (∀ vp : Int, ((s.holm (bankOf c)).vf + 100 < vp → (s.ch c).conducting = true → (s.ch c).locks.revHold = false →
        ∃ t, exec (.reverseCurrentHold c vp) s = .next t ∧ lockedBy { (s.ch c).locks with revHold := true } t) ∧
      ∀ held : Nat, (vp < (s.holm (bankOf c)).vf + 50 → 10000 ≤ held → (s.ch c).locks.revHold = true →
          ∃ t, exec (.reverseCurrentHoldEnd c (PinRead.mk vp held)) s = .next t ∧
            (t.ch c).locks = { (s.ch c).locks with revHold := false } ∧ t.settled c ∧ same t) ∧
        ((s.holm (bankOf c)).vf + 50 ≤ vp ∨ held < 10000 →
          exec (.reverseCurrentHoldEnd c (PinRead.mk vp held)) s = .next s))

/-- CURRENT_LIMIT, ON_STATE_OPEN_LOAD, OFF_STATE_OPEN_LOAD, SHORT_TO_SUPPLY, PULSE_EDGE, INRUSH_LEARNING, SEQUENCER_FAULT and
SEQUENCER_RELOAD_COMPLETE (R14, R189, R190, R201 to R206). The instants of pulse edges are log entry 52, and the word that a parity fault
marks is log entry 84. -/
def Obligations.SwitchDiagnosticsPulsesAndLearning : Prop :=
  ∀ (s : State) (c : Ch), s.switchUp c = true → (s.ch c).paired = false →
    let b := bankOf c
    let k := posOf c
    let others (t : State) : Prop := ∀ d : Ch, d ≠ c → t.ch d = s.ch d
    ((s.ch c).conducting = true → ∀ on : Bool, exec (.currentLimit c on) s =
      .next (s.setCh c (fun ch => { ch with sw := { ch.sw with limiting := on } }))) ∧
    ((s.ch c).sw.onOpen = false → bit (s.ch c).sw.diag 22 = true → 10 * fld (s.ch c).sw.diag 7 0 ≤ (s.ch c).sw.olLow →
      ∃ t, exec (.onStateOpenLoad c true) s = .next t ∧ (t.ch c).sw = { (s.ch c).sw with onOpen := true } ∧
        (t.ch c).conducting = (s.ch c).conducting ∧ others t) ∧
    ((s.ch c).sw.onOpen = true → 500 ≤ (s.ch c).sw.olHigh → ∃ t, exec (.onStateOpenLoad c false) s = .next t ∧
      (t.ch c).sw = { (s.ch c).sw with onOpen := false } ∧ others t) ∧
    ((s.ch c).sw.olLow < 10 * fld (s.ch c).sw.diag 7 0 → exec (.onStateOpenLoad c true) s = .next s) ∧
    ((s.ch c).conducting = false →
      ((s.ch c).sw.offOpen = false → bit (s.ch c).sw.diag 23 = true → bit (s.ch c).sw.diag 21 = false →
        s.heldFor c .offHigh 200000 = true → ∃ t, exec (.offStateOpenLoad b k true) s = .next t ∧
          (t.ch c).sw = { (s.ch c).sw with offOpen := true } ∧ others t) ∧
      ((s.ch c).sw.offOpen = true → s.heldFor c .offLow 500000 = true → ∃ t, exec (.offStateOpenLoad b k false) s = .next t ∧
        (t.ch c).sw = { (s.ch c).sw with offOpen := false } ∧ others t) ∧
      ((s.ch c).sw.shortVf = false → s.heldFor c .nearVf 10000 = true → ∃ t, exec (.shortToSupply b k true) s = .next t ∧
        (t.ch c).sw = { (s.ch c).sw with shortVf := true } ∧ others t) ∧
      (s.heldFor c .nearVf 10000 = false → (s.ch c).sw.extDrive = false → s.heldFor c .driven 10000 = true →
        ∃ t, exec (.shortToSupply b k true) s = .next t ∧ (t.ch c).sw = { (s.ch c).sw with extDrive := true } ∧ others t) ∧
      ((s.ch c).sw.shortVf = true → s.heldFor c .below5 500000 = true → ∃ t, exec (.shortToSupply b k false) s = .next t ∧
        (t.ch c).sw = { (s.ch c).sw with shortVf := false, extDrive := false } ∧ others t)) ∧
    ((s.ch c).conducting = true → exec (.offStateOpenLoad b k true) s = .next s ∧ exec (.shortToSupply b k true) s = .next s) ∧
    (∀ (m : ClampMeas) (tb : Timebase), s.timebase c = some tb → s.driven c = true →
      let w := (s.ch c).sw
      (∀ e : Int, tb.onEdge (w.edgePhase tb) (s.tbNow b) = some e →
        let g := { w.pgen with period := tb.period }
        (w.edgeFrom < e → (s.ch c).conducting = false → 246 ≤ g.onTime → (s.tbNow b : Int) < e + 10000 * g.onTime →
          ∃ t, exec (.pulseEdge c true m) s = .next t ∧ (t.ch c).conducting = true ∧ (t.ch c).sw.onSince = s.sys.now ∧
            (t.ch c).sw.prun = g ∧ (t.ch c).sw.lastOn = e ∧ (t.ch c).sw.edgeFrom = e ∧ (t.ch c).l5 = (s.ch c).l5 ∧ others t) ∧
        (w.edgeFrom < e → g.onTime < 246 → ∃ t, exec (.pulseEdge c true m) s = .next t ∧
          (t.ch c).conducting = false ∧ (t.ch c).sw.prun = g ∧ (t.ch c).sw.lastOn = e ∧ (t.ch c).sw.edgeFrom = e ∧ others t) ∧
        (e ≤ w.edgeFrom → exec (.pulseEdge c true m) s = .next s)) ∧
      ((s.ch c).conducting = true → 246 + w.prun.onTime ≤ w.prun.period.toNat →
        (w.lastOn + 10000 * w.prun.onTime ≤ s.tbNow b → ∃ t, exec (.pulseEdge c false m) s = .next t ∧
          (t.ch c).conducting = false ∧ (t.ch c).sw.offSince = s.sys.now ∧
          (t.ch c).sw.bucket = w.bucket + clampEnergy (s.holm b).vf m ∧ others t) ∧
        ((s.tbNow b : Int) < w.lastOn + 10000 * w.prun.onTime → exec (.pulseEdge c false m) s = .next s))) ∧
    (∀ a b d : Nat, (s.ch c).conducting = true → (s.ch c).sw.onSince + 1000000 ≤ s.sys.now →
      (s.ch c).sw.offSince + 10000000 ≤ (s.ch c).sw.onSince → (s.ch c).sw.lrnDone = false →
      exec (.inrushLearning c a b d) s = .next (s.setCh c (fun ch => { ch with sw := { ch.sw with
        learned := true
        lrnDone := true
        ipk := if ch.sw.learned then learn ch.sw.ipk a else a
        qin := if ch.sw.learned then learn ch.sw.qin b else b
        i100 := if ch.sw.learned then learn ch.sw.i100 d else d } }))) ∧
    ((s.ch c).sw.lrnDone = true → ∀ a b d : Nat, exec (.inrushLearning c a b d) s = .next s) ∧
    (∀ wd : Bool, ∃ t, exec (.sequencerFault c wd) s = .next t ∧ (t.ch c).reloading = true ∧ IntOp.load (.seqr c) ∈ t.sys.internal ∧
      (t.ch c).locks = { (s.ch c).locks with seqFault := true } ∧ (t.ch c).level = 1 ∧ (t.ch c).out = .off ∧
      (t.ch c).conducting = false ∧ others t ∧
      ∃ k : Fin 1024, (t.ch c).ucode.flaws = if wd then (s.ch c).ucode.flaws else k :: (s.ch c).ucode.flaws) ∧
    ((s.ch c).reloading = true → s.internalWaits (.load (.seqr c)) = false → s.journalWaits b = false →
      ∃ t, exec (.sequencerReloadComplete c) s = .next t ∧
      t.ch c = { s.ch c with reloading := false, ucode := s.ucodeNow } ∧ others t)

/-- HEARTBEAT_MISS, ENGINE_RECOVERY, LOCKSTEP_FAULT, DOUBLE_BIT_ERROR, SUPERVISOR_WATCHDOG and NRESET (R11, R17 to R19, R385,
R390, R391). -/
def Obligations.EngineFailuresRecoverOrEscalate : Prop :=
  ∀ s : State, s.sys.vddOk = true →
    let outputs (t : State) : Prop := ∀ c : Ch, (t.ch c).out = (s.ch c).out ∧ (t.ch c).conducting = (s.ch c).conducting
    let warm (k : BitVec 8) (t : State) : Prop := t.sys.startDue = [StartDue.mk .warm s.sys.now k] ∧ outputs t
    (s.sys.failedEngines = [] →
      (∀ e : Engine, Sys2Proof.Machine.Engine.beats e = true → s.recentlyRecovered e = false → ∃ t, exec (.heartbeatMiss e) s = .next t ∧
        t.sys.failedEngines = [FailedEngine.mk e 1 s.sys.now] ∧ t.sys.startDue = s.sys.startDue ∧ outputs t ∧
        ∀ p : Port, e = .core (portCore p) → (t.port p).rdy = false ∧ (t.port p).cmdBuf = []) ∧
      (∀ n : Fin 7, s.recentlyRecovered (.core ⟨n.val + 1, by omega⟩) = false →
        ∃ t, exec (.doubleBitError (.engine n)) s = .next t ∧
          t.sys.failedEngines = [FailedEngine.mk (.core ⟨n.val + 1, by omega⟩) 3 s.sys.now] ∧
          t.sys.startDue = s.sys.startDue ∧ outputs t) ∧
      (s.recentlyRecovered (.core 0) = false → ∃ t, exec .lockstepFault s = .next t ∧
        t.sys.failedEngines = [FailedEngine.mk (.core 0) 2 s.sys.now] ∧ t.sys.startDue = s.sys.startDue ∧
        t.chans = s.chans)) ∧
    (∀ f : FailedEngine, s.sys.failedEngines = [f] → s.internalWaits (.load f.engine) = false →
      s.loadWaits f.engine = false → ∃ t, exec (.engineRecovery f.engine true) s = .next t ∧
      t.sys.failedEngines = [] ∧ t.sys.recoveries.head? = some (f.engine, s.sys.now) ∧ t.latched 248 ∧
      (f.engine = .core 6 → t.latched 206) ∧
      (f.engine ≠ .core 6 ∨ (s.badger.heads = [] ∧ ∀ c : Ch, (s.ch c).presag = none) → outputs t) ∧
      ∀ p : Port, f.engine = .core (portCore p) → (t.port p).rdy = true) ∧
    (s.sys.startDue = [] → s.sys.startAt + 10000000 ≤ s.sys.now →
      (∃ t, exec .supervisorWatchdog s = .next t ∧ warm 3 t) ∧
      (∃ t, exec (.doubleBitError (.shared none)) s = .next t ∧ warm 4 t) ∧
      (∀ f : FailedEngine, s.sys.failedEngines = [f] → s.internalWaits (.load f.engine) = false →
        s.loadWaits f.engine = false → ∃ t, exec (.engineRecovery f.engine false) s = .next t ∧ warm 3 t) ∧
      (s.recentlyRecovered (.core 0) = true ∨ s.sys.failedEngines ≠ [] → ∃ t, exec .lockstepFault s = .next t ∧ warm 3 t) ∧
      (∀ e : Engine, Sys2Proof.Machine.Engine.beats e = true → s.engineDown e = false →
        s.recentlyRecovered e = true ∨ s.sys.failedEngines ≠ [] → ∃ t, exec (.heartbeatMiss e) s = .next t ∧ warm 3 t) ∧
      ∀ ns : Nat, 10000 ≤ ns → ∃ t, exec (.nreset ns) s = .next t ∧ warm 1 t ∧ t.sys.nresetLow = true) ∧
    ∀ ns : Nat, ns < 1000 → exec (.nreset ns) s = .next s

/-- WARM_START, COLD_START, RECOVERY_START and FAILED_START (R385 to R394). What runs on in the Holms through a warm start is log entry 42,
and that a start takes no time of its own log entry 69; a start that fails has begun all the same (log entry 122). -/
def Obligations.StartsKeepAndResetWhatTheirKindNames : Prop :=
  ∀ s : State,
    (∀ (d : StartDue) (ok : Bool), s.sys.vddOk = true → s.dueStart .warm = some d → s.upd.work = none →
      (resolveBoot s).upd.inTrial = false → (resolveBoot s).warmGood = true →
      ∃ t, exec (.warmStart ok) s = .next t ∧ t.sys.now = s.sys.now ∧ t.sys.start = .warm ∧
        t.sys.startAt = s.sys.now ∧ t.sys.lastCause = d.cause ∧ t.completions = [] ∧ t.badger.heads = [] ∧
        t.den.boot = s.den.boot + 1 ∧ t.legal = s.legal ∧ t.sec.ownerKey = s.sec.ownerKey ∧
        (ok = false → t.latched 254) ∧
        (∀ c : Ch, (t.ch c).mode = (s.ch c).mode ∧ (t.ch c).safety = (s.ch c).safety ∧
          (t.ch c).owner = (if s.isLegal c then s.legal.port else if ok then (s.ch c).owner else none) ∧
          ((s.ch c).mode.isOutput = true → (t.ch c).l3.isSome = true)) ∧
        ∀ p : Port, (t.port p).rdy = true ∧ (t.port p).rstd = true ∧ (t.port p).echo = 0x0F ∧ (t.port p).slots = [] ∧
          (t.port p).chen = false ∧ (t.port p).cmdBuf = [] ∧
          (ok = true → (t.port p).evmask = (s.port p).evmask ∧ (t.port p).irqcfg = (s.port p).irqcfg ∧
            (t.port p).opwindow = (s.port p).opwindow ∧ (t.port p).wdt = (s.port p).wdt) ∧
          (ok = false → (t.port p).evmask = evmaskReset p ∧ (t.port p).opwindow = 160 ∧ (t.port p).wdt = 0)) ∧
    (s.dueStart .warm = none → ∀ ok : Bool, exec (.warmStart ok) s = .next s) ∧
    (∀ (d : StartDue) (ok : Bool), s.sys.vddOk = true → s.dueStart .warm = some d → (resolveBoot s).warmGood = false →
      ∃ t, exec (.warmStart ok) s = .next t ∧ t.upd.fails.length = s.upd.fails.length + 1 ∧ t.latched 253 ∧
        t.den.boot = s.den.boot + 1 ∧ ∀ c : Ch, (t.ch c).mode = (s.ch c).mode ∧ (t.ch c).owner = (s.ch c).owner) ∧
    (∀ f : ColdFacts, s.sys.vddOk = false → f.vdd ≤ 2950 ∨ f.vddFor < 100000 → exec (.coldStart f) s = .next s) ∧
    (∀ f : ColdFacts, s.sys.vddOk = true → s.dueStart .cold = none → exec (.coldStart f) s = .next s) ∧
    (∀ (f : ColdFacts) (cause : BitVec 8),
      (s.sys.vddOk = false ∧ 2950 < f.vdd ∧ 100000 ≤ f.vddFor ∧ cause = 0 ∨
        s.sys.vddOk = true ∧ ∃ d, s.dueStart .cold = some d ∧ cause = d.cause) →
      let plant (t : State) : Prop := t.sys.now = 0 ∧ t.sys.vddOk = true ∧ t.sys.intOsc = !f.crystalOk ∧ t.completions = [] ∧
        t.badger.ifmax = s.badger.ifmax ∧ t.badger.pceil = s.badger.pceil ∧ t.den.boot = s.den.boot + 1 ∧
        t.legal.port = (if f.lport = true ∧ s.sys.order ≠ 2 then some 0 else none) ∧ t.legal.mask = s.legal.mask ∧
        (∀ c : Ch, s.keptByBurrow c = false →
          (t.ch c).mode = (if s.isLegal c then (s.ch c).legStored.mode else .off) ∧
          (s.isLegal c = false → (t.ch c).out = .off ∧ (t.ch c).conducting = false) ∧
          (s.isLegal c = true → (t.ch c).brg.meas = (s.ch c).brg.meas ∧ (t.ch c).brg.diag = (s.ch c).brg.diag) ∧
          (t.ch c).owner = (if s.isLegal c then t.legal.port else none) ∧ (t.ch c).l3 = none ∧
          (t.ch c).loop.trim = (s.ch c).loop.trim ∧ (t.ch c).bmap = (s.ch c).bmap) ∧
        ∀ p : Port, (t.port p).slots = [] ∧ (t.port p).opwindow = 160 ∧ (t.port p).evmask = evmaskReset p ∧
          (t.port p).wdt = 0
      (f.cut = none → (bootImage s).imageGood = false →
        ∃ t, exec (.coldStart f) s = .next t ∧ plant t ∧ t.upd.fails.length = s.upd.fails.length + 1 ∧ t.latched 253) ∧
      (f.cut = none → (bootImage s).imageGood = true →
        ∃ t, exec (.coldStart f) s = .next t ∧ plant t ∧ t.sys.start = .cold ∧
          t.sys.lastCause = (if s.spent then 2 else cause) ∧ ∀ p : Port, (t.port p).rdy = true) ∧
      (f.cut.isSome = true → (bootImage s).imageGood = true →
        ∃ t, exec (.coldStart f) s = .next t ∧ t.sys.vddOk = false ∧ t.den.buf = [] ∧ t.den.boot = s.den.boot + 1 ∧
          ∀ p : Port, (t.port p).rdy = false)) ∧
    (∀ d : StartDue, s.sys.vddOk = true → s.dueStart .recovery = some d → ∃ t, exec .recoveryStart s = .next t ∧
      t.sys.now = s.sys.now ∧ t.sys.start = .recovery ∧ (∀ u : Fin 4, (t.unit u).bound = decide (u.val < 3)) ∧
      (∀ c : Ch, s.keptByBurrow c = false → (t.ch c).mode = .off ∧ (t.ch c).out = .off) ∧
      ∀ p : Port, (t.port p).rdy = true ∧ (t.port p).slots = []) ∧
    ∀ (x : FailedStart) (d : StartDue), s.sys.vddOk = true → s.sys.startDue = [d] → d.kind = .warm →
      d.at_ ≤ s.sys.now → s.upd.work = none → (resolveBoot s).upd.inTrial = false → s.upd.fails = [] → s.upd.failRun < 2 →
      s.upd.afterRec = false → s.sys.start ≠ .recovery →
      ∃ t, exec (.failedStart x) s = .next t ∧ t.upd.fails = [(s.wall, BitVec.ofNat 8 StartKind.warm.code, x.step)] ∧
        t.sys.startDue = [StartDue.mk .cold s.sys.now 5] ∧ t.latched 253 ∧ t.den.boot = s.den.boot + 1 ∧
        ∀ c : Ch, (t.ch c).mode = (s.ch c).mode ∧ (t.ch c).owner = (s.ch c).owner

/-- POWER_FAIL_WARNING (R373), FLUSH (R370), TRIAL_REVERT (R405), TRIAL_WINDOW_WARNING (R415) and FAILED_START_RECORD_CLEAR
(R392). -/
def Obligations.PowerFailFlushAndTrials : Prop :=
  ∀ s : State, s.sys.vddOk = true →
    (∃ t, exec .powerFailWarning s = .next t ∧ t.sys.vddOk = false ∧ t.sys.rdyOnce = false ∧ t.sys.startDue = [] ∧ t.den.buf = [] ∧
      (∀ p : Port, (t.port p).rdy = false) ∧ t.chans = s.chans ∧ t.holms = s.holms ∧ t.sys.now = s.sys.now) ∧
    (s.coreDown 7 = false → s.den.legWait = [] → s.den.buf ≠ [] → s.den.lastFlush + 1000000 ≤ s.sys.now →
      ∃ t, exec .flush s = .next t ∧ t.den.buf = [] ∧ t.den.lastFlush = s.sys.now ∧
      t.chans = s.chans ∧ t.holms = s.holms ∧ t.sys = s.sys ∧ t.badger = s.badger ∧ t.upd = s.upd) ∧
    (s.den.buf = [] ∨ s.sys.now < s.den.lastFlush + 1000000 → exec .flush s = .next s) ∧
    (s.upd.inTrial = true →
      (s.windowOver = true → s.upd.trialLegal = false → s.upd.work = none → s.coreDown 7 = false → s.configReads = true →
        ∃ t, exec (.trialRevert .window) s = .next t ∧ t = { s with upd := { s.upd with work := t.upd.work } } ∧
          let e := Nat.iterate bootTick 5 t
          e.upd.active = s.upd.other ∧ e.upd.st[s.upd.other] = .active ∧ e.upd.st[s.upd.active] = .verified ∧
          e.upd.work = none ∧ e.upd.copies = Vector.replicate 2 (e.upd.bootRec, true) ∧ e.latched 243 ∧
          e.sys.startDue = s.sys.startDue ++ [StartDue.mk .cold s.sys.now 2] ∧ e.chans = s.chans) ∧
      (s.windowOver = false → exec (.trialRevert .window) s = .next s) ∧
      (s.upd.warned60 = false → s.sys.rtcStopped = false → s.upd.twin ≤ s.trialSecs + 60 →
        ∃ t, exec .trialWindowWarning s = .next t ∧ t.upd = { s.upd with warned60 := true } ∧ t.latched 255 ∧
          t.chans = s.chans ∧ t.sys = s.sys) ∧
      (s.upd.warned60 = true → exec .trialWindowWarning s = .next s)) ∧
    (s.sys.start ≠ .recovery → s.sys.startAt + 100000000 ≤ s.sys.now →
      exec .failedStartRecordClear s = .next (s.setUpd (fun u => { u with
        fails := []
        failRun := 0
        afterRec := false }))) ∧
    (s.sys.start = .recovery ∨ s.sys.now < s.sys.startAt + 100000000 → exec .failedStartRecordClear s = .next s)

/-- EVENT_BLOCK_CLOSE, STREAM_BLOCK_CLOSE, HOUSEKEEPING_FRAME, SENSE_SELECT, VIO_INVALID, VHOLD_CHARGED and
COMMON_FAULT_HOLD_EXPIRY (R16, R177, R209, R292, R323, R324, R425, R426). -/
def Obligations.BlocksFramesAndPinsAreTaken : Prop :=
  ∀ s : State, s.sys.vddOk = true →
    (∀ p : Port, s.coreDown (portCore p) = false →
      ((s.port p).evOpen ≠ [] → (s.port p).evOpenedAt + 10000 ≤ s.sys.now →
        exec (.eventBlockClose p) s = .next (s.setPort p (fun q => { q with
          evOpen := []
          evLost := false
          rsp := q.rsp ++ [RspRec.mk 2 (record p 0xFF01 stOK 0 0 (portObj p) 2 (if q.evLost then 2 else 0) s.sys.now 0 0
            (q.evOpen.flatMap EvEntry.bytes)) 0 true] }))) ∧
      (s.sys.now < (s.port p).evOpenedAt + 10000 → exec (.eventBlockClose p) s = .next s) ∧
      ∀ c : Ch, let u := (s.port p).subs[c]
        (u.units ≠ [] → u.openedAt + 10000 ≤ s.sys.now → ∃ t, exec (.streamBlockClose p c) s = .next t ∧
          (t.port p).rsp = (s.port p).rsp ++ [RspRec.mk 3 (record p 0xFF02 stOK 0 0 (chObj c) 3 (if u.lost then 2 else 0)
            s.sys.now 0 0 u.units.flatten) 0 true] ∧
          (t.port p).subs[c] = { u with units := [], lost := false } ∧ t.chans = s.chans ∧ t.holms = s.holms) ∧
        (s.sys.now < u.openedAt + 10000 → exec (.streamBlockClose p c) s = .next s)) ∧
    (∀ (b : Bank) (h : HkFrame), h.clamps = [] →
      ((s.holm b).up = true → ∃ t, exec (.housekeepingFrame b h) s = .next t ∧ (t.holm b).vf = HkFrame.fix h h.vf ∧
        (t.holm b).vx = HkFrame.fix h h.vx ∧ (t.holm b).case = HkFrame.fix h h.case ∧ (t.holm b).isnsPad = HkFrame.fix h h.isns ∧
        (h.zero = 0 → h.ref = 65536 → ∀ x : Int, HkFrame.fix h x = x) ∧ (t.holm b).junNext = (s.holm b).junNext + 1 ∧
        ((s.holm b).link = true → t.sys.snapSeq = s.sys.snapSeq + 1 ∧ t.sys.snapTs[b] = s.sys.now) ∧
        (∀ k : Fin 8, let c := chAt b k
          (t.ch c).sw.icur = (if (s.modeNow c).isSwitch then
            (h.cur.map (fun (x : Nat) => (HkFrame.fix h x).toNat)).getD k.val 0 else 0) ∧
          (t.ch c).sw.tj = (if k = (s.holm b).junNext then HkFrame.fix h h.jun else (s.ch c).sw.tj) ∧
          (t.ch c).sw.bucket = (s.ch c).sw.bucket - 1 ∧ (t.ch c).mode = (s.ch c).mode ∧ (t.ch c).out = (s.ch c).out ∧
          (t.ch c).locks = (s.ch c).locks) ∧
        ∀ c : Ch, bankOf c ≠ b → t.ch c = s.ch c) ∧
      ((s.holm b).up = false → exec (.housekeepingFrame b h) s = .next s)) ∧
    (∀ (b : Bank) (k : Fin 8), exec (.senseSelect b k) s = .next (s.setHolm b (fun h => { h with sel := k }))) ∧
    (∀ v : Bool, exec (.vioInvalid v) s = .next (s.setSys (fun y => { y with vio := v }))) ∧
    (∀ cap mv : Nat, ∃ t, exec (.vholdCharged cap mv) s = .next t ∧ t.badger.capUf = min 2200 cap ∧
      t.badger.vholdMv = mv ∧ t.badger.heads = s.badger.heads ∧ t.chans = s.chans ∧ t.holms = s.holms ∧ t.sys = s.sys) ∧
    (s.sys.nfault = true → s.anyFault = false →
      (s.sys.nfaultAt + 10000 ≤ s.sys.now →
        exec .commonFaultHoldExpiry s = .next (s.setSys (fun y => { y with nfault := false }))) ∧
      (s.sys.now < s.sys.nfaultAt + 10000 → exec .commonFaultHoldExpiry s = .next s))

/-- The port registers stay within R289, R290 and R455. -/
def Obligations.StepKeepsWindowsAndReservedBitsLegal : Prop :=
  ∀ s t : State, s.portsLegal → step s = .next t → t.portsLegal

/-- The invariant holds at reset. -/
def Obligations.ResetHasLegalWindowsAndReservedBits : Prop := State.reset.portsLegal

/-- Device time (R22, R27). -/
def Obligations.DeviceTimeNeverRunsBackExceptAtAColdStart : Prop :=
  ∀ s t : State, step s = .next t → s.sys.now ≤ t.sys.now ∨
    (t.sys.now = 0 ∧ ((∃ f, s.pending.head? = some (.coldStart f)) ∨ ∃ k, s.pending.head? = some (.failedStart k)))
end

