-- ==== Sys2Proof/Laws/State.lean ====
section
/-! SUPPORT. What each named update of the state writes and what it leaves: one lemma per field per update, so that no proof
unfolds a record update. -/

namespace Sys2Proof.Machine
@[simp] theorem State.setCh_sys (s : State) (c : Ch) (f : Chan → Chan) : (s.setCh c f).sys = s.sys := rfl
@[simp] theorem State.setCh_holms (s : State) (c : Ch) (f : Chan → Chan) : (s.setCh c f).holms = s.holms := rfl
@[simp] theorem State.setCh_ports (s : State) (c : Ch) (f : Chan → Chan) : (s.setCh c f).ports = s.ports := rfl
@[simp] theorem State.setCh_completions (s : State) (c : Ch) (f : Chan → Chan) : (s.setCh c f).completions = s.completions := rfl
@[simp] theorem State.setCh_badger (s : State) (c : Ch) (f : Chan → Chan) : (s.setCh c f).badger = s.badger := rfl
@[simp] theorem State.setCh_den (s : State) (c : Ch) (f : Chan → Chan) : (s.setCh c f).den = s.den := rfl
@[simp] theorem State.setCh_crc (s : State) (c : Ch) (f : Chan → Chan) : (s.setCh c f).crc = s.crc := rfl
@[simp] theorem State.setCh_upd (s : State) (c : Ch) (f : Chan → Chan) : (s.setCh c f).upd = s.upd := rfl
@[simp] theorem State.setCh_sec (s : State) (c : Ch) (f : Chan → Chan) : (s.setCh c f).sec = s.sec := rfl
@[simp] theorem State.setCh_legal (s : State) (c : Ch) (f : Chan → Chan) : (s.setCh c f).legal = s.legal := rfl
@[simp] theorem State.setCh_mram (s : State) (c : Ch) (f : Chan → Chan) : (s.setCh c f).mram = s.mram := rfl
@[simp] theorem State.setCh_pending (s : State) (c : Ch) (f : Chan → Chan) : (s.setCh c f).pending = s.pending := rfl
@[simp] theorem State.setCh_ch_self (s : State) (c : Ch) (f : Chan → Chan) : (s.setCh c f).ch c = f (s.ch c) := by
  simp [State.setCh, State.ch]
theorem State.setCh_ch_ne (s : State) (c : Ch) (f : Chan → Chan) (d : Ch) (h : d ≠ c) : (s.setCh c f).ch d = s.ch d := by
  simp only [State.setCh, State.ch]
  exact Vector.getElem_set_ne c.isLt d.isLt (fun e => h (Fin.ext e.symm))
@[simp] theorem State.setCh_holm (s : State) (c : Ch) (f : Chan → Chan) (e : Bank) : (s.setCh c f).holm e = s.holm e := rfl
@[simp] theorem State.setCh_port (s : State) (c : Ch) (f : Chan → Chan) (q : Port) : (s.setCh c f).port q = s.port q := rfl
@[simp] theorem State.setCh_unit (s : State) (c : Ch) (f : Chan → Chan) (w : Fin 4) : (s.setCh c f).unit w = s.unit w := rfl
@[simp] theorem State.setHolm_sys (s : State) (b : Bank) (f : Holm → Holm) : (s.setHolm b f).sys = s.sys := rfl
@[simp] theorem State.setHolm_chans (s : State) (b : Bank) (f : Holm → Holm) : (s.setHolm b f).chans = s.chans := rfl
@[simp] theorem State.setHolm_ports (s : State) (b : Bank) (f : Holm → Holm) : (s.setHolm b f).ports = s.ports := rfl
@[simp] theorem State.setHolm_completions (s : State) (b : Bank) (f : Holm → Holm) : (s.setHolm b f).completions = s.completions := rfl
@[simp] theorem State.setHolm_badger (s : State) (b : Bank) (f : Holm → Holm) : (s.setHolm b f).badger = s.badger := rfl
@[simp] theorem State.setHolm_den (s : State) (b : Bank) (f : Holm → Holm) : (s.setHolm b f).den = s.den := rfl
@[simp] theorem State.setHolm_crc (s : State) (b : Bank) (f : Holm → Holm) : (s.setHolm b f).crc = s.crc := rfl
@[simp] theorem State.setHolm_upd (s : State) (b : Bank) (f : Holm → Holm) : (s.setHolm b f).upd = s.upd := rfl
@[simp] theorem State.setHolm_sec (s : State) (b : Bank) (f : Holm → Holm) : (s.setHolm b f).sec = s.sec := rfl
@[simp] theorem State.setHolm_legal (s : State) (b : Bank) (f : Holm → Holm) : (s.setHolm b f).legal = s.legal := rfl
@[simp] theorem State.setHolm_mram (s : State) (b : Bank) (f : Holm → Holm) : (s.setHolm b f).mram = s.mram := rfl
@[simp] theorem State.setHolm_pending (s : State) (b : Bank) (f : Holm → Holm) : (s.setHolm b f).pending = s.pending := rfl
@[simp] theorem State.setHolm_holm_self (s : State) (b : Bank) (f : Holm → Holm) : (s.setHolm b f).holm b = f (s.holm b) := by
  simp [State.setHolm, State.holm]
theorem State.setHolm_holm_ne (s : State) (b : Bank) (f : Holm → Holm) (d : Bank) (h : d ≠ b) : (s.setHolm b f).holm d = s.holm d := by
  simp only [State.setHolm, State.holm]
  exact Vector.getElem_set_ne b.isLt d.isLt (fun e => h (Fin.ext e.symm))
@[simp] theorem State.setHolm_ch (s : State) (b : Bank) (f : Holm → Holm) (d : Ch) : (s.setHolm b f).ch d = s.ch d := rfl
@[simp] theorem State.setHolm_port (s : State) (b : Bank) (f : Holm → Holm) (q : Port) : (s.setHolm b f).port q = s.port q := rfl
@[simp] theorem State.setHolm_unit (s : State) (b : Bank) (f : Holm → Holm) (w : Fin 4) : (s.setHolm b f).unit w = s.unit w := rfl
@[simp] theorem State.setPort_sys (s : State) (p : Port) (f : PortSt → PortSt) : (s.setPort p f).sys = s.sys := rfl
@[simp] theorem State.setPort_chans (s : State) (p : Port) (f : PortSt → PortSt) : (s.setPort p f).chans = s.chans := rfl
@[simp] theorem State.setPort_holms (s : State) (p : Port) (f : PortSt → PortSt) : (s.setPort p f).holms = s.holms := rfl
@[simp] theorem State.setPort_completions (s : State) (p : Port) (f : PortSt → PortSt) : (s.setPort p f).completions = s.completions := rfl
@[simp] theorem State.setPort_badger (s : State) (p : Port) (f : PortSt → PortSt) : (s.setPort p f).badger = s.badger := rfl
@[simp] theorem State.setPort_den (s : State) (p : Port) (f : PortSt → PortSt) : (s.setPort p f).den = s.den := rfl
@[simp] theorem State.setPort_crc (s : State) (p : Port) (f : PortSt → PortSt) : (s.setPort p f).crc = s.crc := rfl
@[simp] theorem State.setPort_upd (s : State) (p : Port) (f : PortSt → PortSt) : (s.setPort p f).upd = s.upd := rfl
@[simp] theorem State.setPort_sec (s : State) (p : Port) (f : PortSt → PortSt) : (s.setPort p f).sec = s.sec := rfl
@[simp] theorem State.setPort_legal (s : State) (p : Port) (f : PortSt → PortSt) : (s.setPort p f).legal = s.legal := rfl
@[simp] theorem State.setPort_mram (s : State) (p : Port) (f : PortSt → PortSt) : (s.setPort p f).mram = s.mram := rfl
@[simp] theorem State.setPort_pending (s : State) (p : Port) (f : PortSt → PortSt) : (s.setPort p f).pending = s.pending := rfl
@[simp] theorem State.setPort_port_self (s : State) (p : Port) (f : PortSt → PortSt) : (s.setPort p f).port p = f (s.port p) := by
  simp [State.setPort, State.port]
theorem State.setPort_port_ne (s : State) (p : Port) (f : PortSt → PortSt) (d : Port) (h : d ≠ p) : (s.setPort p f).port d = s.port d := by
  simp only [State.setPort, State.port]
  exact Vector.getElem_set_ne p.isLt d.isLt (fun e => h (Fin.ext e.symm))
@[simp] theorem State.setPort_ch (s : State) (p : Port) (f : PortSt → PortSt) (d : Ch) : (s.setPort p f).ch d = s.ch d := rfl
@[simp] theorem State.setPort_holm (s : State) (p : Port) (f : PortSt → PortSt) (e : Bank) : (s.setPort p f).holm e = s.holm e := rfl
@[simp] theorem State.setPort_unit (s : State) (p : Port) (f : PortSt → PortSt) (w : Fin 4) : (s.setPort p f).unit w = s.unit w := rfl
@[simp] theorem State.setUnit_sys (s : State) (u : Fin 4) (f : CrcUnit → CrcUnit) : (s.setUnit u f).sys = s.sys := rfl
@[simp] theorem State.setUnit_chans (s : State) (u : Fin 4) (f : CrcUnit → CrcUnit) : (s.setUnit u f).chans = s.chans := rfl
@[simp] theorem State.setUnit_holms (s : State) (u : Fin 4) (f : CrcUnit → CrcUnit) : (s.setUnit u f).holms = s.holms := rfl
@[simp] theorem State.setUnit_ports (s : State) (u : Fin 4) (f : CrcUnit → CrcUnit) : (s.setUnit u f).ports = s.ports := rfl
@[simp] theorem State.setUnit_completions (s : State) (u : Fin 4) (f : CrcUnit → CrcUnit) : (s.setUnit u f).completions = s.completions := rfl
@[simp] theorem State.setUnit_badger (s : State) (u : Fin 4) (f : CrcUnit → CrcUnit) : (s.setUnit u f).badger = s.badger := rfl
@[simp] theorem State.setUnit_den (s : State) (u : Fin 4) (f : CrcUnit → CrcUnit) : (s.setUnit u f).den = s.den := rfl
@[simp] theorem State.setUnit_upd (s : State) (u : Fin 4) (f : CrcUnit → CrcUnit) : (s.setUnit u f).upd = s.upd := rfl
@[simp] theorem State.setUnit_sec (s : State) (u : Fin 4) (f : CrcUnit → CrcUnit) : (s.setUnit u f).sec = s.sec := rfl
@[simp] theorem State.setUnit_legal (s : State) (u : Fin 4) (f : CrcUnit → CrcUnit) : (s.setUnit u f).legal = s.legal := rfl
@[simp] theorem State.setUnit_mram (s : State) (u : Fin 4) (f : CrcUnit → CrcUnit) : (s.setUnit u f).mram = s.mram := rfl
@[simp] theorem State.setUnit_pending (s : State) (u : Fin 4) (f : CrcUnit → CrcUnit) : (s.setUnit u f).pending = s.pending := rfl
@[simp] theorem State.setUnit_unit_self (s : State) (u : Fin 4) (f : CrcUnit → CrcUnit) : (s.setUnit u f).unit u = f (s.unit u) := by
  simp [State.setUnit, State.unit]
theorem State.setUnit_unit_ne (s : State) (u : Fin 4) (f : CrcUnit → CrcUnit) (d : Fin 4) (h : d ≠ u) : (s.setUnit u f).unit d = s.unit d := by
  simp only [State.setUnit, State.unit]
  exact Vector.getElem_set_ne u.isLt d.isLt (fun e => h (Fin.ext e.symm))
@[simp] theorem State.setUnit_ch (s : State) (u : Fin 4) (f : CrcUnit → CrcUnit) (d : Ch) : (s.setUnit u f).ch d = s.ch d := rfl
@[simp] theorem State.setUnit_holm (s : State) (u : Fin 4) (f : CrcUnit → CrcUnit) (e : Bank) : (s.setUnit u f).holm e = s.holm e := rfl
@[simp] theorem State.setUnit_port (s : State) (u : Fin 4) (f : CrcUnit → CrcUnit) (q : Port) : (s.setUnit u f).port q = s.port q := rfl
@[simp] theorem State.setBadger_sys (s : State) (f : Badger → Badger) : (s.setBadger f).sys = s.sys := rfl
@[simp] theorem State.setBadger_chans (s : State) (f : Badger → Badger) : (s.setBadger f).chans = s.chans := rfl
@[simp] theorem State.setBadger_holms (s : State) (f : Badger → Badger) : (s.setBadger f).holms = s.holms := rfl
@[simp] theorem State.setBadger_ports (s : State) (f : Badger → Badger) : (s.setBadger f).ports = s.ports := rfl
@[simp] theorem State.setBadger_completions (s : State) (f : Badger → Badger) : (s.setBadger f).completions = s.completions := rfl
@[simp] theorem State.setBadger_badger (s : State) (f : Badger → Badger) : (s.setBadger f).badger = f s.badger := rfl
@[simp] theorem State.setBadger_den (s : State) (f : Badger → Badger) : (s.setBadger f).den = s.den := rfl
@[simp] theorem State.setBadger_crc (s : State) (f : Badger → Badger) : (s.setBadger f).crc = s.crc := rfl
@[simp] theorem State.setBadger_upd (s : State) (f : Badger → Badger) : (s.setBadger f).upd = s.upd := rfl
@[simp] theorem State.setBadger_sec (s : State) (f : Badger → Badger) : (s.setBadger f).sec = s.sec := rfl
@[simp] theorem State.setBadger_legal (s : State) (f : Badger → Badger) : (s.setBadger f).legal = s.legal := rfl
@[simp] theorem State.setBadger_mram (s : State) (f : Badger → Badger) : (s.setBadger f).mram = s.mram := rfl
@[simp] theorem State.setBadger_pending (s : State) (f : Badger → Badger) : (s.setBadger f).pending = s.pending := rfl
@[simp] theorem State.setBadger_ch (s : State) (f : Badger → Badger) (d : Ch) : (s.setBadger f).ch d = s.ch d := rfl
@[simp] theorem State.setBadger_holm (s : State) (f : Badger → Badger) (e : Bank) : (s.setBadger f).holm e = s.holm e := rfl
@[simp] theorem State.setBadger_port (s : State) (f : Badger → Badger) (q : Port) : (s.setBadger f).port q = s.port q := rfl
@[simp] theorem State.setBadger_unit (s : State) (f : Badger → Badger) (w : Fin 4) : (s.setBadger f).unit w = s.unit w := rfl
@[simp] theorem State.setDen_sys (s : State) (f : Den → Den) : (s.setDen f).sys = s.sys := rfl
@[simp] theorem State.setDen_chans (s : State) (f : Den → Den) : (s.setDen f).chans = s.chans := rfl
@[simp] theorem State.setDen_holms (s : State) (f : Den → Den) : (s.setDen f).holms = s.holms := rfl
@[simp] theorem State.setDen_ports (s : State) (f : Den → Den) : (s.setDen f).ports = s.ports := rfl
@[simp] theorem State.setDen_completions (s : State) (f : Den → Den) : (s.setDen f).completions = s.completions := rfl
@[simp] theorem State.setDen_badger (s : State) (f : Den → Den) : (s.setDen f).badger = s.badger := rfl
@[simp] theorem State.setDen_den (s : State) (f : Den → Den) : (s.setDen f).den = f s.den := rfl
@[simp] theorem State.setDen_crc (s : State) (f : Den → Den) : (s.setDen f).crc = s.crc := rfl
@[simp] theorem State.setDen_upd (s : State) (f : Den → Den) : (s.setDen f).upd = s.upd := rfl
@[simp] theorem State.setDen_sec (s : State) (f : Den → Den) : (s.setDen f).sec = s.sec := rfl
@[simp] theorem State.setDen_legal (s : State) (f : Den → Den) : (s.setDen f).legal = s.legal := rfl
@[simp] theorem State.setDen_mram (s : State) (f : Den → Den) : (s.setDen f).mram = s.mram := rfl
@[simp] theorem State.setDen_pending (s : State) (f : Den → Den) : (s.setDen f).pending = s.pending := rfl
@[simp] theorem State.setDen_ch (s : State) (f : Den → Den) (d : Ch) : (s.setDen f).ch d = s.ch d := rfl
@[simp] theorem State.setDen_holm (s : State) (f : Den → Den) (e : Bank) : (s.setDen f).holm e = s.holm e := rfl
@[simp] theorem State.setDen_port (s : State) (f : Den → Den) (q : Port) : (s.setDen f).port q = s.port q := rfl
@[simp] theorem State.setDen_unit (s : State) (f : Den → Den) (w : Fin 4) : (s.setDen f).unit w = s.unit w := rfl
@[simp] theorem State.setSys_sys (s : State) (f : Sys → Sys) : (s.setSys f).sys = f s.sys := rfl
@[simp] theorem State.setSys_chans (s : State) (f : Sys → Sys) : (s.setSys f).chans = s.chans := rfl
@[simp] theorem State.setSys_holms (s : State) (f : Sys → Sys) : (s.setSys f).holms = s.holms := rfl
@[simp] theorem State.setSys_ports (s : State) (f : Sys → Sys) : (s.setSys f).ports = s.ports := rfl
@[simp] theorem State.setSys_completions (s : State) (f : Sys → Sys) : (s.setSys f).completions = s.completions := rfl
@[simp] theorem State.setSys_badger (s : State) (f : Sys → Sys) : (s.setSys f).badger = s.badger := rfl
@[simp] theorem State.setSys_den (s : State) (f : Sys → Sys) : (s.setSys f).den = s.den := rfl
@[simp] theorem State.setSys_crc (s : State) (f : Sys → Sys) : (s.setSys f).crc = s.crc := rfl
@[simp] theorem State.setSys_upd (s : State) (f : Sys → Sys) : (s.setSys f).upd = s.upd := rfl
@[simp] theorem State.setSys_sec (s : State) (f : Sys → Sys) : (s.setSys f).sec = s.sec := rfl
@[simp] theorem State.setSys_legal (s : State) (f : Sys → Sys) : (s.setSys f).legal = s.legal := rfl
@[simp] theorem State.setSys_mram (s : State) (f : Sys → Sys) : (s.setSys f).mram = s.mram := rfl
@[simp] theorem State.setSys_pending (s : State) (f : Sys → Sys) : (s.setSys f).pending = s.pending := rfl
@[simp] theorem State.setSys_ch (s : State) (f : Sys → Sys) (d : Ch) : (s.setSys f).ch d = s.ch d := rfl
@[simp] theorem State.setSys_holm (s : State) (f : Sys → Sys) (e : Bank) : (s.setSys f).holm e = s.holm e := rfl
@[simp] theorem State.setSys_port (s : State) (f : Sys → Sys) (q : Port) : (s.setSys f).port q = s.port q := rfl
@[simp] theorem State.setSys_unit (s : State) (f : Sys → Sys) (w : Fin 4) : (s.setSys f).unit w = s.unit w := rfl
@[simp] theorem State.setUpd_sys (s : State) (f : Upd → Upd) : (s.setUpd f).sys = s.sys := rfl
@[simp] theorem State.setUpd_chans (s : State) (f : Upd → Upd) : (s.setUpd f).chans = s.chans := rfl
@[simp] theorem State.setUpd_holms (s : State) (f : Upd → Upd) : (s.setUpd f).holms = s.holms := rfl
@[simp] theorem State.setUpd_ports (s : State) (f : Upd → Upd) : (s.setUpd f).ports = s.ports := rfl
@[simp] theorem State.setUpd_completions (s : State) (f : Upd → Upd) : (s.setUpd f).completions = s.completions := rfl
@[simp] theorem State.setUpd_badger (s : State) (f : Upd → Upd) : (s.setUpd f).badger = s.badger := rfl
@[simp] theorem State.setUpd_den (s : State) (f : Upd → Upd) : (s.setUpd f).den = s.den := rfl
@[simp] theorem State.setUpd_crc (s : State) (f : Upd → Upd) : (s.setUpd f).crc = s.crc := rfl
@[simp] theorem State.setUpd_upd (s : State) (f : Upd → Upd) : (s.setUpd f).upd = f s.upd := rfl
@[simp] theorem State.setUpd_sec (s : State) (f : Upd → Upd) : (s.setUpd f).sec = s.sec := rfl
@[simp] theorem State.setUpd_legal (s : State) (f : Upd → Upd) : (s.setUpd f).legal = s.legal := rfl
@[simp] theorem State.setUpd_mram (s : State) (f : Upd → Upd) : (s.setUpd f).mram = s.mram := rfl
@[simp] theorem State.setUpd_pending (s : State) (f : Upd → Upd) : (s.setUpd f).pending = s.pending := rfl
@[simp] theorem State.setUpd_ch (s : State) (f : Upd → Upd) (d : Ch) : (s.setUpd f).ch d = s.ch d := rfl
@[simp] theorem State.setUpd_holm (s : State) (f : Upd → Upd) (e : Bank) : (s.setUpd f).holm e = s.holm e := rfl
@[simp] theorem State.setUpd_port (s : State) (f : Upd → Upd) (q : Port) : (s.setUpd f).port q = s.port q := rfl
@[simp] theorem State.setUpd_unit (s : State) (f : Upd → Upd) (w : Fin 4) : (s.setUpd f).unit w = s.unit w := rfl

/-- A channel is the one at its position of its bank. -/
@[simp] theorem chAt_bankOf_posOf (c : Ch) : chAt (bankOf c) (posOf c) = c := by revert c; decide

end Sys2Proof.Machine
end

