-- ==== Sys2Proof/Laws/Mail.lean ====
section
/-! SUPPORT. What completing a mailbox operation writes, and what a command's frame answers once its checks hold. -/

namespace Sys2Proof.Machine

/-- Only the port's slots differ while a command's own part runs. -/
theorem running_port (r : Req) (s : State) (p : Port) :
    ((s.running r).port p) = { s.port p with slots := ((s.running r).port p).slots } := by
  simp only [State.running, setSlot, State.setPort, State.port, Fin.getElem_fin, Vector.getElem_set]
  split <;> simp_all

@[simp] theorem running_sys (r : Req) (s : State) : (s.running r).sys = s.sys := rfl
@[simp] theorem running_chans (r : Req) (s : State) : (s.running r).chans = s.chans := rfl
@[simp] theorem running_holms (r : Req) (s : State) : (s.running r).holms = s.holms := rfl
@[simp] theorem running_completions (r : Req) (s : State) : (s.running r).completions = s.completions := rfl
@[simp] theorem running_ch (r : Req) (s : State) (c : Ch) : (s.running r).ch c = s.ch c := rfl
@[simp] theorem running_holm (r : Req) (s : State) (b : Bank) : (s.running r).holm b = s.holm b := rfl
@[simp] theorem running_unit (r : Req) (s : State) (u : Fin 4) : (s.running r).unit u = s.unit u := rfl
@[simp] theorem running_badger (r : Req) (s : State) : (s.running r).badger = s.badger := rfl
@[simp] theorem running_den (r : Req) (s : State) : (s.running r).den = s.den := rfl
@[simp] theorem running_upd (r : Req) (s : State) : (s.running r).upd = s.upd := rfl
@[simp] theorem running_sec (r : Req) (s : State) : (s.running r).sec = s.sec := rfl
@[simp] theorem running_legal (r : Req) (s : State) : (s.running r).legal = s.legal := rfl
@[simp] theorem running_mram (r : Req) (s : State) : (s.running r).mram = s.mram := rfl

@[simp] theorem besides_setCh (r : Req) (s : State) (c : Ch) (f : Chan → Chan) :
    (s.setCh c f).besides r = (s.besides r).setCh c f := rfl
@[simp] theorem besides_setBadger (r : Req) (s : State) (f : Badger → Badger) :
    (s.setBadger f).besides r = (s.besides r).setBadger f := rfl
@[simp] theorem besides_setDen (r : Req) (s : State) (f : Den → Den) :
    (s.setDen f).besides r = (s.besides r).setDen f := rfl
@[simp] theorem besides_setSys (r : Req) (s : State) (f : Sys → Sys) :
    (s.setSys f).besides r = (s.besides r).setSys f := rfl
@[simp] theorem besides_setUpd (r : Req) (s : State) (f : Upd → Upd) :
    (s.setUpd f).besides r = (s.besides r).setUpd f := rfl
@[simp] theorem besides_setUnit (r : Req) (s : State) (u : Fin 4) (f : CrcUnit → CrcUnit) :
    (s.setUnit u f).besides r = (s.besides r).setUnit u f := rfl

theorem filter_slot_map (r : Req) (f : Slot → Slot) (hf : ∀ x, slotIs r x = true → slotIs r (f x) = true) (l : List Slot) :
    (l.map (fun x => if slotIs r x then f x else x)).filter (fun x => !slotIs r x) = l.filter (fun x => !slotIs r x) := by
  induction l with
  | nil => rfl
  | cons a l ih =>
    simp only [List.map_cons, List.filter_cons, ih]
    by_cases h : slotIs r a = true
    · simp [h, hf a h]
    · simp [h]

/-- Marking an operation's slot changes nothing besides its completion. -/
theorem setSlot_besides (r : Req) (f : Slot → Slot) (hf : ∀ x, slotIs r x = true → slotIs r (f x) = true) (s : State) :
    (setSlot r.port r f s).besides r = s.besides r := by
  simp only [State.besides, setSlot, State.setPort, State.port, Fin.getElem_fin, Vector.set_set, Vector.getElem_set_self,
    filter_slot_map r f hf]

@[simp] theorem running_besides (r : Req) (s : State) : (s.running r).besides r = s.besides r :=
  setSlot_besides r (fun sl => { sl with st := .executing }) (fun _ h => h) s

/-- Fixing a status on Mainland writes the completion and the operation's slot, nothing else. -/
theorem finishHere_completed (op : BitVec 16) (r : Req) (st : Byte) (data : List Byte) (delay : Nat) (s : State) :
    Completed op r st data delay s s (finishHere op r st data delay s) :=
  ⟨rfl, setSlot_besides r (fun sl => { sl with
    st := .executing
    deferAt := none
    defTicks := sl.defTicks + (match sl.deferAt with | some t => s.sys.now - t | none => 0) }) (fun _ h => h) s⟩

/-- Fixing a status while the link of the operation's Holm is up, or when it has none, writes the completion, the operation's
slot and the journal, nothing else. -/
theorem finish_completed (op : BitVec 16) (r : Req) (st : Byte) (data : List Byte) (delay : Nat) (s : State)
    (h : s.linkOk r.obj = true) : Completed op r st data delay s s (finish op r st data delay s) := by
  unfold finish
  unfold State.linkOk at h
  cases hb : objBank r.obj with
  | none => exact finishHere_completed op r st data delay s
  | some b =>
    simp only [hb] at h
    simp only [h, if_true]
    refine ⟨rfl, (finishHere_completed op r st data delay _).2.trans ?_⟩
    simp only [State.besides, State.setHolm, State.port]
    congr 1
    apply Vector.ext
    intro i hi
    simp only [Vector.getElem_map, Vector.getElem_set]
    split
    · subst_vars; rfl
    · rfl

/-- The link of an operation's Holm is up when none of the preceding checks fails. -/
theorem Ready.linkOk {op : BitVec 16} {r : Req} {s : State} (h : Ready op r s) : s.linkOk r.obj = true := by
  have h2 := h.2.1
  simp only [State.preFail, firstFail] at h2
  revert h2
  cases s.linkOk r.obj
  · simp only [Bool.false_eq_true, if_false]
    repeat' split
    all_goals simp
  · simp
  
/-- A command that is free to run runs its own part and completes with what that part answers. -/
theorem runMail_done {op : BitVec 16} {r : Req} {s t : State} {body : State → Res} {st : Byte} {data : List Byte} {d : Nat}
    (h : Ready op r s) (hb : body (s.running r) = .done t st data d) : runMail op r s body = finish op r st data d t := by
  unfold runMail
  simp only [h.1, if_true, h.2.1, h.2.2]
  change (body (s.running r)).ends op r = _
  rw [hb]
  rfl

/-- A command that is free to run and does not complete at once leaves the state that its own part answers. -/
theorem runMail_held {op : BitVec 16} {r : Req} {s t : State} {body : State → Res}
    (h : Ready op r s) (hb : body (s.running r) = .held t) : runMail op r s body = t := by
  unfold runMail
  simp only [h.1, if_true, h.2.1, h.2.2]
  change (body (s.running r)).ends op r = _
  rw [hb]
  rfl

/-- A command whose preceding checks fail completes with the status of the first that fails. -/
theorem runMail_fails {op : BitVec 16} {r : Req} {s : State} {body : State → Res} {st : Byte}
    (h1 : s.opReady op r = true) (h2 : s.preFail op r = some st) : runMail op r s body = finishHere op r st [] 0 s := by
  unfold runMail
  simp only [h1, if_true, h2]

/-- A command that is free to run and whose own part answers a status at once completes with it. -/
theorem completes_done {c : Instr} {op : BitVec 16} {r : Req} {s t : State} {body : State → Res} {st : Byte}
    {data : List Byte} {d : Nat} (h : Ready op r s) (hc : exec c s = .next (runMail op r s body))
    (hb : body (s.running r) = .done t st data d) (hl : t.linkOk r.obj = s.linkOk r.obj)
    (hk : t.completions = s.completions) (hn : t.sys.now = s.sys.now) :
    Completes c op r st data d s t := by
  refine ⟨_, hc, ?_⟩
  rw [runMail_done h hb]
  have := finish_completed op r st data d t (hl.trans h.linkOk)
  exact ⟨by rw [this.1, hk, hn], this.2⟩

end Sys2Proof.Machine
end

