-- ==== Sys2Proof/Laws/Memory.lean ====
section
/-! SUPPORT. The MRAM: reads after writes, and that every write keeps the canonical form. -/

namespace Sys2Proof.Machine

/-- Every address of the list is above a bound. -/
def Memory.above (a : Nat) (m : List Host.Cell) : Prop := ∀ e ∈ m, a < e.1

theorem Memory.wf_cons (a : Nat) (v : Byte) (m : List Host.Cell) :
    Memory.wf ((a, v) :: m) = true ↔ v ≠ mramInit a ∧ Memory.above a m ∧ Memory.wf m = true := by
  induction m generalizing a v with
  | nil => simp [Memory.wf, Memory.above]
  | cons e rest ih =>
    obtain ⟨b, w⟩ := e
    simp only [Memory.wf, Bool.and_eq_true, bne_iff_ne, ne_eq, decide_eq_true_eq, ih]
    constructor
    · rintro ⟨⟨hv, hab⟩, hw, hb, hr⟩
      refine ⟨hv, ?_, hw, hb, hr⟩
      intro x hx
      simp only [List.mem_cons] at hx
      rcases hx with rfl | hx
      · exact hab
      · exact hab.trans (hb x hx)
    · rintro ⟨hv, ha, hw, hb, hr⟩
      exact ⟨⟨hv, ha (b, w) (by simp)⟩, hw, hb, hr⟩

theorem mramWrite_above {b a : Nat} {v : Byte} {m : List Host.Cell} (h : Memory.above b m) (ha : b < a) :
    Memory.above b (mramWrite m a v) := by
  induction m with
  | nil => unfold mramWrite; split <;> simp [Memory.above, ha]
  | cons e rest ih =>
    obtain ⟨k, w⟩ := e
    have hk : b < k := h (k, w) (by simp)
    have hr : Memory.above b rest := fun x hx => h x (by simp [hx])
    have hi := ih hr
    unfold mramWrite
    split
    · split
      · exact h
      · intro x hx
        simp only [List.mem_cons] at hx
        rcases hx with rfl | rfl | hx
        · exact ha
        · exact hk
        · exact hr x hx
    · split
      · split
        · exact hr
        · intro x hx
          simp only [List.mem_cons] at hx
          rcases hx with rfl | hx
          · exact ha
          · exact hr x hx
      · intro x hx
        simp only [List.mem_cons] at hx
        rcases hx with rfl | hx
        · exact hk
        · exact hi x hx

/-- A write keeps the canonical form. -/
theorem mramWrite_wf {a : Nat} {v : Byte} {m : List Host.Cell} (h : Memory.wf m = true) :
    Memory.wf (mramWrite m a v) = true := by
  induction m with
  | nil =>
    unfold mramWrite
    split
    · rfl
    · simpa [Memory.wf]
  | cons e rest ih =>
    obtain ⟨k, w⟩ := e
    rw [Memory.wf_cons] at h
    obtain ⟨hw, hk, hr⟩ := h
    unfold mramWrite
    split
    · split
      · rw [Memory.wf_cons]; exact ⟨hw, hk, hr⟩
      · rw [Memory.wf_cons, Memory.wf_cons]
        refine ⟨by assumption, ?_, hw, hk, hr⟩
        intro x hx
        simp only [List.mem_cons] at hx
        rcases hx with rfl | hx
        · assumption
        · exact Nat.lt_trans (by assumption) (hk x hx)
    · split
      · subst_vars
        split
        · exact hr
        · rw [Memory.wf_cons]; exact ⟨by assumption, hk, hr⟩
      · rw [Memory.wf_cons]
        exact ⟨hw, mramWrite_above hk (by omega), ih hr⟩

/-- A block write keeps the canonical form. -/
theorem mramStore_wf {a : Nat} {l : List Byte} {m : List Host.Cell} (h : Memory.wf m = true) :
    Memory.wf (mramStore m a l) = true := by
  induction l generalizing a m with
  | nil => exact h
  | cons v rest ih => exact ih (mramWrite_wf h)

/-- An address below every listed one reads as nothing written. -/
theorem mramRead_above {a : Nat} {m : List Host.Cell} (h : Memory.above a m) : mramRead m a = mramInit a := by
  induction m with
  | nil => rfl
  | cons e rest ih =>
    obtain ⟨k, w⟩ := e
    have hk : a < k := h (k, w) (by simp)
    unfold mramRead
    rw [if_neg (by omega)]
    exact ih (fun x hx => h x (by simp [hx]))

/-- A read after a write of the same byte gives the value written, of another byte what stood there. -/
theorem mramRead_write {a b : Nat} {v : Byte} {m : List Host.Cell} (h : Memory.wf m = true) :
    mramRead (mramWrite m a v) b = if b = a then v else mramRead m b := by
  induction m with
  | nil =>
    unfold mramWrite
    split
    · split
      · subst_vars; rfl
      · rfl
    · by_cases hb : b = a
      · simp [mramRead, hb]
      · simp [mramRead, hb, Ne.symm hb]
  | cons e rest ih =>
    obtain ⟨k, w⟩ := e
    rw [Memory.wf_cons] at h
    obtain ⟨hw, hk, hr⟩ := h
    unfold mramWrite
    split
    · rename_i hak
      have hab : Memory.above a ((k, w) :: rest) := by
        intro x hx
        simp only [List.mem_cons] at hx
        rcases hx with rfl | hx
        · exact hak
        · exact Nat.lt_trans hak (hk x hx)
      split
      · split
        · subst_vars; exact mramRead_above hab
        · rfl
      · by_cases hb : b = a
        · simp [mramRead, hb]
        · simp [mramRead, hb, Ne.symm hb]
    · split
      · subst_vars
        split
        · split
          · subst_vars; exact mramRead_above hk
          · rename_i hb
            simp [mramRead, Ne.symm hb]
        · by_cases hb : b = k
          · simp [mramRead, hb]
          · simp [mramRead, hb, Ne.symm hb]
      · rename_i h1 h2
        by_cases hbk : b = k
        · have : b ≠ a := by omega
          subst hbk
          simp [mramRead, this]
        · have hkb : ¬ k = b := fun e => hbk e.symm
          simp only [mramRead, if_neg hkb, ih hr]

/-- A read after a block write gives the block's byte inside it, what stood there outside. -/
theorem mramRead_store {a b : Nat} {l : List Byte} {m : List Host.Cell} (h : Memory.wf m = true) :
    mramRead (mramStore m a l) b = if a ≤ b ∧ b < a + l.length then l.getD (b - a) 0 else mramRead m b := by
  induction l generalizing a m with
  | nil => simp [mramStore]
  | cons v rest ih =>
    rw [mramStore, ih (mramWrite_wf h), mramRead_write h]
    by_cases hb : b = a
    · subst hb; simp
    · by_cases h1 : a + 1 ≤ b ∧ b < a + 1 + rest.length
      · have h2 : a ≤ b ∧ b < a + (v :: rest).length := by simp; omega
        have : b - a = (b - (a + 1)) + 1 := by omega
        rw [if_pos h1, if_pos h2, this]; rfl
      · have h2 : ¬(a ≤ b ∧ b < a + (v :: rest).length) := by simp; omega
        rw [if_neg h1, if_neg h2, if_neg hb]

end Sys2Proof.Machine
end

