-- ==== Sys2Proof/Laws/Output.lean ====
section
/-! SUPPORT. What a sequencer evaluation and the fixing of a status can do: they write outputs, level 5, held actions, ramps and
trim sessions, journals, slots, waiting heads and completions, nothing else. -/

namespace Sys2Proof.Machine

/-- A channel without what an evaluation decides (R35 to R38, R137, R149, R189, R190, R202, R204). -/
def Chan.settings (ch : Chan) : Chan :=
  { ch with
    level := 0
    out := .off
    conducting := false
    l5 := .off
    acts := []
    sw := { ch.sw with limiting := false, edgeFrom := 0, lrnDone := false, onSince := 0, offSince := 0 }
    loop := { ch.loop with rampFrom := 0, rampAt := 0, session := .none, alarm := false, fallback := false } }

/-- A Holm without its journal, what waits in it for the link, and the transitions noted (R30, R110, R195). -/
def Holm.settings (h : Holm) : Holm := { h with linkOp := 0, journal := [], held := [], edges := [], allOff := none }

/-- Nothing changed but what evaluations decide and completions write. -/
structure OutputsOnly (s t : State) : Prop where
  sys : t.sys = s.sys
  chan : ∀ c : Ch, (t.ch c).settings = (s.ch c).settings
  holm : ∀ b : Bank, (t.holm b).settings = (s.holm b).settings
  port : ∀ p : Port, { t.port p with slots := [] } = { s.port p with slots := [] }
  badger : { t.badger with heads := [] } = { s.badger with heads := [] }
  den : t.den = s.den
  crc : t.crc = s.crc
  upd : t.upd = s.upd
  sec : t.sec = s.sec
  legal : t.legal = s.legal
  mram : t.mram = s.mram
  pending : t.pending = s.pending

theorem OutputsOnly.refl (s : State) : OutputsOnly s s :=
  ⟨rfl, fun _ => rfl, fun _ => rfl, fun _ => rfl, rfl, rfl, rfl, rfl, rfl, rfl, rfl, rfl⟩

theorem OutputsOnly.trans {s t u : State} (a : OutputsOnly s t) (b : OutputsOnly t u) : OutputsOnly s u :=
  ⟨b.sys.trans a.sys, fun c => (b.chan c).trans (a.chan c), fun c => (b.holm c).trans (a.holm c),
   fun p => (b.port p).trans (a.port p), b.badger.trans a.badger, b.den.trans a.den, b.crc.trans a.crc, b.upd.trans a.upd,
   b.sec.trans a.sec, b.legal.trans a.legal, b.mram.trans a.mram, b.pending.trans a.pending⟩

theorem overAll_outputs {α : Type} {l : List α} {f : α → State → State} (h : ∀ a s, OutputsOnly s (f a s)) (s : State) :
    OutputsOnly s (overAll l f s) := by
  unfold overAll
  induction l generalizing s with
  | nil => exact .refl s
  | cons a l ih => exact (h a s).trans (ih (f a s))

theorem setCh_outputs (c : Ch) (f : Chan → Chan) (s : State) (h : ∀ ch : Chan, (f ch).settings = ch.settings) :
    OutputsOnly s (s.setCh c f) := by
  refine ⟨rfl, fun d => ?_, fun _ => rfl, fun _ => rfl, rfl, rfl, rfl, rfl, rfl, rfl, rfl, rfl⟩
  by_cases e : d = c
  · subst e; rw [State.setCh_ch_self]; exact h _
  · rw [State.setCh_ch_ne s c f d e]

theorem setHolm_outputs (b : Bank) (f : Holm → Holm) (s : State) (h : ∀ x : Holm, (f x).settings = x.settings) :
    OutputsOnly s (s.setHolm b f) := by
  refine ⟨rfl, fun _ => rfl, fun d => ?_, fun _ => rfl, rfl, rfl, rfl, rfl, rfl, rfl, rfl, rfl⟩
  by_cases e : d = b
  · subst e; rw [State.setHolm_holm_self]; exact h _
  · rw [State.setHolm_holm_ne s b f d e]

theorem setSlot_outputs (p : Port) (r : Req) (f : Slot → Slot) (s : State) : OutputsOnly s (setSlot p r f s) := by
  refine ⟨rfl, fun _ => rfl, fun _ => rfl, fun q => ?_, rfl, rfl, rfl, rfl, rfl, rfl, rfl, rfl⟩
  by_cases e : q = p
  · subst e; simp only [setSlot, State.setPort_port_self]
  · simp only [setSlot, State.setPort_port_ne s p _ q e]

theorem finishHere_outputs (op : BitVec 16) (r : Req) (st : Byte) (data : List Byte) (delay : Nat) (s : State) :
    OutputsOnly s (finishHere op r st data delay s) := by
  have h := setSlot_outputs r.port r (fun sl => { sl with
    st := .executing
    deferAt := none
    defTicks := sl.defTicks + (match sl.deferAt with | some t => s.sys.now - t | none => 0) }) s
  exact ⟨h.sys, h.chan, h.holm, h.port, h.badger, h.den, h.crc, h.upd, h.sec, h.legal, h.mram, h.pending⟩

theorem finish_outputs (op : BitVec 16) (r : Req) (st : Byte) (data : List Byte) (delay : Nat) (s : State) :
    OutputsOnly s (finish op r st data delay s) := by
  unfold finish
  split
  · rename_i b _
    have h1 := setHolm_outputs b (fun h => { h with linkOp := h.linkOp + 1, journal := ((h.linkOp, st) :: h.journal).take 256 })
      s (fun _ => rfl)
    dsimp only
    split
    · exact h1.trans (finishHere_outputs _ _ _ _ _ _)
    · exact h1.trans (setHolm_outputs b _ _ (fun _ => rfl))
  · exact finishHere_outputs _ _ _ _ _ _

theorem endTrim_outputs (c : Ch) (s : State) : OutputsOnly s (endTrim c s) := by
  unfold endTrim
  split
  · exact .refl s
  · extract_lets s1 isT gone
    have h1 : OutputsOnly s s1 := setCh_outputs c _ s (fun _ => rfl)
    have h2 : OutputsOnly s1 (s1.setBadger (fun b => { b with heads := b.heads.filter (fun h => !isT h) })) :=
      ⟨rfl, fun _ => rfl, fun _ => rfl, fun _ => rfl, rfl, rfl, rfl, rfl, rfl, rfl, rfl, rfl⟩
    refine (h1.trans h2).trans (overAll_outputs (fun h u => ?_) _)
    split
    · exact finish_outputs _ _ _ _ _ _
    · exact .refl u

theorem noteEdge_outputs (b : Bank) (t : Nat) (on : Bool) (s : State) : OutputsOnly s (noteEdge b t on s) :=
  setHolm_outputs b _ s (fun _ => rfl)

theorem ite_outputs {p : Prop} [Decidable p] {s t u : State} (h1 : OutputsOnly s t) (h2 : OutputsOnly s u) :
    OutputsOnly s (if p then t else u) := by
  split
  · exact h1
  · exact h2

theorem OutputsOnly.lead {s t : State} (h : OutputsOnly s t) (c : Ch) : t.lead c = s.lead c := by
  have e : (t.ch c).paired = (s.ch c).paired :=
    show (t.ch c).settings.paired = (s.ch c).settings.paired from congrArg Chan.paired (h.chan c)
  unfold State.lead
  rw [e]

/-- One evaluation (R36) writes outputs only. -/
theorem evalOne_outputs (c : Ch) (s : State) : OutputsOnly s (evalOne c s) := by
  unfold evalOne
  extract_lets ch g now on ramp moved from_ s1 s2 s3
  have h1 : OutputsOnly s s1 := setCh_outputs c _ s (fun x => by dsimp only [Chan.settings]; split <;> rfl)
  have h2 : OutputsOnly s s2 := ite_outputs (h1.trans (noteEdge_outputs _ _ _ _)) h1
  have h3 : OutputsOnly s s3 := ite_outputs (h2.trans (endTrim_outputs _ _)) h2
  exact ite_outputs (h3.trans (setCh_outputs _ _ _ (fun _ => rfl))) h3

theorem evalOut_outputs (c : Ch) (s : State) : OutputsOnly s (evalOut c s) := overAll_outputs evalOne_outputs s

theorem evalBank_outputs (b : Bank) (s : State) : OutputsOnly s (evalBank b s) := overAll_outputs evalOne_outputs s

theorem setL5_outputs (c : Ch) (d : Demand) (s : State) : OutputsOnly s (setL5 c d s) :=
  overAll_outputs (f := fun m s => s.setCh m (fun ch => { ch with l5 := ch.putL5 d }))
    (fun m u => setCh_outputs m _ u (fun _ => rfl)) s

theorem dropL5_outputs (c : Ch) (s : State) : OutputsOnly s (dropL5 c s) :=
  overAll_outputs (f := fun m s => s.setCh m (fun ch => { ch with
      l5 := ch.putL5 (deenergised ch.mode)
      loop := { ch.loop with alarm := false, fallback := false } }))
    (fun m u => setCh_outputs m _ u (fun _ => rfl)) s

theorem finish_chans (op : BitVec 16) (r : Req) (st : Byte) (data : List Byte) (delay : Nat) (s : State) :
    (finish op r st data delay s).chans = s.chans := by
  unfold finish
  split
  · dsimp only
    split <;> rfl
  · rfl

theorem overAll_ch {α : Type} {l : List α} {f : α → State → State} {d : Ch} (h : ∀ a s, (f a s).ch d = s.ch d) (s : State) :
    (overAll l f s).ch d = s.ch d := by
  unfold overAll
  induction l generalizing s with
  | nil => rfl
  | cons a l ih => exact (ih (f a s)).trans (h a s)

theorem finish_ch (op : BitVec 16) (r : Req) (st : Byte) (data : List Byte) (delay : Nat) (s : State) (d : Ch) :
    (finish op r st data delay s).ch d = s.ch d := by
  unfold State.ch
  rw [finish_chans]

/-- Ending a trim session touches its own channel alone (R149). -/
theorem endTrim_ch_ne (c d : Ch) (s : State) (h : d ≠ c) : (endTrim c s).ch d = s.ch d := by
  unfold endTrim
  split
  · rfl
  · extract_lets s1 isT gone
    rw [overAll_ch]
    · exact State.setCh_ch_ne s c (fun ch => { ch with loop := { ch.loop with session := .none } }) d h
    · intro a u
      split
      · exact finish_ch _ _ _ _ _ _ _
      · rfl

/-- An evaluation of one channel leaves every channel but it and its leader as it was (R57). -/
theorem evalOne_ch_ne (c d : Ch) (s : State) (h1 : d ≠ c) (h2 : d ≠ s.lead c) : (evalOne c s).ch d = s.ch d := by
  unfold evalOne
  extract_lets ch g now on ramp moved from_ s1 s2 s3
  have e1 : s1.ch d = s.ch d := State.setCh_ch_ne s c _ d h1
  have e2 : s2.ch d = s.ch d := by
    simp only [s2]
    split
    · exact e1
    · exact e1
  have e3 : s3.ch d = s.ch d := by
    simp only [s3]
    split
    · exact (endTrim_ch_ne c d s2 h1).trans e2
    · exact e2
  have o1 : OutputsOnly s s1 := setCh_outputs c _ s (fun x => by dsimp only [Chan.settings]; split <;> rfl)
  have o2 : OutputsOnly s s2 := ite_outputs (o1.trans (noteEdge_outputs _ _ _ _)) o1
  have o3 : OutputsOnly s s3 := ite_outputs (o2.trans (endTrim_outputs _ _)) o2
  have hl : s3.lead c = s.lead c := o3.lead c
  split
  · rw [State.setCh_ch_ne _ _ _ _ (hl ▸ h2)]
    exact e3
  · exact e3

end Sys2Proof.Machine
end

