-- ==== Sys2Proof/Laws/Records.lean ====
section
/-! SUPPORT. What raising events and writing Den records can do: they write ports, the Den and its MRAM, nothing else. -/

namespace Sys2Proof.Machine

/-- Nothing but ports, the Den and the MRAM changed, and the MRAM stays canonical. -/
structure RecordsOnly (s t : State) : Prop where
  sys : t.sys = s.sys
  chans : t.chans = s.chans
  holms : t.holms = s.holms
  completions : t.completions = s.completions
  badger : t.badger = s.badger
  crc : t.crc = s.crc
  upd : t.upd = s.upd
  sec : t.sec = s.sec
  legal : t.legal = s.legal
  pending : t.pending = s.pending
  wf : Memory.wf s.mram = true → Memory.wf t.mram = true

theorem RecordsOnly.refl (s : State) : RecordsOnly s s := ⟨rfl, rfl, rfl, rfl, rfl, rfl, rfl, rfl, rfl, rfl, id⟩

theorem RecordsOnly.trans {s t u : State} (a : RecordsOnly s t) (b : RecordsOnly t u) : RecordsOnly s u :=
  ⟨b.sys.trans a.sys, b.chans.trans a.chans, b.holms.trans a.holms, b.completions.trans a.completions,
   b.badger.trans a.badger, b.crc.trans a.crc, b.upd.trans a.upd, b.sec.trans a.sec, b.legal.trans a.legal,
   b.pending.trans a.pending, fun h => b.wf (a.wf h)⟩

theorem setPort_records (p : Port) (f : PortSt → PortSt) (s : State) : RecordsOnly s (s.setPort p f) :=
  ⟨rfl, rfl, rfl, rfl, rfl, rfl, rfl, rfl, rfl, rfl, id⟩

theorem setDen_records (f : Den → Den) (s : State) : RecordsOnly s (s.setDen f) :=
  ⟨rfl, rfl, rfl, rfl, rfl, rfl, rfl, rfl, rfl, rfl, id⟩

theorem overAll_records {α : Type} {l : List α} {f : α → State → State} (h : ∀ a s, RecordsOnly s (f a s)) (s : State) :
    RecordsOnly s (overAll l f s) := by
  unfold overAll
  induction l generalizing s with
  | nil => exact .refl s
  | cons a l ih => exact (h a s).trans (ih (f a s))

theorem raiseOnce_records (src : Nat) (d : List Byte) (ts : Nat) (s : State) :
    RecordsOnly s (raiseOnce src d ts s).1 := overAll_records (fun p s => setPort_records p _ s) s

theorem noteDrop_records (p : Port) (s : State) : RecordsOnly s (noteDrop p s) := by
  unfold noteDrop
  split
  · split
    · exact .refl s
    · exact (setPort_records p _ s).trans (raiseOnce_records _ _ _ _)
  · exact (setPort_records p _ s).trans (raiseOnce_records _ _ _ _)

theorem raiseAt_records (src : Nat) (d : List Byte) (ts : Nat) (s : State) : RecordsOnly s (raiseAt src d ts s) :=
  (raiseOnce_records src d ts s).trans (overAll_records (fun p s => noteDrop_records p s) _)

theorem raise_records (src : Nat) (d : List Byte) (s : State) : RecordsOnly s (raise src d s) :=
  raiseAt_records src d _ s

theorem flushPut_wf {s : State} {a : Flushed} (r : DenRec) (at_ : Nat) (good bad : Den) (h : Memory.wf a.mram = true) :
    Memory.wf (flushPut s a r at_ good bad).mram = true := by
  simp only [flushPut]
  exact mramStore_wf h

theorem flushOne_wf {s : State} {a : Flushed} (r : DenRec) (h : Memory.wf a.mram = true) :
    Memory.wf (flushOne s a r).mram = true := by
  unfold flushOne
  split
  · exact flushPut_wf r _ _ _ h
  · split
    · exact flushPut_wf r _ _ _ h
    · exact h

theorem flushFold_wf (s : State) (l : List DenRec) (a : Flushed) (h : Memory.wf a.mram = true) :
    Memory.wf (l.foldl (flushOne s) a).mram = true := by
  induction l generalizing a with
  | nil => exact h
  | cons r l ih => exact ih _ (flushOne_wf r h)

theorem flushAll_wf (s : State) (h : Memory.wf s.mram = true) : Memory.wf (flushAll s).mram = true :=
  flushFold_wf s s.den.buf _ h

theorem noteLeg90_records (s : State) : RecordsOnly s (noteLeg90 s) := by
  unfold noteLeg90
  split
  · exact (setDen_records _ s).trans (raise_records _ _ _)
  · exact .refl s

theorem raiseIf_records (c : Bool) (n : Nat) (d : List Byte) (u : State) : RecordsOnly u (if c = true then raise n d u else u) := by
  split
  · exact raise_records _ _ _
  · exact .refl _

theorem flushBuf_records (s : State) : RecordsOnly s (flushBuf s) := by
  unfold flushBuf
  split
  · exact .refl s
  · have h1 : RecordsOnly s { s with
        den := { (flushAll s).d with lastFlush := s.sys.now }
        mram := (flushAll s).mram } :=
      ⟨rfl, rfl, rfl, rfl, rfl, rfl, rfl, rfl, rfl, rfl, flushAll_wf s⟩
    exact h1.trans ((raiseIf_records _ 227 [] _).trans ((raiseIf_records _ 233 [] _).trans (noteLeg90_records _)))

theorem noteDenDrop_records (n : Nat) (s : State) : RecordsOnly s (noteDenDrop n s) := by
  unfold noteDenDrop
  split
  · exact .refl s
  · have h1 := setDen_records (fun d => { d with ndrop := d.ndrop + n, ndropTotal := d.ndropTotal + n }) s
    refine h1.trans ?_
    dsimp only
    split
    · split
      · exact .refl _
      · exact (setDen_records _ _).trans (raise_records _ _ _)
    · exact (setDen_records _ _).trans (raise_records _ _ _)

theorem makeRoom_records (n m sev : Nat) (s : State) : RecordsOnly s (makeRoom n m sev s) := by
  unfold makeRoom
  split
  · exact .refl s
  · dsimp only
    split
    · exact flushBuf_records s
    · exact (flushBuf_records s).trans ((setDen_records _ _).trans (noteDenDrop_records _ _))

theorem putDen_records (d : Den) (s : State) : RecordsOnly s { s with den := d } :=
  ⟨rfl, rfl, rfl, rfl, rfl, rfl, rfl, rfl, rfl, rfl, id⟩

/-- The next sequence number takes from the Den and may tell of a failed write of the high-water mark (R363, R383). -/
theorem nextSeq_records (s : State) : RecordsOnly s (nextSeq s).2 := by
  unfold nextSeq
  dsimp only
  split
  · exact putDen_records _ s
  · exact (putDen_records _ s).trans (raise_records _ _ _)

theorem enterRec_records (typ : BitVec 16) (sev : Nat) (ovfl : Bool) (payload : List Byte) (rep last : Nat) (s : State) :
    RecordsOnly s (enterRec typ sev ovfl payload rep last s) := by
  unfold enterRec
  dsimp only
  refine (makeRoom_records (s.den.recBytes payload rep ovfl) (52 + (pad4 payload).length) sev s).trans ?_
  generalize makeRoom (s.den.recBytes payload rep ovfl) (52 + (pad4 payload).length) sev s = u
  refine (nextSeq_records u).trans ?_
  generalize (if (!ovfl && (decide (rep > 0) || decide (u.den.ndrop > 0))) = true then _ else _) = trl
  repeat' split
  all_goals first
    | exact (setDen_records _ _).trans (flushBuf_records _)
    | exact setDen_records _ _
    | exact noteDenDrop_records _ _

theorem mergeOrEnter_records (typ : BitVec 16) (sev : Nat) (payload : List Byte) (u : State) :
    RecordsOnly u (match mergeRec typ sev payload u.sys.now u.den.buf with
      | some l =>
        let s := (nextSeq u).2.setDen (fun d => { d with buf := l })
        if s.den.bufBytes ≥ 8192 then flushBuf s else s
      | none => enterRec typ sev false payload 0 0 u) := by
  split
  · dsimp only
    have h := (nextSeq_records u).trans (setDen_records (fun d => { d with buf := ‹List DenRec› }) (nextSeq u).2)
    split
    · exact h.trans (flushBuf_records _)
    · exact h
  · exact enterRec_records _ _ _ _ _ _ _

theorem denWrite_records (typ : BitVec 16) (sev : Nat) (payload : List Byte) (s : State) :
    RecordsOnly s (denWrite typ sev payload s) := by
  unfold denWrite
  cases h : s.sys.vddOk
  · exact .refl s
  · by_cases hb : s.den.bufBytes + 16 ≤ s.badger.bufLimit
    · simp only [Bool.not_true, Bool.false_eq_true, if_false, hb, if_true]
      exact mergeOrEnter_records typ sev payload s
    · simp only [Bool.not_true, Bool.false_eq_true, if_false, hb]
      exact (flushBuf_records s).trans (mergeOrEnter_records typ sev payload (flushBuf s))

theorem denEvent_records (sev : Nat) (src : Byte) (obj : BitVec 16) (d : List Byte) (s : State) :
    RecordsOnly s (denEvent sev src obj d s) := denWrite_records _ _ _ s

theorem violation_records (p : Port) (domain code : Byte) (s : State) : RecordsOnly s (violation p domain code s) := by
  unfold violation
  dsimp only
  split
  · split
    · exact setPort_records _ _ _
    · exact (setPort_records _ _ _).trans (enterRec_records _ _ _ _ _ _ _)
  · exact (setPort_records _ _ _).trans (enterRec_records _ _ _ _ _ _ _)

theorem legalEnter_records (x : LegalRec) (lec reserve : Bool) (s : State) : RecordsOnly s (legalEnter x lec reserve s) := by
  unfold legalEnter
  dsimp only
  generalize (if lec = true then s.den.lec + 1 else s.den.lec) = l
  split
  · exact (nextSeq_records s).trans ((setDen_records _ _).trans (flushBuf_records _))
  · exact (setDen_records _ s).trans ((enterRec_records _ _ _ _ _ _ _).trans (raise_records _ _ _))

theorem flush_records (s : State) : RecordsOnly s (flush s) := by
  unfold flush
  dsimp only
  split
  · exact flushBuf_records s
  · exact (flushBuf_records s).trans ((setDen_records _ _).trans (overAll_records (fun x s => legalEnter_records x _ _ s) _))

theorem legalWrite_records (typ : BitVec 16) (sev : Nat) (content : List Byte) (port : Option Port) (lec reserve : Bool)
    (s : State) : RecordsOnly s (legalWrite typ sev content port lec reserve s) := by
  unfold legalWrite
  dsimp only
  generalize (if s.den.legalFits (content.length + 40) reserve then sev else 5) = v
  split
  · exact (makeRoom_records _ _ v s).trans (setDen_records _ _)
  · exact (makeRoom_records _ _ v s).trans (legalEnter_records _ _ _ _)

/-- While the link is up and Mainland powered, a notice writes records only; otherwise it waits in its Holm. -/
theorem notify_live (b : Bank) (src : Nat) (d : List Byte) (den : Option Nat) (obj : BitVec 16) (s : State)
    (h1 : (s.holm b).link = true) (h2 : s.sys.vddOk = true) : RecordsOnly s (notify b src d den obj s) := by
  unfold notify
  simp only [h1, h2, Bool.and_self, if_true]
  cases den with
  | some sev => exact (raiseAt_records src d _ s).trans (denEvent_records _ _ _ _ _)
  | none => exact raiseAt_records src d _ s

end Sys2Proof.Machine
end

