-- ==== Sys2Proof/WellFormed.lean ====
section
/-! DEFINITION. Well-formed commands: the sizes and ranges that the spec gives a command's operands before any rule judges
them. -/

namespace Sys2Proof

/-- A request as an accepted command can carry it: TAG ≠ 0 and at most 8172 payload bytes (R301), an opcode's PRIO by R302. -/
def Req.wf (r : Req) : Bool := r.tag != 0 && r.payload.length ≤ 8172

/-- A frame carries 1 to 256 data bytes (chapter 11, Frames). -/
def dataWf (d : List Byte) : Bool := 1 ≤ d.length && d.length ≤ 256

/-- A housekeeping frame gives a value for every bank position (R16). -/
def HkFrame.wf (h : HkFrame) : Bool :=
  h.cur.length == 8 && h.vp.length == 8 && h.iexc.length == 8 && h.vn.length == 8 && h.leak.length == 8 &&
    h.loopI.length == 8 && h.loopV.length == 8 && h.ssup.length == 8 && h.vip.length == 8 && h.mirror.length == 8 && h.rails.length == 2 && h.cur.all (· < 65536)

/-- The real-time clock counts 48 bits (R380). -/
def ColdFacts.wf (f : ColdFacts) : Bool := decide (f.rtcCount < 2 ^ 48)

/-- The request of a mailbox row. -/
def Instr.req? : Instr → Option Req
  | .sysInfo r | .sysReset r | .sysTsync r | .sysWdog r | .sysClock r | .chMode r _ | .chInfo r | .chMeas r | .chDiag r
  | .chPlan r | .chStream r | .chPair r | .chUnpair r | .chInput r | .chCount r | .chField r | .chSafe r | .chBmap r
  | .outSet r _ | .outProt r | .outWire r | .outFuse r | .outClear r | .outPgen r | .outDiag r | .thrSet r | .thrGet r
  | .thrArm r | .thrDisarm r | .thrStab r | .fltLoad r | .fltRom r | .fltSwap r | .loopCfg r | .loopSet r | .loopTrim r
  | .mdmCfg r | .mdmSend r | .mdmRead r | .mdmReply r | .bdgSet r | .bdgQuery r | .bdgShed r | .denSnap r | .denRead r
  | .denClear r | .crcCfg r | .crcRun r | .crcSave r | .crcLoad r | .crcRead r | .updBegin r | .updChunk r | .updVerify r
  | .updActivate r | .updConfirm r | .updStatus r | .secAttest r | .secCert r | .secOwnerkey r | .ownClaim r
  | .ownRelease r | .ownResume r | .ownQuery r | .lglGet r | .lglDeclare r | .opQuery r | .opAbort r | .opRelease r
  | .opFetch r => some r
  | _ => none

/-- The check of a whole command. -/
def Instr.wf (i : Instr) : Bool :=
  match i with
  | .cmdq _ _ d => dataWf d
  | .rspq _ _ n => 1 ≤ n && n ≤ 256
  | .devtime _ _ a n _ => 1 ≤ n && n ≤ 256 && 0x60 ≤ a.toNat && a.toNat ≤ 0x67
  | .pimage _ _ a n _ => 1 ≤ n && n ≤ 256 && 0x80 ≤ a.toNat && a.toNat ≤ 0x9F
  | .evpend _ _ k d => dataWf d && k.val + d.length ≤ 32
  | .opwindow _ _ a d => dataWf d && (a == 0x56 || a == 0x57)
  | .chen _ _ d => dataWf d && d.length ≤ 16
  | .registerWrite _ _ _ d => dataWf d
  | .chainFrame _ _ sl => sl.length == 7
  | .housekeepingFrame _ h => h.wf
  | .coldStart f => f.wf
  | .failedStart x => x.facts.wf
  | i => match i.req? with
    | some r => r.wf
    | none => true

end Sys2Proof
end

