-- ==== Sys2Proof/Tests/Slice0.lean ====
section
/-! SUPPORT. Small tests: the check on terms, and for every statement a concrete state and operands that meet its hypotheses,
with what the rules say of them. Fixed values only. -/

namespace Sys2Proof.Tests
open Sys2Proof Sys2Proof.Machine
set_option Elab.async false

/-- A request of port A with TAG 1. -/
def rq (obj : BitVec 16) (pl : List Byte) : Req := ⟨0, 1, 0, 0, false, false, 0, obj, pl⟩
/-- The state that an outcome answers. -/
def res (o : Host.Outcome State Fault Refusal) : State := match o with | .next t => t | _ => State.reset
/-- The state after a command. -/
def run (c : Instr) (s : State) : State := res (exec c s)
/-- A channel at reset with microcode of version 1. -/
def ch0 : Chan := { Chan.reset with ucode := ⟨1, []⟩ }
/-- The reset state without what the implementation fixes: the GENESIS record's digest and the factory image. -/
def plain : State := { State.reset with
  chans := Vector.replicate 16 ch0
  den := { Den.reset with legal := [], lastLeg := firstStartRec }
  upd := { Upd.reset with info := #v[some ⟨1, 1, 1, [], []⟩, none], mdig := [] } }
/-- Readings that have stood for 100 ms. -/
def sup (vf gnd : Int) : SupplyRead := SupplyRead.mk vf gnd 1000000
def pin (mv : Int) : PinRead := PinRead.mk mv 1000000
def pinAt (level : Bool) : PinHeld := PinHeld.mk level 1000000
def pe (mv : Int) (ns : Nat) : PinEdge := PinEdge.mk mv ns
/-- The same with port A owning everything. -/
def owned : State := { plain with
  chans := Vector.replicate 16 { ch0 with owner := some 0 }
  holms := Vector.replicate 2 { Holm.reset with owner := some 0 }
  badger := { Badger.reset with owner := some 0 }
  crc := Vector.replicate 4 { CrcUnit.reset with owner := some 0 } }
/-- CH0 in a mode. -/
def one (m : Mode) (f : Chan → Chan := id) : State := owned.setCh 0 (fun ch => f { ch with mode := m })
/-- Time of a state. -/
def atTime (n : Nat) (s : State) : State := s.setSys (fun y => { y with now := n })

/-- The ASCII bytes "123456789" (R342). -/
def digits : List Byte := [0x31, 0x32, 0x33, 0x34, 0x35, 0x36, 0x37, 0x38, 0x39]

/-- A completion with a status, a payload and a delay is on its way. -/
abbrev Comp (op : BitVec 16) (r : Req) (st : Byte) (data : List Byte) (delay : Nat) (s t : State) : Prop :=
  Completion.mk r op (r.tag == 0) st data (s.sys.now + delay) ∈ t.completions
/-- Two states agree besides completions and link operation numbers (the fields of State.besides, one by one). -/
abbrev Agree (r : Req) (a b : State) : Prop :=
  a.sys = b.sys ∧ a.chans = b.chans ∧ (a.besides r).ports = (b.besides r).ports ∧ a.badger = b.badger ∧ a.den = b.den ∧
  a.crc = b.crc ∧ a.upd = b.upd ∧ a.sec = b.sec ∧ a.legal = b.legal ∧ a.mram = b.mram ∧ a.pending = b.pending ∧
  ∀ k : Bank, { a.holm k with linkOp := 0, journal := [] } = { b.holm k with linkOp := 0, journal := [] }
/-- The command completes with a status and a payload, and the state is that of e besides. -/
abbrev Done (c : Instr) (op : BitVec 16) (r : Req) (st : Byte) (data : List Byte) (s e : State) : Prop :=
  (run c s).completions = s.completions ++ [Completion.mk r op (r.tag == 0) st data s.sys.now] ∧
    Agree r (run c s) e
/-- No other channel changes. -/
abbrev Others (c : Ch) (s t : State) : Prop := ∀ d : Ch, d ≠ c → t.ch d = s.ch d

-- the check on terms: one ill-formed command for each condition
theorem test_wf_good : Instr.wf (.chInfo (rq 15 [])) = true ∧ Instr.wf (.cmdq 0 0 [0]) = true := by decide +kernel
theorem test_wf_tag : Instr.wf (.chInfo { rq 15 [] with tag := 0 }) = false := by decide +kernel
theorem test_wf_length : Instr.wf (.denClear (rq 0x0300 (List.replicate 8173 0))) = false := by decide +kernel
theorem test_wf_cmdq : Instr.wf (.cmdq 0 0 []) = false ∧ Instr.wf (.cmdq 0 0 (List.replicate 257 0)) = false := by decide +kernel
theorem test_wf_rspq : Instr.wf (.rspq 0 0 0) = false ∧ Instr.wf (.rspq 0 0 257) = false := by decide +kernel
theorem test_wf_devtime : Instr.wf (.devtime 0 0 0x68 1 true) = false ∧ Instr.wf (.devtime 0 0 0x60 0 true) = false := by decide +kernel
theorem test_wf_pimage : Instr.wf (.pimage 0 0 0xA0 1 true) = false ∧ Instr.wf (.pimage 0 0 0x7F 1 true) = false := by decide +kernel
theorem test_wf_evpend : Instr.wf (.evpend 0 0 31 [0, 0]) = false := by decide +kernel
theorem test_wf_opwindow : Instr.wf (.opwindow 0 0 0x58 [0]) = false := by decide +kernel
theorem test_wf_chen : Instr.wf (.chen 0 0 (List.replicate 17 0)) = false := by decide +kernel
theorem test_wf_registerWrite : Instr.wf (.registerWrite 0 0 0x50 []) = false := by decide +kernel
theorem test_wf_chainFrame : Instr.wf (.chainFrame 0 0 [0]) = false := by decide +kernel
/-- A housekeeping frame without readings but a junction, with ideal zero and reference conversions. -/
def flatAt (jun : Int) : HkFrame := HkFrame.mk (List.replicate 8 0) (List.replicate 8 0) (List.replicate 8 0) (List.replicate 8 0) 0 0 0 jun
  [0, 0] 0 65536 0 (List.replicate 8 0) (List.replicate 8 0) (List.replicate 8 0) (List.replicate 8 0) (List.replicate 8 0)
  (List.replicate 8 0) []
def flat : HkFrame := flatAt 0
theorem test_wf_frame : flat.wf = true ∧ Instr.wf (.housekeepingFrame 0 { flat with vp := [] }) = false ∧
    Instr.wf (.housekeepingFrame 0 { flat with cur := List.replicate 8 65536 }) = false := by decide +kernel
theorem test_wf_clock : Instr.wf (.coldStart (ColdFacts.mk 3300 100000 false false true 470 0 false (2 ^ 48) true false none)) = false := by decide +kernel

-- worked examples of the spec: check values of the presets (Table 1 of 13_check_value_units)
theorem test_presets : crcFinal 32 true 0xFFFFFFFF (crcFeed 32 0x04C11DB7 true 0xFFFFFFFF digits) = 0xCBF43926 ∧
    crc16 digits = 0x29B1 ∧ crc8 0xFF digits = 0x20 ∧ crc32c digits = 0xE3069283 := by decide +kernel
-- one check carried across two commands (13_check_value_units)
theorem test_crc_split :
    let s := run (.crcRun (rq 0x0402 ([0, 0, 0, 0] ++ le32 0 ++ le32 4 ++ le32 0 ++ digits.take 4))) owned
    let r := rq 0x0402 ([0x0D, 0, 0, 0] ++ le32 0 ++ le32 5 ++ le32 0xE3069283 ++ digits.drop 4); let t := run (.crcRun r) { s with completions := [] }
    (s.unit 2).ctx.open_ = true ∧ (s.unit 2).ctx.count = 4 ∧
    Comp 0x0A02 r stOK (le32 0xE3069283 ++ [1, 0, 0, 0] ++ le32 9 ++ [0, 0, 0, 0]) 0 s t := by decide +kernel
-- the worked transaction of 12_mailbox_operations
theorem test_worked_command : (commandBytes 0x0301 ⟨1, 0x0105, 0x2A, 0, false, false, 500, 4, [1, 0, 0, 0]⟩).take 20 =
    [0x01, 0x03, 0x00, 0x2A, 0x05, 0x01, 0x04, 0x00, 0x04, 0x00, 0xF4, 0x01, 0x01, 0x00, 0x00, 0x00, 0x01, 0x00, 0x00, 0x00] ∧
    foldIn 1 0 0x0105 0x2A 4 = [0x01, 0x00, 0x05, 0x01, 0x2A, 0x00, 0x04, 0x00] ∧
    foldIn 1 1 0x0105 0x2A 4 = [0x01, 0x01, 0x05, 0x01, 0x2A, 0x00, 0x04, 0x00] := by decide +kernel
-- trimming CH9 (06_loops_and_modem)
theorem test_worked_trim : dacCode (.user 3991200 20027400) 4000000 = 10690 ∧ dacCode (.user 3991200 20027400) 12000000 = 31975 ∧
    dacCode (.user 3991200 20027400) 20000000 = 53260 := by decide +kernel
-- switching a dosing channel, and two bridges (04_filter_chain): S = 35 and the group delays in ns
def romCh (e : Fin 16) (m0 : BitVec 8) : Chan :=
  let g : Stage := { Stage.reset with bankA := .rom e }
  { Chan.reset with mode := .brg, filt := { Filt.reset with s1 := g, s2 := g, s3 := g, sdecm1 := m0 } }
theorem test_worked_settle : (romCh 12 63).chain.settle false (fun _ => true) = 35 := by decide +kernel
theorem test_worked_delay : (gdNs (romCh 1 47) 24576000000).map ratRound = some 16420573 ∧
    (gdNs (romCh 11 47) 24576491520).map ratRound = some 2608021 := by decide +kernel
-- the valve on thin wire (08_load_switches): one second at 1 A and 50 °C case from 50 °C
theorem test_worked_wire : thetaTrip 0x0C000A00 = 60000000000000 := by decide +kernel

-- PrecedingChecksDecideAndChangeNothing: a wrong object, a missing ownership, a lost link
theorem test_preFail_range : let s := owned; let r := rq 0x0000 []
    (0x0101, Instr.sysInfo r) ∈ mailboxRows r ⟨[]⟩ ∧ s.opReady 0x0101 r = true ∧ s.preFail 0x0101 r = some stE_RANGE ∧
    Done (.sysInfo r) 0x0101 r stE_RANGE [] s s := by decide +kernel
theorem test_preFail_owner : let s := plain; let r := rq 0x0000 [1, 0, 0, 0]
    (0x0301, Instr.outSet r ⟨[]⟩) ∈ mailboxRows r ⟨[]⟩ ∧ s.opReady 0x0301 r = true ∧
    s.preFail 0x0301 r = some stE_OWNER ∧ Done (.outSet r ⟨[]⟩) 0x0301 r stE_OWNER [] s s := by decide +kernel
theorem test_preFail_link : let s := owned.setHolm 0 (fun h => { h with link := false }); let r := rq 0x0007 []
    objBank r.obj = some 0 ∧ (s.holm 0).link = false ∧ opAccepts 0x0202 r.obj = true ∧ s.recovery = false ∧
    s.lacksOwner 0x0202 r = false ∧ r.prio.toNat < 2 ∧ s.preFail 0x0202 r = some stE_STATE := by decide +kernel
-- IdleStepIsOneTick
theorem test_idle : plain.pending = [] ∧ (∀ c, (plain.ch c).changing = none ∧ (plain.ch c).brg.next = none) ∧
    (∀ b, plain.tbWaits b = false) ∧ plain.idleInside ∧ (res (step plain)).sys.now = 1 ∧ ((res (step plain)).holm 0).slave = 1 := by decide +kernel
theorem test_idle_unpowered : let s := plain.setSys (fun y => { y with vddOk := false }); let t := res (step s)
    s.pending = [] ∧ s.sys.vddOk = false ∧ t.sys.now = 1 ∧ t.sys.raw = 1 ∧ t.sys.slew = 0 ∧ s.idleInside := by decide +kernel
theorem test_idle_slew : let s := (plain.setSys (fun y => { y with raw := 999, slew := -5, now := 50 })).setHolm 0 (fun h => { h with rate := 3 })
    s.sys.vddOk = true ∧ (res (step s)).sys.now = 50 ∧ (res (step s)).sys.slew = -4 ∧ ((res (step s)).holm 0).slave = 4 := by decide +kernel
/-- A selected condition that rises starts a pulse of nIRQ of 1 µs; a pad that is low goes on. -/
theorem test_idle_irq : let s := plain.setPort 0 (fun q => { q with irqcfg := 0x88, rstd := true }); let t := res (step s)
    bit (s.port 0).irqcfg 7 = true ∧ (s.port 0).rdy = true ∧ s.irqCondition 0 = true ∧ (s.port 0).irqWas = false ∧
    (t.port 0).irqLow = 10 ∧ ((res (step t)).port 0).irqLow = 9 := by decide +kernel
-- StepRunsFrontCommand, CommandsLeaveTheQueue, StepKeepsMemoryCanonical, OrderingCodeIsFixedAndPaHasNoLegalPartition
theorem test_step_front : ∃ t, step { State.reset with pending := [.sysInfo (rq 0x0700 []), .badgerEvaluation] } = .next t ∧
    t.pending = [.badgerEvaluation] := ⟨_, rfl, rfl⟩
theorem test_memory_reset : Memory.wf State.reset.mram = true := rfl
theorem test_pa_state : let s := State.reset.setSys (fun y => { y with order := 2 })
    s.sys.order = 2 ∧ s.legal.port = none ∧ s.legal.sealed = false ∧ s.legal.mask = 0 ∧ ∃ t, step s = .next t :=
  ⟨rfl, rfl, rfl, rfl, _, rfl⟩

-- QueriesAnswerAndChangeNothing
theorem test_queries_ready :
    Ready 0x0101 (rq 0x0700 []) owned ∧ Ready 0x0202 (rq 0x000F []) owned ∧ chOf 0x000F = some 15 ∧
    Ready 0x0205 (rq 0x0101 []) owned ∧ holmOf 0x0101 = some 1 ∧ Ready 0x0D04 (rq 0x0700 []) owned ∧
    Ready 0x0E01 (rq 0x0700 []) owned ∧ Ready 0x0B06 (rq 0x0500 []) owned ∧ Ready 0x0A05 (rq 0x0403 []) owned ∧
    unitOf 0x0403 = some 3 ∧ Ready 0x0802 (rq 0x0200 []) owned := by decide +kernel
theorem test_chInfo : let r := rq 0x000F []; Done (.chInfo r) 0x0202 r stOK (infoData owned 15) owned owned ∧
    (infoData owned 15).take 3 = [0, 0, 0] := by decide +kernel
theorem test_crcRead : let r := rq 0x0403 []
    Done (.crcRead r) 0x0A05 r stOK (crcReadData owned 3) owned owned ∧ (crcReadData owned 3).length = 20 := by
  decide +kernel
theorem test_ownQuery : let r := rq 0x0700 []
    r.obj = 0x0700 ∧ r.payload = [] ∧ plain.opReady 0x0D04 r = true ∧ plain.recovery = false ∧ r.prio.toNat < 2 ∧
    Done (.ownQuery r) 0x0D04 r stOK (List.replicate 23 0xFF ++ [0]) plain plain := by decide +kernel
theorem test_lglGet_pa : let s := owned.setSys (fun y => { y with order := 2 }); Ready 0x0E01 (rq 0x0700 []) s ∧
    (∀ b ∈ lglData s, b = 0) := by decide +kernel
-- SysTsyncAndWdogSetTheirRegisters
theorem test_tsync : let r := rq 0x0700 (BitVec.ofNat 8 2 :: List.replicate 7 0 ++ le64 5); Ready 0x0103 r owned ∧
    Done (.sysTsync r) 0x0103 r stOK [] owned (owned.setSys (fun y => { y with tsyncMode := 2, tsyncTarget := 5 })) := by
  decide +kernel
def wdr (w : Nat) : Req := rq 0x0800 (le16 w ++ [0, 0])
theorem test_wdog_bounds : Ready 0x0104 (wdr 10) owned ∧
    Done (.sysWdog (wdr 10)) 0x0104 (wdr 10) stOK [] owned (owned.setPort 0 (fun q => { q with wdt := 10 })) ∧
    Done (.sysWdog (wdr 60000)) 0x0104 (wdr 60000) stOK [] owned (owned.setPort 0 (fun q => { q with wdt := 60000 })) := by
  decide +kernel
theorem test_wdog_range : Ready 0x0104 (wdr 9) owned ∧ Ready 0x0104 (wdr 60001) owned ∧
    Done (.sysWdog (wdr 9)) 0x0104 (wdr 9) stE_RANGE [] owned owned ∧
    Done (.sysWdog (wdr 60001)) 0x0104 (wdr 60001) stE_RANGE [] owned owned := by decide +kernel
-- SysResetSchedulesAStart
theorem test_sysReset : let r := rq 0x0700 [0x5A, 0xA5, 0, 0, 1, 0, 0, 0]; Ready 0x0102 r owned ∧
    Done (.sysReset r) 0x0102 r stOK [] owned (owned.setSys (fun y => { y with startDue := [StartDue.mk .warm 10000 2] })) := by
  decide +kernel
theorem test_sysReset_recovery : let s := owned.setSys (fun y => { y with start := .recovery })
    let r := rq 0x0700 [0x5A, 0xA5, 0, 0, 1, 0, 0, 0]; Ready 0x0102 r s ∧
    Done (.sysReset r) 0x0102 r stOK [] s (s.setSys (fun y => { y with startDue := [StartDue.mk .cold 10000 2] })) := by
  decide +kernel
-- SysClockReadsAndSets
theorem test_sysClock_read : let r := rq 0x0700 (List.replicate 16 0); Ready 0x0105 r owned ∧
    Done (.sysClock r) 0x0105 r stOK (clockData owned owned) owned owned := by decide +kernel
theorem test_sysClock_set : let r := rq 0x0700 (1 :: List.replicate 7 0 ++ le48 0xFFFFFFFFFFFF ++ [0, 0])
    Ready 0x0105 r owned ∧ (run (.sysClock r) owned).wall = 0xFFFFFFFFFFFF := by decide +kernel

-- ChannelWordsTakeEffect
theorem test_chStream : let s := owned; let r := rq 0x000F [0xE0, 0, 0, 0]; let w : Byte := 0xE0
    chOf r.obj = some 15 ∧ Ready 0x0206 r s ∧ w &&& 0x0F = 0 ∧ fld w 5 4 ≠ 3 ∧
    ((run (.chStream r) s).port 0).subs[15] = { StreamSub.reset with byte := 0xE0, needTime := true } := by decide +kernel
theorem test_chInput : let s := one .di; let w : BitVec 32 := 0x001C41F4; let r := rq 0 (le32 w.toNat)
    Ready 0x0209 r s ∧ s.isLegal 0 = false ∧ (s.ch 0).mode.isDigital = true ∧ w &&& 0xFC003E00#32 = 0 ∧
    fld w 25 24 ≠ 3 ∧ fld w 23 22 ≠ 3 ∧ fld w 15 14 < 2 ∧ fld w 8 0 ≤ 500 ∧ w &&& 0x03E30000#32 = 0 ∧ s.badger.heads = [] ∧
    Comp 0x0209 r stOK [] 0 s (run (.chInput r) s) ∧ Others 0 s (run (.chInput r) s) ∧
    ((run (.chInput r) s).ch 0).din = { Din.reset with word := w, state := true } := by decide +kernel
/-- Type 2 that is kept, with its higher sink current, and Type 2 that is new (priced: the Badger's ledger of clamp and dissipation). -/
theorem test_chInput_type2 : let s := one .di (fun ch => { ch with din := { ch.din with word := 0x00008000 } }); let w : BitVec 32 := 0x00048000
    let r := rq 0 (le32 w.toNat); fld w 15 14 = 2 ∧ fld (s.ch 0).din.word 15 14 = 2 ∧ Ready 0x0209 r s ∧
    ((run (.chInput r) s).ch 0).din.word = w ∧ ((run (.chInput (rq 0 (le32 0x0000C000))) s).completions.map (·.status)) = [stE_RANGE] := by
  decide +kernel
/-- A new DEB restarts the debounce interval (R166). -/
theorem test_chInput_deb : let s := (one .di).setSys (fun y => { y with raw := 77 }); let r := rq 0 (le32 1)
    Ready 0x0209 r s ∧ ((run (.chInput r) s).ch 0).din.debFrom = 77 ∧
    ((run (.chInput (rq 0 (le32 0x00080000))) s).ch 0).din.debFrom = 0 := by decide +kernel
theorem test_chInput_cnt : let s := one .cnt; let w : BitVec 32 := 0x02A00000; let r := rq 0 (le32 w.toNat)
    Ready 0x0209 r s ∧ (s.ch 0).mode.isDigital = true ∧ w &&& 0xFC003E00#32 = 0 ∧ fld w 25 24 ≠ 3 ∧ fld w 23 22 ≠ 3 ∧
    fld w 15 14 < 2 ∧ fld w 8 0 ≤ 500 ∧ w &&& 0x001C01FF#32 = 0 ∧ ((run (.chInput r) s).ch 0).din.word = w := by decide +kernel
theorem test_chCount : let s := one .cnt (fun ch => { ch with din := { ch.din with count := 7, ovf := true } })
    let fl : Byte := 6; let r := rq 0 (fl :: le32 0xFFFFFFFF)
    Ready 0x020A r s ∧ (s.ch 0).mode = .cnt ∧ fl &&& 0xF8 = 0 ∧ ¬(bit fl 0 = true ∧ bit fl 1 = true) ∧ bit fl 1 = true ∧
    ((run (.chCount r) s).ch 0).din = { Din.reset with count := 0xFFFFFFFF } := by decide +kernel
theorem test_chDiag : let s := one .brg; let w : BitVec 64 := 0x0000026400000000; let r := rq 0 (le64 w.toNat)
    Ready 0x0204 r s ∧ w &&& 0xFFFFF00000000000#64 = 0 ∧ 2 ≤ fld w 39 32 ∧ fld w 39 32 ≤ 100 ∧
    fld w 15 0 ≤ fld w 31 16 ∧ ((run (.chDiag r) s).ch 0).brg.diag = w := by decide +kernel
-- ChModeRebuildsItsChannel
theorem test_chMode : let s := one .off; let r := rq 0 [3, 0, 0, 0]; let t := run (.chMode r ⟨[]⟩) s
    Ready 0x0201 r s ∧ r.payload = [BitVec.ofNat 8 Mode.dout.code, 0, 0, 0] ∧ (s.ch 0).wiring = 0 ∧
    s.isLegal 0 = false ∧ (s.ch 0).paired = false ∧ bit (s.ch 0).bmap.bflags 7 = false ∧ (s.ch 0).acts = [] ∧
    modeFits s 0 .dout 0 = true ∧ s.coreDown 6 = false ∧ s.badger.heads = [] ∧ s.quietRates 0 = [] ∧ (t.ch 0).mode = .off ∧ (t.ch 0).owner = some 0 ∧
    (t.ch 0).changing = some (ModeChange.mk .dout 0 0x0201 (some r) 0 false) ∧ t.completions = [] := by decide +kernel
/-- A mode change under way at a time, with no other. -/
def changing (m : Mode) (entered : Bool) (raw : Nat) : State :=
  (one .di (fun ch => { ch with changing := some (ModeChange.mk m 0 0x0201 (some (rq 0 [])) 0 entered) })).setSys
    (fun y => { y with raw := raw })
abbrev Alone (s : State) : Prop := s.pending = [] ∧ (s.holm 0).link = true ∧ (s.ch 0).paired = false ∧
  (∀ d : Ch, d ≠ 0 → (s.ch d).changing = none) ∧ (∀ d : Ch, (s.ch d).brg.next = none) ∧ (∀ b, s.tbWaits b = false) ∧
  s.idleInside
/-- Table 6 of 02_channel_modes: the new mode 1.5 ms after t_d with its terminals at high impedance, the completion at 2.0 ms. -/
theorem test_modeEnters : let s := changing .dout false 14999; let t := res (step s)
    Alone s ∧ (s.ch 0).carrierMode = false ∧ (s.ch 0).acts = [] ∧ (t.ch 0).mode = .dout ∧ (t.ch 0).level = 5 ∧
    (t.ch 0).changing.map (·.entered) = some true ∧ s.highZ 0 .p = true ∧
    ((res (step (changing .dout false 14998))).ch 0).mode = .di := by decide +kernel
theorem test_modeDone : let s := changing .di true 19999; let o := changing .off false 14999
    Alone s ∧ Alone o ∧ (s.ch 0).acts = [] ∧ ((res (step s)).ch 0).changing = none ∧ (res (step s)).completions.map (·.status) = [stOK] ∧
    ((res (step o)).ch 0).mode = .off ∧ ((res (step o)).ch 0).changing = none ∧ (res (step o)).completions.map (·.status) = [stOK] := by
  decide +kernel
-- ChMeasSetsTheWord
def measuring (w : BitVec 32) : State :=
  (one .brg (fun ch => { ch with brg := { ch.brg with exOn := true, meas := w } })).setHolm 0 (fun h => { h with vx := 3500 })
/-- The premises of ChMeasSetsTheWord on CH0 at a time. -/
abbrev MeasReady (s : State) (w : BitVec 32) : Prop :=
  Ready 0x0203 (rq 0 (le32 w.toNat)) s ∧ s.isLegal 0 = false ∧ (s.ch 0).mode = .brg ∧ (s.ch 0).brg.exOn = true ∧
  measRaises .brg (s.ch 0).brg.meas w = false ∧ w &&& measReserved .brg = 0 ∧ measRange .brg w = true ∧
  (vexcMv w : Int) + 1000 ≤ (s.holm 0).vx ∧ (0 : Int) < (s.holm 0).vx ∧
  s.chainFits 0 ((s.ch 0).withMeas w) = true ∧ planOk s 0 w = true
def sendMeas (w : BitVec 32) : State → State := run (.chMeas (rq 0 (le32 w.toNat)))
-- DC: another RANGE stands at once and completes after 0.5 ms; the word in force completes at once; another BLANK waits for the
-- grid instant at 1/2400 s
theorem test_chMeas : let s := measuring 0x000203E0; let u := atTime 1 s
    MeasReady s 0x000213E0 ∧ ((sendMeas 0x000213E0 s).ch 0).brg.meas = 0x000213E0 ∧
    (sendMeas 0x000213E0 s).completions.map (·.tdone) = [5000] ∧ (sendMeas 0x000203E0 s).completions.map (·.tdone) = [0] ∧
    MeasReady u 0x000303E0 ∧ ((sendMeas 0x000303E0 u).ch 0).brg.meas = 0x000203E0 ∧
    ((sendMeas 0x000303E0 u).ch 0).brg.next = some (0x000303E0, 4167) ∧ (sendMeas 0x000303E0 u).completions.map (·.tdone) = [4167] := by
  decide +kernel
-- a carrier word is planned for a grid instant at least 1 ms ahead; a waiting word stands from its instant
theorem test_chMeas_carrier : let s := measuring 0x000203E0; let t := sendMeas 0x000203E2 s
    let u := (atTime 4166 s).setCh 0 (fun ch => { ch with brg := { ch.brg with next := some (0x000303E0, 4167) } })
    MeasReady s 0x000203E2 ∧ u.pending = [] ∧ u.idleInside ∧ (t.ch 0).brg.meas = 0x000203E0 ∧ (t.holm 0).pend.map (·.due) = some 133334 ∧ t.completions = [] ∧
    ((res (step u)).ch 0).brg.meas = 0x000303E0 ∧ ((res (step (atTime 4165 u))).ch 0).brg.meas = 0x000203E0 := by decide +kernel
-- PairingSharesAndDividesSettings
def twin (f : Chan → Chan) (g : Chan → Chan) : State :=
  (one .dout f).setCh 1 (fun ch => g { ch with mode := .dout })
theorem test_chPair : let s := twin (fun ch => { ch with level := 5 }) (fun ch => { ch with level := 5, sw := { ch.sw with theta := 26000000000000 } })
    let r := rq 0 []; let t := run (.chPair r) s
    chOf r.obj = some 0 ∧ partnerOf 0 = 1 ∧ Ready 0x0207 r s ∧ (s.ch 0).mode = .dout ∧ (s.ch 0).paired = false ∧
    pairOk s 0 1 = true ∧ (t.ch 0).paired = true ∧ (t.ch 1).paired = true ∧ (t.ch 0).sw.theta = 26000000000000 ∧
    Comp 0x0207 r stOK [] 0 s t := by decide +kernel
theorem test_chUnpair : let k := SwSettings.mk 1 2 Fuse.reset 3 Pgen.reset
    let s := twin (fun ch => { ch with paired := true, level := 5, sw := { ch.sw with ipk := 7, theta := 3 } })
      (fun ch => { ch with paired := true, level := 5, stored := some k })
    let r := rq 0 []; let t := run (.chUnpair r) s
    Ready 0x0208 r s ∧ (s.ch 0).paired = true ∧ (s.ch 1).paired = true ∧ (s.govern 0).1 = 5 ∧ (s.govern 1).1 = 5 ∧
    (s.ch 0).l5 = .off ∧ (t.ch 0).paired = false ∧ (t.ch 1).sw.prot = 1 ∧ (t.ch 1).sw.theta = 3 ∧ (t.ch 0).sw.ipk = 3 ∧
    (t.ch 1).sw.ipk = 3 ∧ Comp 0x0208 r stOK [] 0 s t := by decide +kernel
-- ConfigurationWritesTakeEffectOnAdmission
theorem test_chField : let s := owned; let r := rq 0x0101 (le16 60000 ++ [0, 0]); let t := run (.chField r) s
    r.deadline = 0 ∧ s.badger.heads = [] ∧ s.coreDown 6 = false ∧ s.den.bufBytes + r.payload.length ≤ s.badger.reserveBytes ∧
    holmOf r.obj = some 1 ∧ Ready 0x020B r s ∧ s.configReads = true ∧ (t.holm 1).holdT = 60000 ∧ t.holm 0 = s.holm 0 ∧
    Comp 0x020B r stOK [] 0 s t := by decide +kernel
def worn (a : Nat) (s : State) : State := { s with sys := { s.sys with mramBad := [(a, a + 1)] } }
theorem test_chField_fails : let s := worn 0x3BFFFF owned; let r := rq 0x0101 (le16 60000 ++ [0, 0]); let t := run (.chField r) s
    holmOf r.obj = some 1 ∧ Ready 0x020B r s ∧ s.configReads = false ∧ t.completions.map (·.status) = [stE_INTERNAL] ∧
    (t.holm 1).holdT = (s.holm 1).holdT := by decide +kernel
theorem test_chBmap : let s := one .aoi; let e := BurEntry.mk 0x80 24000000 0; let r := rq 0x0100 (1 :: e.bytes)
    let t := run (.chBmap r) s
    holmOf r.obj = some 0 ∧ Ready 0x020D r s ∧ r.payload = BitVec.ofNat 8 (2 ^ (0 : Fin 8).val) :: e.bytes ∧
    s.den.bufBytes + r.payload.length ≤ s.badger.reserveBytes ∧ (s.ch (chAt 0 0)).owner = some r.port ∧
    s.isLegal 0 = false ∧ (s.ch 0).mode.isOutput = true ∧ bit e.bflags 7 = true ∧ fld e.bflags 1 0 = 0 ∧
    fld e.bflags 3 2 ≠ 3 ∧ (s.holm 0).burEn = false ∧ (t.ch 0).bmap = e ∧ Comp 0x020D r stOK [] 0 s t := by decide +kernel
theorem test_bdgSet : let s := owned
    let r := rq 0x0200 (le16 500 ++ le16 8000 ++ le16 0 ++ le16 480 ++ le16 1500 ++ [2, 50, 105, 0, 0, 0])
    let t := run (.bdgSet r) s
    Ready 0x0801 r s ∧ r.payload.length = 16 ∧ zeroBytes r.payload 13 3 = true ∧ bdgRange r.payload = true ∧
    legalExcitation s 0 ≤ leAt r.payload 4 2 * 1000 ∧ legalExcitation s 1 ≤ leAt r.payload 6 2 * 1000 ∧
    s.den.bufBytes + r.payload.length ≤ s.badger.reserveBytes ∧
    t.badger.ifmax = #v[500, 8000] ∧ t.badger.pceil = 1500 ∧ Comp 0x0801 r stOK [] 0 s t := by decide +kernel
def session : State := { owned with upd := { owned.upd with sessionPort := some 0, sessionLen := 3 } }
def chunk : Req := rq 0x0500 (le32 0 ++ le32 (crc32c (le32 0 ++ [1, 2, 3])) ++ [1, 2, 3])
theorem test_updChunk_fails : let s := worn (0x180000 + 2) session
    Ready 0x0B02 chunk s ∧ s.mramFails (slotBase s.upd.other + 0) 3 = true := by decide +kernel
theorem test_updChunk : Memory.wf session.mram = true ∧ Ready 0x0B02 chunk session ∧ session.sessionOf chunk.port = true ∧
    0 < session.upd.sessionLen ∧ session.upd.sessionLen ≤ 0x180000 ∧
    [1, 2, 3].length = min 4096 (session.upd.sessionLen - 0) ∧
    session.den.bufBytes + chunk.payload.length ≤ session.badger.reserveBytes ∧
    session.mramFails (slotBase session.upd.other + 0) 3 = false := by decide +kernel

-- OutSetTurnsASwitchOff, OutSetTurnsASwitchOnWhenAdmitted
def onCh (ch : Chan) : Chan := { ch with l5 := .on, level := 5, out := .on, conducting := true }
theorem test_outSet_off : let s := one .dout onCh; let r := rq 0 [0, 0, 0, 0]; let t := run (.outSet r ⟨[]⟩) s
    chOf r.obj = some 0 ∧ Ready 0x0301 r s ∧ (s.ch 0).mode.isSwitch = true ∧ (s.ch 0).paired = false ∧
    (s.govern 0).1 = 5 ∧ (s.ch 0).l5 = .on ∧ s.quietRates 0 = [] ∧ (t.ch 0).l5 = .off ∧ (t.ch 0).conducting = false ∧
    Comp 0x0301 r stOK [] 0 s t ∧ Others 0 s t := by decide +kernel
theorem test_outSet_locked : let s := one .dout (fun ch => { ch with locks := { Locks.none with fuse := true } })
    let r := rq 0 [0, 0, 0, 0]
    Ready 0x0301 r s ∧ (s.govern 0).1 ≠ 5 ∧ Done (.outSet r ⟨[]⟩) 0x0301 r stE_STATE [] s s := by decide +kernel
theorem test_outSet_on : let s := one .dout; let r := rq 0 [1, 0, 0, 0]; let t := run (.outSet r ⟨[]⟩) s
    Ready 0x0301 r s ∧ r.deadline = 0 ∧ (s.govern 0).1 = 5 ∧ (s.ch 0).l5 = .off ∧ (s.ch 0).restore = .none ∧
    (s.ch 0).presag = none ∧ s.isLegal 0 = false ∧ (s.ch 0).loop.session = .none ∧ s.quietRates 0 = [] ∧
    s.badger.heads = [] ∧ s.badger.stagger = [] ∧ s.coreDown 6 = false ∧ (s.holm 0).shed = false ∧
    failures s true r.prio.toNat (turnOnProfile s 0x0301 0) (some 0) = [] ∧
    failures s false r.prio.toNat (turnOnProfile s 0x0301 0) (some 0) = [] ∧
    (t.ch 0).conducting = true ∧ (t.ch 0).level = 5 ∧ Comp 0x0301 r stOK [] 0 s t ∧ Others 0 s t := by decide +kernel
-- SwitchSettingsTakeTheirWords
theorem test_outProt : let s := one .dout; let w : BitVec 64 := 0x0E10006400140001; let r := rq 0 (le64 w.toNat)
    Ready 0x0302 r s ∧ w &&& 0x000000000F80FFFC#64 = 0 ∧ fld w 63 48 = 3600 ∧ fld w 47 32 = 100 ∧ fld w 22 16 = 20 ∧
    (s.ch 0).sw.bucket ≤ 100 * fld w 47 32 ∧ ((run (.outProt r) s).ch 0).sw.prot = w := by decide +kernel
theorem test_outWire : let s := one .dout; let w : BitVec 32 := 0x8C271E00; let r := rq 0 (le32 w.toNat)
    Ready 0x0303 r s ∧ w &&& 0x70C0E0FF#32 = 0 ∧ fld w 27 24 = 12 ∧ fld w 21 20 ≠ 3 ∧ fld w 19 16 = 7 ∧ fld w 12 8 = 30 ∧
    ((run (.outWire r) s).ch 0).sw.wire = w := by decide +kernel
theorem test_outFuse : let s := one .dout; let r := rq 0 ([2, 0] ++ le16 3600 ++ le16 100 ++ le16 65535 ++ le16 9000 ++ le16 1)
    Ready 0x0304 r s ∧ fuseOk (fusePoints r.payload 2) = true ∧
    ((run (.outFuse r) s).ch 0).sw.fuse = Fuse.mk 3600 [(100, 65535), (9000, 1)] := by decide +kernel
theorem test_outPgen : let s := one .dout; let r := rq 0 (le32 2458 ++ le16 1 ++ [3, 1, 0, 0, 0, 0])
    Ready 0x0306 r s ∧ ((run (.outPgen r) s).ch 0).sw.pgen = Pgen.mk 2458 1 3 true := by decide +kernel
/-- In DOP a channel on a timebase keeps the settings in force until its next on edge. -/
theorem test_outPgen_dop : let s := (one .dop (fun ch => { ch with sw := { ch.sw with tb := some 0 } })).setHolm 0 (fun h => { h with
      tbs := h.tbs.set 0 (some (Timebase.mk 245760 0 none)) })
    let r := rq 0 (le32 491520 ++ le16 1 ++ [3, 0, 0, 0, 0, 0]); let t := run (.outPgen r) s
    Ready 0x0306 r s ∧ tbAvailable s 0 491520 = true ∧ (s.ch 0).sw.tb ≠ none ∧ (t.ch 0).sw.pgen = Pgen.mk 491520 1 3 false ∧
    (t.ch 0).sw.prun = Pgen.reset ∧ Comp 0x0306 r stOK [] 0 s t := by decide +kernel
/-- Both members of a pair take a setting. -/
theorem test_outWire_pair : let s := twin (fun ch => { ch with paired := true }) (fun ch => { ch with paired := true })
    let r := rq 0 (le32 0x8C271E00); let t := run (.outWire r) s
    Ready 0x0303 r s ∧ s.oddMember 0 = false ∧ s.members 0 = [0, 1] ∧ (t.ch 0).sw.wire = 0x8C271E00 ∧ (t.ch 1).sw.wire = 0x8C271E00 := by
  decide +kernel
theorem test_outDiag : let s := one .dout; let w : BitVec 32 := 0x00206401; let r := rq 0 (le32 w.toNat)
    Ready 0x0307 r s ∧ w &&& 0xFF1F0000#32 = 0 ∧ (if bit w 21 then 5 else 10) ≤ fld w 15 8 ∧ fld w 15 8 = 100 ∧ fld w 7 0 = 1 ∧
    ((run (.outDiag r) s).ch 0).sw.diag = w := by decide +kernel
-- OutClearReleasesTheFuse
def fused (ch : Chan) : Chan := { ch with locks := { Locks.none with fuse := true }, l5 := .on }
theorem test_outClear : let s := one .dout (fun ch => { fused ch with sw := { ch.sw with theta := 55000000000000 } })
    let r := rq 0 [1]; let t := run (.outClear r) s
    Ready 0x0305 r s ∧ (s.ch 0).paired = false ∧ (s.ch 0).locks.fuse = true ∧ bit (s.ch 0).sw.wire 31 = false ∧ (s.ch 0).acts = [] ∧
    (s.ch 0).sw.theta = thetaTrip (s.ch 0).sw.wire - 5000000000000 ∧ (s.ch 0).l3 = none ∧ s.burrowOn 0 = false ∧
    (t.ch 0).locks = .none ∧ (t.ch 0).l5 = .off ∧ Comp 0x0305 r stOK [] 0 s t ∧ Others 0 s t := by decide +kernel
theorem test_outClear_hot : let s := one .dout (fun ch => { fused ch with sw := { ch.sw with theta := 55000000000001 } })
    let r := rq 0 [1]
    Ready 0x0305 r s ∧ thetaTrip (s.ch 0).sw.wire - 5000000000000 < (s.ch 0).sw.theta ∧
    Done (.outClear r) 0x0305 r stE_THERMAL [] s s := by decide +kernel
/-- Every flag at once: the named locks are released, the others and the trip that no flag names stay; a clamp lock whose bucket
is above half of CAPMJ is not released. -/
theorem test_outClear_all : let f (e : Nat) : State := one .dout (fun ch => { ch with
      locks := { Locks.none with clamp := true, seqFault := true, revHold := true }, l5 := .on, sw := { ch.sw with ipk := 4, learned := true, bucket := e } })
    let s := f 0; let r := rq 0 [0x1F]; let t := run (.outClear r) s; let z := f 200000
    Ready 0x0305 r s ∧ clearMode (s.ch 0).mode 0x1F = true ∧ clearAllowed s 0 0x1F = true ∧
    (t.ch 0).locks = { Locks.none with revHold := true } ∧ (t.ch 0).l5 = .off ∧ (t.ch 0).sw.learned = false ∧
    clearAllowed z 0 0x1F = false ∧ Done (.outClear r) 0x0305 r stE_THERMAL [] z z := by decide +kernel
-- ComparatorSettingsAndArming
theorem test_thrSet : let s := one .brg
    let r := rq 0 ([1, 0] ++ le16 0 ++ le32 0 ++ le32 5 ++ le32 2 ++ le32 0 ++ le16 0 ++ [0, 0]); let t := run (.thrSet r) s
    (s.ch 0).mode.usesFilter = true ∧ Ready 0x0401 r s ∧ r.payload.length = 24 ∧ rsvZero (byteAt r.payload 0) 0xFC = true ∧
    rsvZero (word32 r.payload 4) 0xF00301FF#32 = true ∧ zeroBytes r.payload 22 2 = true ∧
    thrRange (thrIdx r.payload).val (thrOf r.payload (s.ch 0).thr[thrIdx r.payload]) = true ∧
    fld (word32 r.payload 4) 19 18 = 0 ∧ (s.ch 0).thr[thrIdx r.payload].st ≠ .fired ∧
    (t.ch 0).thr[1].level = 5 ∧ (t.ch 0).thr[0] = (s.ch 0).thr[0] ∧ Comp 0x0401 r stOK [] 0 s t := by decide +kernel
/-- A comparator whose action turns CH3 off. -/
theorem test_thrSet_action : let s := (one .brg).setCh 3 (fun ch => { ch with mode := .dout })
    let ctrl := 0x00040000 + 3 * 2 ^ 12; let r := rq 0 ([1, 0] ++ le16 0 ++ le32 ctrl ++ le32 5 ++ le32 2 ++ le32 0 ++ le16 0 ++ [0, 0])
    let n := thrOf r.payload (s.ch 0).thr[thrIdx r.payload]; let t := run (.thrSet r) s
    Ready 0x0401 r s ∧ rsvZero (word32 r.payload 4) 0xF00301FF#32 = true ∧ thrRange 1 n = true ∧ n.act ≠ 0 ∧
    s.owns 0 (chObj n.tgt) = true ∧ s.oddMember n.tgt = false ∧ ((t.ch 0).thr[(1 : Fin 4)]).act = n.act ∧
    Comp 0x0401 r stOK [] 0 s t := by decide +kernel
theorem test_thrArm : let s := one .brg; let r := rq 0 [0x0A]; let t := run (.thrArm r) s
    Ready 0x0403 r s ∧ Ready 0x0404 r s ∧ (0x0A : Byte) &&& 0xF0 = 0 ∧ (t.ch 0).thr[1].st = .armed ∧ (t.ch 0).thr[0].st = .disarmed ∧
    ((run (.thrDisarm r) t).ch 0).thr[3].st = .disarmed := by decide +kernel
theorem test_thrGetStab : let s := one .brg; let r := rq 0 (le16 1024 ++ [0, 0] ++ le32 7 ++ le32 7)
    Ready 0x0402 (rq 0 []) s ∧ Ready 0x0405 r s ∧ r.payload.length = 12 ∧ zeroBytes r.payload 2 2 = true ∧
    leAt r.payload 0 2 = 1024 ∧ leAt r.payload 4 4 ≤ leAt r.payload 8 4 ∧
    ((run (.thrStab r) s).ch 0).stab = Stab.mk 1024 7 7 [] false := by decide +kernel
-- FilterBanksLoadWhileTheRunningOnesStay
theorem test_fltLoad : let s := one .brg; let d : BitVec 64 := 0; let r := rq 0 ([1, 1, 255, 0] ++ le64 0 ++ le32 9)
    Ready 0x0501 r s ∧ (le32 9).length = 4 * 1 ∧ (255 : Byte).toNat + 1 ≤ 256 ∧ descReserved d = true ∧ descRange d = true ∧
    idleFits s 0 ((s.ch 0).filt.withIdle 0 (.desc d (overlay [] (wordsAt r.payload 12 1) 255))) (BitVec.ofNat 3 (2 ^ 0)) = true := by
  decide +kernel
/-- Without a descriptor FLT.LOAD edits the idle bank, and fails where that holds none. -/
theorem test_fltLoad_edit : let s := one .brg (fun ch => { ch with filt := { ch.filt with s1 := { ch.filt.s1 with bankA := .empty, bankB := .desc 0 [1, 2, 3] } } })
    let z := one .brg (fun ch => { ch with filt := { ch.filt with s1 := { ch.filt.s1 with bankB := .empty } } })
    let r := rq 0 ([1, 0, 1, 0] ++ le32 9); let idle := (((run (.fltLoad r) s).ch 0).filt.stage 0).idle
    Ready 0x0501 r s ∧ (((s.ch 0).filt.stage 0).idle = .desc 0 [1, 2, 3]) ∧
    loadBank ((s.ch 0).filt.stage 0).idle 0 none (wordsAt r.payload 4 1) 1 = some idle ∧
    idleFits s 0 ((s.ch 0).filt.withIdle 0 idle) 1 = true ∧
    loadBank ((z.ch 0).filt.stage 0).idle 0 none (wordsAt r.payload 4 1) 1 = none ∧ idleFits z 0 (z.ch 0).filt 1 = true ∧
    Comp 0x0501 r stE_STATE [] 0 z (run (.fltLoad r) z) := by decide +kernel
theorem test_fltRom : let s := one .brg; let r := rq 0 [15, 1, 0, 0]
    Ready 0x0502 r s ∧ idleFits s 0 ((((s.ch 0).filt.withIdle 0 (romBank 15 true 0)).withIdle 1 (romBank 15 true 1)).withIdle 2
      (romBank 15 true 2)) 7 = true := by decide +kernel
theorem test_fltSwap : let s := one .brg (fun ch => { ch with filt := { ch.filt with sdecm1 := 0xFF } }); let w : BitVec 32 := 0x018000FF; let r := rq 0 (le32 w.toNat)
    Ready 0x0503 r s ∧ w &&& 0x0F000000#32 ≠ 0 ∧ firstFail (swapChecks 0 w 4 s) = none ∧ swapRises (s.ch 0) w = false ∧
    (s.ch 0).carrierMode = false ∧ ((run (.fltSwap r) s).ch 0).filt.swap.isSome = true := by decide +kernel
/-- A word that names nothing changes nothing, whatever its other fields hold (Table 7 of 04_filter_chain). -/
theorem test_fltSwap_none : let s := one .brg; let r := rq 0 (le32 0); Ready 0x0503 r s ∧
    Comp 0x0503 r stOK [] 0 s (run (.fltSwap r) s) ∧ (run (.fltSwap r) s).chans = s.chans := by decide +kernel
/-- On a carrier channel a swap that gives another plan waits for its instant. -/
theorem test_fltSwap_plan : let w : BitVec 32 := 0x0180000F; let r := rq 0 (le32 w.toNat)
    let s := (measuring 0x000A03E2).setCh 0 (fun ch => { ch with filt := Filt.default true .reset, brg := { ch.brg with rate := none } })
    let t := run (.fltSwap r) s
    Ready 0x0503 r s ∧ firstFail (swapChecks 0 w 4 s) = none ∧ swapRises (s.ch 0) w = false ∧ (s.ch 0).carrierMode = true ∧
    ((t.ch 0).filt.swap.map (·.afterPlan)) = some true ∧ ((t.holm 0).pend.map (·.due)) = some (s.planInstant 0) := by decide +kernel
-- LoopCommandsSetWordCurrentAndTrimSession
theorem test_loopCfg : let s := one .aot; let w : BitVec 64 := 0x52080DAC00000000; let r := rq 0 (le64 w.toNat)
    (s.ch 0).mode.isLoopOut = true ∧ Ready 0x0601 r s ∧ w &&& 0x00000000FF00F0FF#64 = 0 ∧ fld w 63 48 = 21000 ∧
    fld w 47 32 = 3500 ∧ fld w 11 10 ≠ 3 ∧ bit w 8 = false ∧ (alarmDir (s.holm 0).strap (fld w 11 10)).2 = true ∧
    ((run (.loopCfg r) s).ch 0).loop.word = w := by decide +kernel
theorem test_loopCfg_in : let s := one .aip; let w : BitVec 64 := 0x53FC0DDE00000300; let r := rq 0 (le64 w.toNat)
    (s.ch 0).mode.isLoop = true ∧ (s.ch 0).mode.isLoopOut = false ∧ Ready 0x0601 r s ∧ bit w 8 = true ∧ bit w 9 = true ∧
    ((run (.loopCfg r) s).ch 0).loop.word = w := by decide +kernel
theorem test_loopSet : let s := one .aot (fun ch => { ch with out := .cur 24000000, level := 5 }); let r := rq 0 (le32 3500000 ++ [0, 0, 0, 0])
    let t := run (.loopSet r) s
    Ready 0x0602 r s ∧ (s.ch 0).loop.session = .none ∧ (s.ch 0).parked = false ∧ (s.govern 0).1 = 5 ∧
    (s.ch 0).restore = .none ∧ (s.ch 0).presag = none ∧ 3500000 ≤ (s.ch 0).outNa ∧ s.quietRates 0 = [] ∧ s.badger.heads = [] ∧
    (t.ch 0).out = .cur 3500000 ∧ (t.ch 0).level = 5 ∧ Comp 0x0602 r stOK [] 0 s t ∧ Others 0 s t := by decide +kernel
theorem test_loopSet_alarm : let s := one .aoi (fun ch => { ch with out := .cur 0, level := 5 }); let r := rq 0 [0, 0, 0, 0, 1, 0, 0, 0]
    let t := run (.loopSet r) s
    Ready 0x0602 r s ∧ (s.govern 0).1 = 5 ∧ s.badger.heads = [] ∧ s.coreDown 6 = false ∧ (t.ch 0).l5 = .cur 3550000 ∧ (t.ch 0).level = 5 ∧
    (t.ch 0).loop.alarm = true ∧ Comp 0x0602 r stOK [] 0 s t := by decide +kernel
theorem test_loopTrim : let s := one .aoi; let r := rq 0 [1, 0, 0, 0, 0, 0, 0, 0]; let t := run (.loopTrim r) s
    s.isLegal 0 = false ∧ Ready 0x0603 r s ∧ (s.govern 0).1 = 5 ∧ (s.ch 0).loop.session = .none ∧ (t.ch 0).loop.session = .atC4 ∧
    (t.ch 0).out = .cur 4000125 ∧ Comp 0x0603 r stOK [] 0 s t ∧ Others 0 s t := by decide +kernel
theorem test_loopTrim_end : let s := one .aoi (fun ch => { ch with loop := { ch.loop with session := .atC4 } })
    let r := rq 0 [0, 0, 0, 0, 0, 0, 0, 0]; let t := run (.loopTrim r) s
    Ready 0x0603 r s ∧ (s.govern 0).1 = 5 ∧ (s.ch 0).loop.session ≠ .none ∧ (t.ch 0).loop.session = .none ∧
    (t.ch 0).out = .cur 0 ∧ Comp 0x0603 r stOK [] 0 s t ∧ Others 0 s t := by decide +kernel
def trimming (x : TrimSession) : State := one .aoi (fun ch => { ch with loop := { ch.loop with session := x } })
abbrev Trims (st : Byte) (r : Req) (x y : TrimSession) : Prop :=
  Ready 0x0603 r (trimming x) ∧ Comp 0x0603 r st [] 0 (trimming x) (run (.loopTrim r) (trimming x)) ∧
    ((run (.loopTrim r) (trimming x)).ch 0).loop.session = y
/-- P4, P20 within and outside its 400 µA, and RESET. -/
theorem test_loopTrim_points : Trims stOK (rq 0 ([2, 0, 0, 0] ++ le32 3991200)) .atC4 (.atC20 3991200) ∧
    Trims stOK (rq 0 ([3, 0, 0, 0] ++ le32 20399875)) (.atC20 3600125) .none ∧
    Trims stE_RANGE (rq 0 ([3, 0, 0, 0] ++ le32 20399876)) (.atC20 3600125) (.atC20 3600125) ∧
    Trims stOK (rq 0 [4, 0, 0, 0, 0, 0, 0, 0]) .none .none ∧
    ((run (.loopTrim (rq 0 ([3, 0, 0, 0] ++ le32 20399875))) (trimming (.atC20 3600125))).ch 0).loop.trim = .user 3600125 20399875 ∧
    owned.configReads = true ∧ owned.den.bufBytes + 8 ≤ owned.badger.reserveBytes := by decide +kernel
-- ModemCommandsConfigureQueueReadAndReply
def modemOn (ch : Chan) : Chan := { ch with wiring := 0x40 }
theorem test_mdmCfg : let s := one .aoi modemOn; let w : BitVec 32 := 0x000030F0; let r := rq 0 (le32 w.toNat ++ leBytes 5 5 ++ [0, 0, 0])
    (s.ch 0).modem = true ∧ Ready 0x0701 r s ∧ w &&& 0xFF000F00#32 = 0 ∧ fld w 23 22 < 2 ∧ fld w 21 16 = 0 ∧ fld w 15 12 = 3 ∧
    fld w 7 0 = 240 ∧ ((run (.mdmCfg r) s).ch 0).mdm.word = w ∧ ((run (.mdmCfg r) s).ch 0).mdm.uid = 5 := by decide +kernel
theorem test_mdmCfg_parks : let s := one .aot (fun ch => { modemOn ch with l5 := .cur 12000000 }); let w : BitVec 32 := 0x008120C8
    let r := rq 0 (le32 w.toNat ++ leBytes 5 5 ++ [0, 0, 0])
    Ready 0x0701 r s ∧ fld w 23 22 = 2 ∧ fld w 21 16 ≠ 0 ∧ (s.ch 0).parked = false ∧
    ((run (.mdmCfg r) s).ch 0).parked = true ∧ ((run (.mdmCfg r) s).ch 0).l5 = .cur 4000000 := by decide +kernel
theorem test_mdmSend : let s := one .aoi modemOn; let r := rq 0 ([0, 5, 63] ++ List.replicate 5 0 ++ [7])
    Ready 0x0702 r s ∧ (s.ch 0).master = true ∧ (s.ch 0).mdm.txq.length < 8 ∧ r.payload.length = 9 ∧
    byteAt r.payload 0 = 0 ∧ leAt r.payload 2 1 < 64 ∧ leAt r.payload 3 5 = 0 ∧ leAt r.payload 1 1 = 5 ∧
    ((run (.mdmSend r) s).ch 0).mdm.txq.length = 1 ∧ Comp 0x0702 r stOK [1, 0] 0 s (run (.mdmSend r) s) := by decide +kernel
theorem test_mdmSend_long : let s := one .aoi modemOn; let r := rq 0 ([1, 20, 0] ++ [1, 2, 3, 4, 0x3F] ++ [7] ++ List.replicate 255 0)
    Ready 0x0702 r s ∧ r.payload.length = 264 ∧ bit (byteAt r.payload 0) 0 = true ∧ byteAt r.payload 7 &&& 0xC0 = 0 ∧
    ((run (.mdmSend r) s).ch 0).mdm.txq.map (fun x => (x.long, x.laddr, x.data.length)) = [(true, 0x3F04030201, 255)] := by decide +kernel
theorem test_mdmRead : let e := MdmEntry.mk 2 0 1 9 [1, 2]; let s := one .aoi (fun ch => { modemOn ch with mdm := { ch.mdm with rx := [e] } })
    let r := rq 0 []; Ready 0x0703 r s ∧ Comp 0x0703 r stOK e.bytes 0 s (run (.mdmRead r) s) ∧
    ((run (.mdmRead r) s).ch 0).mdm.rx = [] ∧ Ready 0x0703 r (one .aoi modemOn) ∧
    Comp 0x0703 r stOK (List.replicate 11 0) 0 s (run (.mdmRead r) (one .aoi modemOn)) := by decide +kernel
theorem test_mdmReply : let q := MdmReq.mk 4 0 [0x80] 3 false
    let s := atTime 2000000 (one .aot (fun ch => { modemOn ch with mdm := { Mdm.reset .aot with latest := some q } }))
    let r := rq 0 (le16 4 ++ [20, 0] ++ [1])
    Ready 0x0704 r s ∧ (s.ch 0).modem = true ∧ (s.ch 0).master = false ∧ (s.ch 0).mdm.latest = some q ∧ s.repliesGo 0 = true ∧
    s.sys.now ≤ q.endAt + 10000 * fld (s.ch 0).mdm.word 7 0 ∧ Comp 0x0704 r stOK [] 0 s (run (.mdmReply r) s) ∧
    Comp 0x0704 r stE_TIMEOUT [] 0 (atTime 2000004 s) (run (.mdmReply r) (atTime 2000004 s)) := by decide +kernel

-- ChSafeAndBdgShedSetTheirWords
theorem test_chSafe : let s := one .aoi (fun ch => { ch with level := 5, out := .cur 0 }); let w : BitVec 64 := 0x016E360000000013
    let r := rq 0 (le64 w.toNat); let t := run (.chSafe r) s
    Ready 0x020C r s ∧ (s.ch 0).mode.isOutput = true ∧ (s.ch 0).paired = false ∧ s.isLegal 0 = false ∧
    w &&& 0x00000000FFFFFFC8#64 = 0 ∧ fld w 2 0 ≤ 4 ∧ scurOk .aoi w = true ∧ safeAllowed .aoi (fld w 2 0) = true ∧
    (s.ch 0).loop.session = .none ∧ (s.ch 0).acts = [] ∧ (t.ch 0).safety = w ∧ Comp 0x020C r stOK [] 0 s t ∧
    Others 0 s t := by decide +kernel
theorem test_bdgShed : let r := rq 0 [7, 0, 0, 0]; let l := { owned with legal := { port := some 0, mask := 1, sealed := false, sealRec := false } }
    Ready 0x0803 r owned ∧ owned.isLegal 0 = false ∧ ((run (.bdgShed r) owned).ch 0).shcls = 7 ∧ Ready 0x0803 r l ∧
    l.isLegal 0 = true ∧ Done (.bdgShed r) 0x0803 r stE_LEGAL [] l l := by decide +kernel
-- DenSnapshotsReadAndClear
def snapped : State := { owned with
  den := { owned.den with snaps := Vector.replicate 3 (some (Snap.mk 1 [0] 1 (some [9]))), ring := [] }
  sec := { owned.sec with ownerKey := some [1] } }
theorem test_denSnap : Ready 0x0901 (rq 0x0300 [0, 0, 0, 0]) owned := by decide +kernel
theorem test_denRead : let r := rq 0x0300 ([2, 5] ++ le16 8148 ++ le64 1 ++ [0, 0, 0, 0])
    Ready 0x0902 r snapped ∧ snapped.den.snaps[r.port] = some (Snap.mk 1 [0] 1 (some [9])) ∧ (1 : BitVec 64).toNat ≤ 1 ∧
    (run (.denRead r) snapped).den.buf = [] := by decide +kernel
def clearReq (legal : Bool) : Req := rq 0x0300 ([BitVec.ofNat 8 (b2n legal), 0, 0, 0] ++ List.replicate 4731 0)
theorem test_denClear : Ready 0x0903 (clearReq false) snapped ∧ snapped.sec.ownerKey = some [1] ∧
    (clearReq false).payload.length = 4735 ∧ (clearReq false).payload.take 4 = [0, 0, 0, 0] ∧ snapped.den.buf = [] ∧ snapped.den.legWait = [] ∧
    (∀ e ∈ snapped.den.ring, e.1 = 0 → e.2.seq ≤ 1) ∧ (∀ k : Fin 1536, snapped.mramFails (0x320000 + 256 * k.val) 256 = false) := by
  refine ⟨by decide +kernel, by decide +kernel, by decide +kernel, by decide +kernel, by decide +kernel, by decide +kernel,
    by decide +kernel, fun _ => rfl⟩
theorem test_denClear_legal : let s := { snapped with legal := { port := some 0, mask := 0, sealed := false, sealRec := false } }
    Ready 0x0903 (clearReq true) s ∧ s.sys.order ≠ 2 ∧ s.isLegalPort 0 = true ∧ s.legal.sealed = false ∧
    (Snap.mk 1 [0] 1 (some [9])).legalWrites = s.den.legWrites ∧ s.mramFails 0x300000 160 = false ∧
    s.den.legWait = [] := by decide +kernel
-- CheckUnitsConfigureRunSaveAndLoad; CRC-32C of "123456789" is 0xE3069283 (Table 2 of 13_check_value_units)
def crcRq (flags : Byte) (e : Nat) : Req := rq 0x0400 ([flags, 0, 0, 0] ++ le32 0 ++ le32 9 ++ le32 e ++ digits)
theorem test_crcRun : Ready 0x0A02 (crcRq 8 0) owned ∧ (owned.unit 0).ctx.open_ = false ∧ bit (owned.unit 0).ctx.cfg 16 = false ∧
    bit (owned.unit 0).ctx.cfg 17 = false ∧
    Comp 0x0A02 (crcRq 8 0) stOK (le32 0xE3069283 ++ [0, 0, 0, 0] ++ le32 9 ++ [0, 0, 0, 0]) 0 owned (run (.crcRun (crcRq 8 0)) owned) ∧
    ((run (.crcRun (crcRq 8 0)) owned).unit 0).mism = 0 := by decide +kernel
theorem test_crcRun_mismatch : Ready 0x0A02 (crcRq 9 1) owned ∧
    Comp 0x0A02 (crcRq 9 1) stOK (le32 0xE3069283 ++ [2, 0, 0, 0] ++ le32 9 ++ [0, 0, 0, 0]) 0 owned (run (.crcRun (crcRq 9 1)) owned) ∧
    ((run (.crcRun (crcRq 9 1)) owned).unit 0).mism = 1 := by decide +kernel
theorem test_crcCfg : let cfg : BitVec 32 := 0x03000000; let r := rq 0x0403 (le32 cfg.toNat ++ le32 0 ++ le32 0 ++ le32 0)
    Ready 0x0A01 r owned ∧ unitOf r.obj = some 3 ∧ cfg &&& 0xF00CFFFF#32 = 0 ∧ cfgRange cfg 0 0 0 = true ∧
    ((run (.crcCfg r) owned).unit 3).ctx = CrcCtx.mk cfg 0 0 0 0xFFFF 0 0 false := by decide +kernel
theorem test_crcSaveLoad : let r := rq 0x0400 [3, 0, 0, 0]; let s := run (.crcSave r) owned
    Ready 0x0A03 r owned ∧ Ready 0x0A03 (rq 0x0400 [0xFF, 0, 0, 0]) owned ∧ (s.unit 0).slots[3] = some CrcCtx.reset ∧
    Ready 0x0A04 r s ∧ ((run (.crcLoad r) s).unit 0).ctx = CrcCtx.reset := by decide +kernel
-- UpdateSessionBeginsVerifiesActivatesAndConfirms
theorem test_updBegin : let r := rq 0x0500 (le32 0x180000 ++ [0, 0, 0, 0]); let t := run (.updBegin r) owned
    Ready 0x0B01 r owned ∧ 0x4000 < 0x180000 ∧ owned.upd.inTrial = false ∧ owned.upd.sessionPort = none ∧
    t.upd.st[1] = .downloading ∧ t.upd.sessionLen = 0x180000 ∧ Comp 0x0B01 r stOK t.upd.progress 0 owned t := by decide +kernel
theorem test_updVerify : let s := { owned with upd := { owned.upd with sessionPort := some 0, sessionLen := 1, chunks := [0] } }
    Ready 0x0B03 (rq 0x0500 [0, 0, 0, 0]) s ∧ s.sessionOf 0 = true ∧ s.upd.complete = true := by decide +kernel
def twoSlots (a : Fin 2) (st : Vector ImgState 2) : Upd := { owned.upd with
  active := a
  st := st
  info := #v[some ⟨1, 1, 1, [], []⟩, some ⟨2, 2, 1, [], []⟩]
  sessionPort := some 0
  sessionLen := 1 }
theorem test_updActivate : let s := { owned with upd := twoSlots 0 #v[.active, .verified] }
    let r := rq 0x0500 (le16 3600 ++ [10, 0]); let t := run (.updActivate r) s
    let e := Nat.iterate bootTick 5 t; let m := Nat.iterate bootTick 4 t
    Ready 0x0B04 r s ∧ s.sessionOf 0 = true ∧ s.upd.st[s.upd.other] = .verified ∧ s.upd.inTrial = false ∧ s.lchg = false ∧
    s.configReads = true ∧ t.upd.active = 0 ∧ t.completions = [] ∧ m.upd.active = 0 ∧ m.upd.copies[0].1.active = 1 ∧
    e.upd.active = 1 ∧ e.upd.st = #v[.fallback, .trial] ∧ e.sys.startDue = [StartDue.mk .cold 50000 2] ∧
    Comp 0x0B04 r stOK [] 0 s e := by decide +kernel
theorem test_updConfirm : let s := { owned with upd := twoSlots 1 #v[.fallback, .trial] }
    let r := rq 0x0500 [0, 0, 0, 0]; let t := run (.updConfirm r) s
    Ready 0x0B05 r s ∧ s.upd.inTrial = true ∧ s.upd.trialLegal = false ∧ s.infoOf 1 = some ⟨2, 2, 1, [], []⟩ ∧
    s.configReads = true ∧ (Nat.iterate bootTick 5 t).upd.floor = 2 ∧ (Nat.iterate bootTick 5 t).upd.st = #v[.invalid, .active] ∧
    Comp 0x0B05 r stOK [] 0 s (Nat.iterate bootTick 5 t) := by decide +kernel
/-- A journal that fails its read-back ends the activation with E_INTERNAL; power lost after the journal leaves the change to the next
start (Table 10 of 15_start_update_security). -/
theorem test_updActivate_journal : let s := worn 0x380000 { owned with upd := twoSlots 0 #v[.active, .verified] }
    let r := rq 0x0500 (le16 3600 ++ [10, 0]); let e := Nat.iterate bootTick 2 (run (.updActivate r) s)
    let good := { owned with upd := twoSlots 0 #v[.active, .verified] }
    let cut (n : Nat) : Fin 2 := (resolveBoot (run .powerFailWarning (Nat.iterate bootTick n (run (.updActivate r) good)))).upd.active
    s.configReads = false ∧ Comp 0x0B04 r stE_INTERNAL [] 0 s e ∧ e.upd.active = 0 ∧ e.upd.work = none ∧
    cut 0 = 0 ∧ cut 2 = 1 ∧ cut 4 = 1 := by decide +kernel
-- SecurityCommandsAttestCertifyAndHoldTheOwnerKey
theorem test_security_ready : Ready 0x0C01 (rq 0x0600 (List.replicate 32 1 ++ [0, 0, 0, 0])) owned ∧
    Ready 0x0C02 (rq 0x0600 [1, 0, 0, 0]) owned ∧ Ready 0x0C03 (rq 0x0600 [0, 0, 0, 0]) owned := by decide +kernel
theorem test_ownerKey_set : let s := owned.setSys (fun y => { y with order := 2 }); let r := rq 0x0600 ([1, 0, 0, 0] ++ List.replicate 2592 7)
    Ready 0x0C03 r s ∧ (List.replicate 2592 (7 : Byte)).length = 2592 ∧ s.sys.order = 2 ∧ s.sec.ownerKey = none := by decide +kernel
theorem test_ownerKey_again : let s := { owned.setSys (fun y => { y with order := 2 }) with sec := { owned.sec with ownerKey := some [1] } }
    let r := rq 0x0600 ([1, 0, 0, 0] ++ List.replicate 2592 7); let t := run (.secOwnerkey r) s
    Ready 0x0C03 r s ∧ s.sec.ownerKey ≠ none ∧ t.sec.ownerKey = some [1] ∧ Comp 0x0C03 r stE_STATE [] 0 s t := by decide +kernel
/-- A replacement or a removal of the owner key; whether the signature holds is Config's. -/
def signedReq (replace : Bool) : Req := rq 0x0600 ([if replace then 2 else 3, 0, 0, 0] ++ List.replicate 160 0 ++
  List.replicate (if replace then 2592 else 0) 7 ++ List.replicate 4627 0)
theorem test_ownerKey_replace : Ready 0x0C03 (signedReq true) snapped := ⟨by decide +kernel, by decide +kernel⟩
theorem test_ownerKey_remove : Ready 0x0C03 (signedReq false) snapped := ⟨by decide +kernel, by decide +kernel⟩
-- OwnershipAndLegalDeclarationsPass
theorem test_ownClaim : let r := rq 0x000F [0, 0, 0, 0]; let t := run (.ownClaim r) plain
    Ready 0x0D01 r plain ∧ plain.isLegal 15 = false ∧ (plain.ch 15).owner = none ∧ (t.ch 15).owner = some 0 ∧
    Comp 0x0D01 r stOK [] 0 plain t := by decide +kernel
theorem test_ownClaim_taken : let s := plain.setCh 0 (fun ch => { ch with owner := some 2 }); let r := rq 0 [0, 0, 0, 0]
    Ready 0x0D01 r s ∧ (s.ch 0).owner = some 2 ∧ Done (.ownClaim r) 0x0D01 r stE_OWNER [] s s := by decide +kernel
/-- TAKE succeeds where the owner's watchdog has expired; a Holm, the Badger and a check-value unit are claimed and released. -/
theorem test_ownClaim_take : let s := (plain.setCh 0 (fun ch => { ch with owner := some 2 })).setPort 2 (fun q => { q with wdExpired := true })
    let r := rq 0 [1, 0, 0, 0]; Ready 0x0D01 r s ∧ (s.port 2).wdExpired = true ∧ ((run (.ownClaim r) s).ch 0).owner = some 0 := by
  decide +kernel
abbrev ClaimedAndReleased (r : Req) : Prop :=
  chOf r.obj = none ∧ Ready 0x0D01 r plain ∧ plain.ownerOf r.obj = none ∧ (run (.ownClaim r) plain).ownerOf r.obj = some 0 ∧
  Comp 0x0D01 r stOK [] 0 plain (run (.ownClaim r) plain) ∧ Ready 0x0D02 r owned ∧ (run (.ownRelease r) owned).ownerOf r.obj = none ∧
  Comp 0x0D02 r stOK [] 0 owned (run (.ownRelease r) owned)
theorem test_own_holm : ClaimedAndReleased (rq 0x0100 [0, 0, 0, 0]) := by decide +kernel
theorem test_own_badger : ClaimedAndReleased (rq 0x0200 [0, 0, 0, 0]) := by decide +kernel
theorem test_own_unit : ClaimedAndReleased (rq 0x0401 [0, 0, 0, 0]) := by decide +kernel
theorem test_ownRelease : let s := one .di; let r := rq 0 [0, 0, 0, 0]; let t := run (.ownRelease r) s
    Ready 0x0D02 r s ∧ (s.ch 0).mode.isOutput = false ∧ (t.ch 0).owner = none ∧ Comp 0x0D02 r stOK [] 0 s t := by decide +kernel
theorem test_ownRelease_energised : let s := one .dout onCh; let r := rq 0 [0, 0, 0, 0]
    Ready 0x0D02 r s ∧ energised (s.ch 0).mode (s.ch 0).l5 = true ∧ Done (.ownRelease r) 0x0D02 r stE_STATE [] s s := by decide +kernel
theorem test_ownResume : let h := HostLoss.mk .on none false .on; let s := one .dout (fun ch => { ch with l3 := some h }); let r := rq 0 [1, 0, 0, 0]
    let t := run (.ownResume r) s
    Ready 0x0D03 r s ∧ (s.ch 0).mode.isOutput = true ∧ (s.ch 0).l3 = some h ∧ (s.ch 0).acts = [] ∧ (s.ch 0).loop.session = .none ∧
    (t.ch 0).l3 = none ∧ (t.ch 0).l5 = .on ∧ (t.ch 0).level = 5 ∧ Comp 0x0D03 r stOK [] 0 s t ∧ Others 0 s t := by decide +kernel
theorem test_ownResume_port : let s := one .dout (fun ch => { ch with l3 := some (HostLoss.mk .on none false .on) })
    let z := s.setHolm 1 (fun h => { h with link := false }); let r := rq 0x0800 [1, 0, 0, 0]; let t := run (.ownResume r) s
    r.obj = portObj r.port ∧ Ready 0x0D03 r s ∧ (∀ c : Ch, (s.ch c).owner = some 0 → (s.holm (bankOf c)).link = true) ∧
    (t.ch 0).l3 = none ∧ Comp 0x0D03 r stOK [] 0 s t ∧ Ready 0x0D03 r z ∧ (z.ch 15).owner = some 0 ∧ (z.holm 1).link = false ∧
    Done (.ownResume r) 0x0D03 r stE_STATE [] z z := by decide +kernel
theorem test_lglDeclare : let s := { one .brg with legal := { port := some 0, mask := 0, sealed := false, sealRec := false } }
    let r := rq 0x0700 [1, 0, 0, 0]
    Ready 0x0E02 r s ∧ s.isLegalPort 0 = true ∧ s.legal.sealed = false ∧ addedChs s 1 = [0] ∧ (s.ch 0).mode.mayBeLegal = true ∧
    (s.ch 0).owner = some 0 ∧ s.legcfgFits r = true ∧ s.legalReadsBack (72 + min 64 r.payload.length) = true := by decide +kernel
/-- A legal change waits while C7 recovers (R365). -/
theorem test_legalWaits : let s := { one .brg with
      legal := { port := some 0, mask := 1, sealed := false, sealRec := false }
      sys := { (one .brg).sys with failedEngines := [FailedEngine.mk (.core 7) 1 0] } }
    let r := rq 0 (le64 diagReset.toNat)
    s.coreDown 7 = true ∧ s.isLegal 0 = true ∧ s.opReady 0x0204 r = false ∧ (run (.chDiag r) s).completions = [] := by decide +kernel
-- OpFamilyQueriesAbortsReleasesAndFetches
def slot (st : OpState) : Slot := Slot.mk 0x0202 { rq 5 [] with tag := 7 } 0 false 0 1 st none 0 0 [1, 2]
def holding (st : OpState) : State := owned.setPort 0 (fun q => { q with slots := [slot st] })
theorem test_op_premises : let s := holding .executing; let r := rq 0x0800 (le16 7 ++ [0, 0])
    s.sys.vddOk = true ∧ s.coreDown (portCore r.port) = false ∧ ((s.port 0).rsp.filter (fun x => x.kind == 1)).length < 32 ∧
    r.obj = portObj r.port ∧ (s.port 0).held 7 = some (slot .executing) ∧ portObj 2 = 0x0802 := by decide +kernel
def rec1 (op : BitVec 16) (r : Req) (st : Byte) (d : List Byte) (s : State) : RspRec :=
  RspRec.mk 1 (record r.port op st r.seq r.tag r.obj 1 0 s.sys.now 0 0 d) 0 true
theorem test_opQuery : let s := holding .executing; let r := rq 0x0800 (le16 7 ++ [0, 0])
    (run (.opQuery r) s).ports = (s.setPort 0 (fun q => { q with rsp := [rec1 0x0F01 r stOK (queryData s 0 7) s] })).ports := by
  decide +kernel
theorem test_opAbort : let r := rq 0x0800 (le16 7 ++ [0, 0]); let s := holding .queued; let t := run (.opAbort r) s
    (s.port 0).held 7 = some (slot .queued) ∧ (t.port 0).rsp.getLast? = some (rec1 0x0F02 r stOK [] s) ∧
    (∀ x ∈ (t.port 0).slots, x.st = .completed ∧ x.status = stE_ABORTED) ∧
    ((run (.opAbort r) (holding .executing)).port 0).rsp = [rec1 0x0F02 r stE_STATE [] s] := by decide +kernel
theorem test_opRelease : let r := rq 0x0800 ([1, 0] ++ le16 7); let s := holding .completed; let t := run (.opRelease r) s
    (s.port 0).held 7 = some (slot .completed) ∧ (t.port 0).slots = [] ∧ (t.port 0).rsp = [rec1 0x0F03 r stOK [0] s] := by
  decide +kernel
theorem test_opFetch : let r := rq 0x0800 (le16 7 ++ [0, 0]); let s := holding .completed
    ((run (.opFetch r) s).port 0).rsp = [rec1 0x0F04 r stOK [] s, RspRec.mk 4 [1, 2] 7 false] := by decide +kernel

theorem test_op_refused : let s := holding .completed
    ((run (.opQuery (rq 0x0801 [])) s).port 0).rsp = [rec1 0x0F01 (rq 0x0801 []) stE_RANGE [] s] ∧
    (let r := rq 0x0800 (le16 9 ++ [0, 0]); ((run (.opFetch r) s).port 0).rsp = [rec1 0x0F04 r stE_STATE [] s] ∧
      ((run (.opAbort r) s).port 0).rsp = [rec1 0x0F02 r stE_RANGE [] s]) ∧
    (let r := rq 0x0800 ([1, 0] ++ le16 9); ((run (.opRelease r) s).port 0).rsp = [rec1 0x0F03 r stOK [2] s]) ∧
    (let r := rq 0x0800 [0, 0, 0, 0]; ((run (.opQuery r) s).port 0).rsp = [rec1 0x0F01 r stOK (querySummary s 0) s]) := by
  decide +kernel
-- RegisterWritesTakeEffectAsAWhole (11_host_ports)
/-- What a state holds but its sys part and the SDO bits of port A. -/
def quiet (s : State) : State := s.setPort 0 (fun q => { q with sdo := [] })
abbrev Commits (c : Instr) (f : PortSt → PortSt) (s : State) : Prop :=
  (quiet (run c s)).ports = (s.setPort 0 (fun q => f (q.judged 3 s.sys.now []))).ports ∧ (run c s).chans = s.chans ∧
    (run c s).sys = s.sys
def eventful : State := owned.setPort 0 (fun q => { q with evpend := BitVec.ofNat 256 (2 ^ 256 - 1), crce := 9, ovre := 9 })
theorem test_evpend : eventful.framed 0 ∧ (31 : Fin 32).val + [(0x80 : Byte)].length ≤ 32 ∧
    Commits (.evpend 0 3 31 [0x80]) (fun q => { q with evpend := BitVec.ofNat 256 (2 ^ 255 - 1) }) eventful ∧
    Commits (.evpend 0 3 0 (List.replicate 32 0xFF)) (fun q => { q with evpend := 0 }) eventful := by decide +kernel
theorem test_frmerr : Commits (.frmerr 0 3 0 0x55) (fun q => { q with crce := 0 }) eventful ∧
    Commits (.frmerr 0 3 3 0) (fun q => { q with ovre := 0 }) eventful := by decide +kernel
theorem test_opwindow : Commits (.opwindow 0 3 0x56 (le16 160)) (fun q => { q with opwindow := 160 }) owned ∧
    Commits (.opwindow 0 3 0x56 (le16 16)) (fun q => { q with opwindow := 16 }) owned ∧
    ((run (.opwindow 0 3 0x56 (le16 161)) owned).port 0).echo = echoByte 3 7 ∧
    ((run (.opwindow 0 3 0x56 (le16 15)) owned).port 0).opwindow = 160 := by decide +kernel
theorem test_portctl : (owned.port 0).cmdBuf = [] ∧ Commits (.cmdrst 0 3) (fun q => { q with cmdBuf := [], desync := false }) owned ∧
    Commits (.rwnd 0 3) (fun q => { q with rdPos := 0 }) owned ∧ Commits (.rstd 0 3) (fun q => { q with rstd := false }) owned ∧
    Commits (.chen 0 3 [1]) (fun q => { q with chen := true }) owned := by decide +kernel
theorem test_registerWrite : Commits (.registerWrite 0 3 0x50 [0xFF]) (fun q => { q with irqcfg := 0x8F }) owned ∧
    Commits (.registerWrite 0 3 0x30 (List.replicate 32 0xFF)) (fun q => { q with evmask := evExists }) owned ∧
    Commits (.registerWrite 0 3 0x72 [1, 2]) (fun q => { q with outen := 0x0201 }) owned ∧
    Commits (.registerWrite 0 3 0x7E [1, 2]) (fun q => { q with pset3 := 0x0201 }) owned := by decide +kernel
-- DiscardedFramesChangeNoRegister; the worked frame of 11_host_ports (a read of 4 bytes at 0x00 by port A with FSEQ 0x3)
-- the worked transactions and the chain example of 11_host_ports
def echoed : State := owned.setPort 0 (fun q => { q with echo := 0x20 })
theorem test_worked_write : let t := run (.registerWrite 0 3 0x50 [3]) echoed; (t.port 0).irqcfg = 3 ∧
    (t.port 0).sdo = [0x80, 0x20, 0x00, 0x00, 0xF0, 0x86] ∧ (t.port 0).echo = 0x30 ∧
    ((run (.discardedFrame 0 (RawFrame.mk [0x4C, 0x50, 0x00, 0x03, 0xDD, 0xB0] 48 true)) echoed).port 0).irqcfg = 3 := by
  decide +kernel
theorem test_worked_read : let s := owned.setPort 0 (fun q => { q with echo := 0x30, rsp := [RspRec.mk 0 (List.replicate 48 0) 1 false] })
    ((run (.discardedFrame 0 (RawFrame.mk [0x10, 0xFC, 0x01, 0xDF, 0x4B, 0, 0, 0, 0] 72 true)) s).port 0).sdo =
      [0xC0, 0x30, 0x00, 0x00, 0x00, 0x30, 0x00, 0xDE, 0x9F] := by decide +kernel
theorem test_worked_slot : crc8 0xFF [0x01, 0x10, 0x00, 0x30, 0x00, 0x00, 0x07] = 0xE5 ∧
    crc8 0xFF [0x80, 0x03, 0x00, 0x20, 0x00, 0x00, 0x06] = 0x55 := by decide +kernel
theorem test_discarded_short : let f := RawFrame.mk [0x4C] 8 true; let t := run (.discardedFrame 0 f) owned
    frameResult owned 0 (f.bytes.take 1) f.edges f.rdyAtFall ≠ 0 ∧ frameResult owned 0 (f.bytes.take 1) f.edges f.rdyAtFall ≠ 4 ∧
    t.chans = owned.chans ∧ (t.port 0).evmask = (owned.port 0).evmask := by decide +kernel
-- DevtimeReadsReturnOneCoherentValue
theorem test_devtime : let s := atTime 0x0102030405060708 owned; let t := run (.devtime 0 3 0x60 8 true) s
    s.framed 0 ∧ (0x60 : BitVec 8).toNat + 8 ≤ 0x80 ∧ (t.port 0).devLatch = 0x0102030405060708 ∧
    ((t.port 0).sdo.drop 5).take 8 = [8, 7, 6, 5, 4, 3, 2, 1] := by decide +kernel
theorem test_devtime_high : let s := (atTime 0x0102030405060708 owned).setPort 0 (fun q => { q with devLatch := 0x1122334455667788 })
    let t := run (.devtime 0 3 0x64 4 true) s
    s.framed 0 ∧ ((t.port 0).sdo.drop 5).take 4 = [0x44, 0x33, 0x22, 0x11] := by decide +kernel
-- ImageStatusAndResponseReads
def responding : State := owned.setPort 0 (fun q => { q with rsp := [RspRec.mk 0 [1, 2, 3] 7 false, RspRec.mk 1 [4] 0 true] })
theorem test_pimage : owned.framed 0 ∧ ((run (.pimage 0 3 0x80 32 true) owned).port 0).imgLatch = pimage owned 0 ∧
    ((run (.pimage 0 3 0x80 32 false) owned).port 0).frm = true := by decide +kernel
theorem test_rspq : responding.framed 0 ∧ (responding.port 0).rsp ≠ [] ∧ (responding.port 0).rdPos < 3 ∧
    ((run (.rspq 0 3 2) responding).port 0).rdPos = 2 ∧ ((run (.rspq 0 3 256) responding).port 0).rdPos = 3 ∧
    (((run (.rspq 0 3 5) responding).port 0).sdo.drop 5).take 5 = [1, 2, 3, 0, 0] ∧ (owned.port 0).rsp = [] := by decide +kernel
theorem test_statusOnly : let d := [owned.status 0, (owned.port 0).echo, 0]
    ((run (.statusOnlyFrame 0 3) owned).port 0).sdo = d ++ le16 (devCrc 0 3 d) ∧ owned.status 0 = 0x80 := by decide +kernel
-- CommandsWrittenToCmdqBecomeOperations
theorem test_cmdq_part : owned.framed 0 ∧ (owned.port 0).desync = false ∧
    Commits (.cmdq 0 3 [1, 2, 3, 4, 5, 6, 7]) (fun q => { q with cmdBuf := [1, 2, 3, 4, 5, 6, 7] }) owned := by decide +kernel
theorem test_cmdq_accept : let r := rq 0x000F []; let t := run (.cmdq 0 3 (commandBytes 0x0202 r)) owned
    r.payload.length ≤ 236 ∧ (0x0202 : BitVec 16).toNat ∈ opcodeList ∧ family 0x0202 ≠ 15 ∧ r.tag ≠ 0 ∧ (owned.port 0).held r.tag = none ∧
    (∀ e ∈ (owned.port 0).replay, e.tag ≠ r.tag) ∧ opAccepts 0x0202 r.obj = true ∧ owned.recovery = false ∧
    (owned.port 0).full = false ∧ owned.lacksOwner 0x0202 r = false ∧ owned.linkOk r.obj = true ∧
    (t.port 0).slots.map (fun sl => (sl.opcode, sl.req, sl.st)) = [(0x0202, r, .queued)] ∧ t.sys.accepted = 1 := by decide +kernel
theorem test_cmdq_link : let s := owned.setHolm 1 (fun h => { h with link := false }); let r := rq 0x000F []
    let t := run (.cmdq 0 3 (commandBytes 0x0202 r)) s
    s.linkOk r.obj = false ∧ s.lacksOwner 0x0202 r = false ∧ t.completions.map (·.status) = [stE_STATE] ∧
    (t.port 0).slots.length = 1 := by decide +kernel
theorem test_cmdq_crc : let r := rq 0x000F []; let b := (commandBytes 0x0202 r).take 16; let t := run (.cmdq 0 3 (b ++ le32 0)) owned
    (0 : BitVec 32).toNat ≠ crc32c (foldIn 0 0 r.tag r.seq r.obj ++ b) ∧ (t.port 0).slots = [] ∧
    RspRec.mk 1 (record 0 0x0202 stE_CRC r.seq r.tag r.obj 1 0 0 0 0 []) 0 true ∈ (t.port 0).rsp := by decide +kernel
-- DaisyChainSlotsApplyOrAreRejected
def chained : State := owned.setPort 0 (fun q => { q with chen := true, outen := 1 })
theorem test_chain_frame : owned.framed 0 ∧ owned.sys.image.length = 32 ∧
    ((run (.chainFrame 0 3 [0, 0, 0, 0, 0, 0, 9]) owned).port 0).slotSeq = 9 ∧
    (((run (.chainFrame 0 3 [0, 0, 0, 0, 0, 0, 9]) owned).port 0).sdo.drop 12).take 7 = replySlot owned 0 true := by decide +kernel
theorem test_exchange : chained.chained 0 ∧ chained.sys.image.length = 32 ∧ ((run (.exchange 0 9) chained).port 0).slotSeq = 9 ∧
    ((run (.exchange 0 9) chained).port 0).sdo =
      replySlot chained 0 true ++ [BitVec.ofNat 8 (crc8 0xFF (replySlot chained 0 true))] ∧
    ((run (.exit 0 9) chained).port 0).chen = false := by decide +kernel
theorem test_slotRejected : let t := run (.slotRejected 0 63 []) chained
    63 % 64 ≠ 0 ∧ (t.port 0).lastRej = true ∧ (t.port 0).frm = true ∧ (t.port 0).chen = true := by decide +kernel
theorem test_output_refused : let s := chained.setPort 0 (fun q => { q with outen := 0 }); bit (s.port 0).outen 0 = false ∧
    ((run (.output 0 1 1 9) s).port 0).refused = true ∧ (run (.output 0 1 1 9) s).chans = s.chans := by decide +kernel
theorem test_output_off : let s := chained.setCh 0 (fun ch => { ch with mode := .dout, l5 := .on, level := 5, out := .on, conducting := true })
    let t := run (.output 0 0 1 9) s
    s.chained 0 ∧ bit (s.port 0).outen 0 = true ∧ (s.ch 0).owner = some 0 ∧ (s.ch 0).paired = false ∧ (s.ch 0).mode.isSwitch = true ∧
    (∀ q : Port, ∀ x ∈ (s.port q).slots, x.req.obj ≠ chObj 0) ∧ (s.port 0).full = false ∧ Ready 0x0301 (chainReq 0 1 0 (setPayload false)) s ∧
    (s.govern 0).1 = 5 ∧ (s.ch 0).l5 = .on ∧ s.quietRates 0 = [] ∧ (t.port 0).slotSeq = 9 ∧ (t.ch 0).l5 = .off ∧
    (t.ch 0).conducting = false ∧ Others 0 s t ∧
    Completion.mk (chainReq 0 1 0 (setPayload false)) 0x0301 true stOK [] s.sys.now ∈ t.completions := by decide +kernel
theorem test_output_pset : let s := chained.setCh 0 (fun ch => { ch with mode := .dop, sw := { ch.sw with tb := some 0 } })
    let t := run (.outputWithPulseSet 0 0 1 3 9) s
    let g := { (s.ch 0).sw.pgen with duty := (s.port 0).pset 3 }
    (s.ch 0).mode = .dop ∧ (s.ch 0).l5 = .off ∧ (s.ch 0).owner = some 0 ∧ Ready 0x0306 (chainReq 0 1 0 (pgenPayload g)) s ∧
    (∀ x ∈ s.completions, x.req.obj ≠ chObj 0) ∧ 2458 ≤ g.period.toNat ∧ g.period.toNat ≤ 245760000 ∧ tbAvailable s 0 g.period = true ∧ (t.port 0).slotSeq = 9 ∧ (t.port 0).refused = false ∧
    (t.ch 0).sw.pgen.duty = 0x8000 ∧ (t.ch 0).l5 = .off := by decide +kernel

-- BadgerTicksDeadlinesCompletionsAndCeiling
theorem test_badgerEvaluation : let s := atTime 100000 owned; let t := readLedgers s
    s.sys.vddOk = true ∧ s.coreDown 6 = false ∧ s.badger.heads = [] ∧ s.sys.now / 100000 ≠ s.badger.tickAt / 100000 ∧
    t.badger.meters = #v[Meter.read .reset, Meter.read .reset] ∧ t.badger.report.take 2 = le16 s.badger.ceiling ∧ t.chans = s.chans ∧
    (run .badgerEvaluation owned).badger = owned.badger := by decide +kernel
def waitingHead : Head := Head.mk (.turnOn 0) 0x0301 (some (rq 0 [1, 0, 0, 0])) 0 1 (some 100) 3 true 0 ⟨[]⟩
def deferredOn : State := { one .dout with badger := { owned.badger with heads := [waitingHead] } }
theorem test_deadline : let s := atTime 100 deferredOn; let t := run (.deadlineExpiry 0 1) s
    s.headOf 0 1 = some waitingHead ∧ waitingHead.deadline = some 100 ∧ waitingHead.deferred = true ∧ t.badger.heads = [] ∧
    Comp 0x0301 (rq 0 [1, 0, 0, 0]) stE_BUDGET [] 0 s t ∧ t.latched 197 ∧
    (run (.deadlineExpiry 0 1) (atTime 99 deferredOn)).completions = [] := by decide +kernel
def queuedSlot : Slot := Slot.mk 0x0202 { rq 5 [] with deadline := 1 } 0 false 0 1 .queued none 0 0 []
theorem test_queueDeadline : let s := atTime 10000 (owned.setPort 0 (fun q => { q with slots := [queuedSlot] }))
    let t := run (.queueDeadlineExpiry 0 1) s
    (s.port 0).held 1 = some queuedSlot ∧ queuedSlot.st = .queued ∧ queuedSlot.req.deadline ≠ 0 ∧
    queuedSlot.takenAt + 10000 * queuedSlot.req.deadline.toNat ≤ s.sys.now ∧ Comp 0x0202 queuedSlot.req stE_TIMEOUT [] 0 s t ∧
    (run (.queueDeadlineExpiry 0 1) (atTime 9999 s)).completions = [] := by decide +kernel
def runningSlot : Slot := { queuedSlot with st := .executing }
theorem test_operationCompletion : let x := Completion.mk runningSlot.req 0x0202 false stOK [7] 0
    let s := { owned.setPort 0 (fun q => { q with slots := [runningSlot] }) with completions := [x] }
    let t := run .operationCompletion s
    s.coreServes x.opcode = true ∧ x.req.tag ≠ 0 ∧ x.tdone ≤ s.sys.now ∧ s.coreDown (portCore 0) = false ∧ runningSlot ∈ (s.port 0).slots ∧ t.completions = [] ∧
    (t.port 0).slots.map (fun y => (y.st, y.status)) = [(.completed, stOK)] ∧ (t.port 0).rsp.length = 1 := by decide +kernel
theorem test_ceiling : let s := atTime 10000000 (owned.setHolm 0 (fun h => { h with case := 1600 })); let t := run .ceilingRecomputation s
    s.coreDown 6 = false ∧ s.sys.now / 10000000 ≠ s.badger.ceilAt / 10000000 ∧ t.badger.ceilAt = 10000000 ∧ (run .ceilingRecomputation t).badger = t.badger ∧ t.badger.ceiling = s.ceilingNow ∧ t.chans = s.chans := by decide +kernel
theorem test_ceiling_rise : let s := atTime 10000000 { owned with badger := { owned.badger with ceiling := 1000 } }
    s.badger.ceiling + 50 < s.ceilingNow ∧ (run .ceilingRecomputation s).latched 204 := by decide +kernel
theorem test_ledgerExcess : let s := atTime 10000000 { owned with badger := { owned.badger with excess := [(5, 0xFF, some 0)] } }
    let t := run (.ledgerExcess 5 0) s
    s.badger.excess.find? (fun x => x.1 == 5 && x.2.1 == 0xFF) = some (5, 0xFF, some 0) ∧ t.latched 205 ∧
    t.badger.excess = [(5, 0xFF, none)] := by decide +kernel
-- SheddingTurnsOffByClassAndRestores
def loaded : State := (one .dout onCh).setBadger (fun b => { b with meters := Vector.replicate 2 { Meter.reset with f := 5000000 } })
theorem test_shedState : let t := run (.shedState 0 (sup 18000 0)) loaded
    loaded.canShed 0 = true ∧ (loaded.holm 0).shed = false ∧ (∀ c : Ch, (loaded.ch c).acts = []) ∧ shedList loaded 0 = [0] ∧ loaded.sys.internal = [] ∧
    (t.holm 0).shed = true ∧ (t.ch 0).l5 = .off ∧ (t.ch 0).presag.isSome = true ∧ t.latched 198 := by decide +kernel
theorem test_shedStep : let s := atTime 200000 (loaded.setHolm 0 (fun h => { h with shed := true, shedLow := 7 })); let t := run (.shedStep 0 18000) s
    let first := atTime 5 (loaded.setHolm 0 (fun h => { h with shed := true }))
    s.canShed 0 = true ∧ (s.holm 0).up = true ∧ (s.holm 0).shed = true ∧ (s.holm 0).shedAt + 200000 ≤ s.sys.now ∧ (t.holm 0).shedAt = 200000 ∧
    (t.ch 0).l5 = .off ∧ (run (.shedStep 0 18000) (atTime 199999 s)).chans = s.chans ∧
    (first.holm 0).shedLow = 8 ∧ ((run (.shedStep 0 18000) first).ch 0).l5 = .off := by decide +kernel
theorem test_shedEnd : let s := owned.setHolm 0 (fun h => { h with shed := true }); let t := run (.shedStateEnd 0 (sup 19200 0)) s
    s.canShed 0 = true ∧ (s.holm 0).shed = true ∧ (s.holm 0).uv = false ∧ s.badger.heads = [] ∧ (∀ c : Ch, (s.ch c).presag = none) ∧
    (t.holm 0).shed = false ∧ t.latched 200 ∧ ((run (.shedStateEnd 0 (sup 19199 0)) s).holm 0).shed = true := by decide +kernel
theorem test_restore : let s := one .dout (fun ch => { ch with restore := .admitted, presag := some .on }); let t := run (.restore 0) s
    (s.ch 0).restore = .admitted ∧ (s.ch 0).presag = some .on ∧ (s.ch 0).paired = false ∧ (s.ch 0).mode.isOutput = true ∧
    (s.ch 0).loop.session = .none ∧ (t.ch 0).restore = .none ∧ (t.ch 0).l5 = .on ∧ t.settled 0 ∧ Others 0 s t := by decide +kernel
-- SupplyFaultsLockOutputsAndRelease
theorem test_undervoltage : let s := one .dout onCh; let t := run (.undervoltage 0 (sup 15999 0)) s
    (s.holm 0).up = true ∧ (s.holm 0).restarted = false ∧ (s.holm 0).uv = false ∧ s.uvhold 0 = false ∧ (t.holm 0).uv = true ∧
    (t.ch 0).locks.supUv = true ∧ (t.ch 0).level = 1 ∧ (t.ch 0).out = .off ∧ (t.ch 0).presag = some .on ∧
    (run (.undervoltage 0 (sup 16000 0)) s).chans = s.chans ∧ (run (.warning 0 (sup 19199 0)) s).chans = s.chans := by decide +kernel
theorem test_surge_ground : let s := one .dout onCh
    ((run (.surge 0 (sup 36001 0)) s).ch 0).locks.supSurge = true ∧ ((run (.surge 0 (sup 36001 0)) s).ch 0).level = 1 ∧
    ((run (.groundLoss 0 (sup 24000 2501)) s).ch 0).locks.supGnd = true ∧ ((run (.surge 0 (sup 36000 0)) s).holm 0).surge = false := by decide +kernel
theorem test_supplyExit : let s := run (.surge 0 (sup 36001 0)) (one .dout onCh); let t := run (.supplyStateExit 0 .surge (sup 33000 0)) s
    s.badger.heads = [] ∧ (∀ c : Ch, (s.ch c).acts = []) ∧ (s.holm 0).surge = true ∧ (s.ch 0).locks.supSurge = true ∧
    (t.ch 0).locks = .none ∧ (t.ch 0).l5 = .off ∧ (t.holm 0).surge = false := by decide +kernel
/-- A parked channel comes back at 4.0 mA. -/
theorem test_supplyExit_parked : let s := run (.surge 0 (sup 36001 0)) (one .aot (fun ch => { modemOn ch with mdm := { Mdm.reset .aot with word := 0x008120C8 } }))
    let t := run (.supplyStateExit 0 .surge (sup 33000 0)) s
    (s.holm 0).surge = true ∧ (s.ch 0).locks.supSurge = true ∧ (s.ch 0).parked = true ∧ (t.ch 0).l5 = .cur 4000000 := by decide +kernel
theorem test_supplyExit_uv : let s := run (.undervoltage 0 (sup 15999 0)) (one .dout onCh); let t := run (.supplyStateExit 0 .undervoltage (sup 19200 0)) s
    (s.holm 0).uv = true ∧ (s.ch 0).locks.supUv = true ∧ (t.holm 0).uv = false ∧ (t.holm 0).warn = false ∧ (t.ch 0).locks = .none := by
  decide +kernel
theorem test_supplyExit_gnd : let s := run (.groundLoss 0 (sup 24000 2501)) (one .dout onCh); let t := run (.supplyStateExit 0 .groundLoss (sup 24000 999)) s
    (s.holm 0).gnd = true ∧ (s.ch 0).locks.supGnd = true ∧ (t.holm 0).gnd = false ∧ (t.ch 0).l5 = .off := by decide +kernel
-- LockoutStopsAHolmAndRestartKeepsItOff
theorem test_lockout : let s := one .dout onCh; let t := run (.holmLockout 0 9999) s
    (s.holm 0).up = true ∧ (t.holm 0).up = false ∧ (t.holm 0).restarted = true ∧ (t.ch 0).out = .off ∧ (t.ch 0).conducting = false ∧
    (t.ch 0).mode = .dout ∧ (t.ch 0).presag = some .on ∧ ((run (.holmLockout 0 10000) s).holm 0).up = true ∧
    ((run (.reverse 0) s).holm 0).reversed = true := by decide +kernel
theorem test_holmRestart : let s := run (.holmLockout 0 0) (one .dout onCh); let t := run (.holmRestart 0 (.toVf 22000) (RestartRead.mk 11001 320)) s
    (s.holm 0).up = false ∧ (t.holm 0).up = true ∧ (t.holm 0).strap = .high ∧ (t.holm 0).tunc = true ∧ (t.ch 0).out = .off ∧
    (t.ch 0).sw.tj = 320 ∧ (t.ch 0).sw.theta = 20000000000000 := by decide +kernel
theorem test_holmRestart_fault : let s := (run (.holmLockout 0 0) (one .dout onCh)).setHolm 0 (fun h => { h with caseFault := true })
    let t := run (.holmRestart 0 (.toGround 10000) (RestartRead.mk 11001 320)) s
    (s.holm 0).up = false ∧ (t.holm 0).strap = .lockLow ∧ (t.ch 0).sw.theta = 85000000000000 ∧
    [StrapPin.toVf 22001, .toGround 0, .toGround 1000, .toGround 95000, .none_].map strapOf = [.invalid, .low, .invalid, .lockHigh, .open_] := by
  decide +kernel
-- HostLossHoldsThenTakesTheSafeState
theorem test_linkLoss : let s := one .dout onCh; let t := run (.linkLoss ⟨0, true, true⟩) s
    (s.holm 0).link = true ∧ (s.ch 0).l3 = none ∧ (t.holm 0).link = false ∧ (t.ch 0).l3 = some (HostLoss.mk .on (some 1000000) false .on) ∧
    (t.ch 0).conducting = true ∧ t.latched 129 ∧ (∀ c : Ch, bankOf c ≠ 0 → t.ch c = s.ch c) := by decide +kernel
theorem test_linkUp : let c := Completion.mk (rq 0 []) 0x0202 false stOK [] 5
    let s := owned.setHolm 0 (fun h => { h with link := false, held := [c] }); let t := run (.linkEstablishment 0) s
    (s.holm 0).link = false ∧ (s.holm 0).up = true ∧ s.sys.vddOk = true ∧ s.sys.internal = [] ∧ (s.holm 0).restarted = false ∧ (t.holm 0).link = true ∧
    (t.holm 0).held = [] ∧ c ∈ t.completions ∧ t.latched 129 ∧ (run (.linkLoss ⟨0, true, true⟩) s).chans = s.chans := by decide +kernel
theorem test_holdT : let f (n : Nat) : State :=
      (one .dout (fun ch => { onCh ch with l3 := some (HostLoss.mk .on (some 1000000) false .on) })).setSys (fun y => { y with raw := n })
    let s := f 1000000; let t := run (.holdTExpiry 0) s
    s.holmLive 0 = true ∧ (s.ch 0).mode.isOutput = true ∧ (t.ch 0).l3 = some (HostLoss.mk .on (some 1000000) true .on) ∧ t.settled 0 ∧
    (t.ch 0).out = .off ∧ Others 0 s t ∧ (run (.holdTExpiry 0) (f 999999)).chans = s.chans := by decide +kernel
theorem test_watchdog : let s := atTime 100000 ((one .dout onCh).setPort 0 (fun q => { q with wdt := 10 })); let t := run (.portWatchdogExpiry 0) s
    s.wdDue 0 = true ∧ (t.port 0).wdExpired = true ∧ t.latched 162 ∧ (t.ch 0).l3.isSome = true ∧ (s.port 1).wdt = 0 ∧
    (atTime 99999 s).wdDue 0 = false := by decide +kernel
-- BeaconsTsyncRelayBurrowAndSeal
theorem test_beacon : (owned.holm 0).link = true ∧ (owned.holm 0).up = true ∧ owned.sys.tstepHolms.contains 0 = false ∧
    ((run (.timeBeacon 0 ⟨24576000000, 350⟩) owned).holm 0).beacons = 21 ∧
    ((run (.timeBeacon 0 ⟨24576000000, 350⟩) (owned.setSys (fun y => { y with slew := -7 }))).holm 0).rate = -1 := by decide +kernel
theorem test_timeUncertain : let s := owned.setHolm 0 (fun h => { h with slave := 500000 })
    (s.holm 0).up = true ∧ (s.holm 0).tunc = false ∧ (s.holm 0).lastBeacon + 500000 ≤ (s.holm 0).slave ∧
    ((run (.timeUncertain 0) s).holm 0).tunc = true := by decide +kernel
def synced (g : Nat) : State := atTime 20000 (owned.setSys (fun y => { y with tsyncMode := 2, tsyncTarget := BitVec.ofNat 64 g }))
theorem test_tsync_step : (synced 30001).sys.tsyncLast = none ∧ (synced 30001).sys.tsyncMode ≠ 0 ∧
    (run (.tsyncEdge 1000) (synced 30001)).sys.now = 30001 ∧ (run (.tsyncEdge 1000) (synced 30000)).sys.slew = 10000 ∧
    (run (.tsyncEdge 1000) (synced 10000)).sys.slew = -10000 ∧ (run (.tsyncEdge 1000) (synced 9999)).latched 251 ∧
    (run (.tsyncEdge 1000) (synced 9999)).sys.slew = 0 ∧ (run (.tsyncEdge 999) (synced 5)).sys = (synced 5).sys := by decide +kernel
theorem test_tsync_capture : let s := owned.setSys (fun y => { y with tsyncMode := 1 }); s.sys.tsyncMode ≠ 0 ∧
    (run (.tsyncEdge 1000) s).latched 250 ∧ (run (.tsyncEdge 1000) s).sys.now = s.sys.now := by decide +kernel
theorem test_tsync_watchdog : let s := (synced 400000).setPort 0 (fun q => { q with wdt := 10 }); let t := run (.tsyncEdge 1000) s
    t.sys.now = 400000 ∧ s.wdDue 0 = false ∧ t.wdDue 0 = false ∧ (t.port 0).wdAt = 380000 := by decide +kernel
def relayed : ActMsg := ActMsg.mk 0 0 8 .off false 0 0 0 0 true false none
theorem test_relay : let s := owned.setHolm 0 (fun h => { h with relay := [relayed] }); let t := run (.crossHolmRelay 0) s
    (s.holm 0).relay = [relayed] ∧ (s.holm 0).link = true ∧ bankOf relayed.tgt = 1 ∧ (s.holm 1).link = true ∧
    (t.holm 0).relay = [] ∧ (t.holm 1).bus = [relayed] ∧
    ((run (.crossHolmRelay 0) (s.setHolm 1 (fun h => { h with link := false }))).holm 1).bus = [] := by decide +kernel
def mapped : State := one .dout (fun ch => { ch with bmap := BurEntry.mk 0x80 0 0 })
theorem test_burEn : let t := run (.burEn 0 (pin 9000)) mapped
    (mapped.holm 0).up = true ∧ (mapped.holm 0).restarted = false ∧ (mapped.holm 0).burEn = false ∧ (mapped.holm 0).mapHere = true ∧
    bit (mapped.ch 0).bmap.bflags 7 = true ∧ (mapped.ch 0).locks.any = false ∧ (mapped.ch 0).inBreak = false ∧ (t.ch 0).level = 2 ∧ (t.ch 0).out = t.burDemand 0 ∧
    ((run (.burIn 0 0 (pin 9000)) t).ch 0).out = .on ∧ ((run (.burEn 0 (pin 0)) t).ch 0).level ≠ 2 := by decide +kernel
theorem test_seal : let s := owned; s.sys.vio = true ∧ s.legal.sealed ≠ true ∧ s.sys.order ≠ 2 ∧
    (run (.seal (pinAt true)) s).legal = { s.legal with sealed := true, sealRec := true } ∧ (run (.seal (pinAt true)) s).den.lec = 1 := by decide +kernel
theorem test_seal_pa : let s := owned.setSys (fun y => { y with order := 2 })
    s.sys.vio = true ∧ s.sys.order = 2 ∧ (run (.seal (pinAt true)) s).legal = s.legal := by decide +kernel

-- SamplesFeedComparatorsWhoseActionsTakeLevelFour
def fed : SampleIn := SampleIn.mk [ChainIn.mk [.word 1000] []] 50 0 0
/-- A BRG channel whose chain takes every modulator word. -/
def oneBrg (f : Chan → Chan := id) : State := one .brg (fun ch => f { ch with filt := { ch.filt with sdecm1 := 0 } })
theorem test_sample : let s := atTime 60 (oneBrg (fun ch => { ch with thr := ch.thr.set 0 { Thr.reset with st := .armed, level := 500 } }))
    let h := (s.ch 0).thr[(0 : Fin 4)]; let f := (s.ch 0).filt.absorb (s.sampleEnd fed)
    s.samples 0 = true ∧ s.uncomputed 0 = false ∧ SampleIn.senseBad fed = false ∧ s.sampleEnd fed = 10 ∧
    (f.run (s.ch 0).front fed.inputs).2.1 = some 1000 ∧ f.supp = 0 ∧
    h.st = .armed ∧ h.src = 0 ∧ h.sreq = false ∧ h.dskip = false ∧ h.ffire = false ∧ h.falling = false := by decide +kernel
theorem test_sample_none : let s := one .brg (fun ch => { ch with brg := { ch.brg with latch := true } })
    s.samples 0 = true ∧ s.uncomputed 0 = true ∧ ((run (.sample 0 fed) s).ch 0).filt.gap = true ∧
    owned.samples 0 = false ∧ (run (.sample 0 fed) owned).chans = owned.chans := by decide +kernel
theorem test_action : let g := ActMsg.mk 5 2 0 .off false 0 77 0 0 true false none
    let s := (one .dout onCh).setHolm 0 (fun h => { h with bus := [g] }); let t := run (.action 0 ⟨[]⟩) s
    (s.holm 0).bus.find? (fun a => a.tgt == 0 && a.note.isNone) = some g ∧ (s.ch 0).changing = none ∧ (s.ch 0).locks.any = false ∧ s.burrowOn 0 = false ∧ (s.ch 0).l3 = none ∧
    (s.ch 0).moved = none ∧ g.kind = .off ∧ g.live = true ∧ (t.ch 0).level = 4 ∧ (t.ch 0).l5 = .off ∧ (t.ch 0).conducting = false ∧
    (t.ch 0).acts = [ActHold.mk 5 2 .off 77 true] ∧ (t.holm 0).bus = [] ∧ Others 0 s t := by decide +kernel
theorem test_chainedArming : let s := atTime 10 (one .brg (fun ch => { ch with thr := ch.thr.set 3 { Thr.reset with st := .pending, timer := some 10 } }))
    (s.ch 0).thr[(3 : Fin 4)].st = .pending ∧ ((run (.chainedArming 0 3) s).ch 0).thr[(3 : Fin 4)].st = .armed ∧
    ((run (.chainedArming 0 3) (atTime 9 s)).ch 0).thr[(3 : Fin 4)].st = .pending := by decide +kernel
-- BoundariesAndInstantsTakeEffect
def swapping : State := one .brg (fun ch => { ch with filt := { ch.filt with swap := some (Swap.mk 1 true 0x1001 0xFE (rq 0 []) 0 false) } })
theorem test_swapBoundary : let s := atTime 105 swapping; let t := run (.swapBoundary 0) s
    s.samples 0 = true ∧ s.swapDue 0 (Swap.mk 1 true 0x1001 0xFE (rq 0 []) 0 false) = true ∧ objBank (rq 0 []).obj = some 0 ∧
    (s.holm 0).link = true ∧ (t.ch 0).filt.swap = none ∧ (t.ch 0).filt.s1.activeB = true ∧ (t.ch 0).filt.mdiv = 0x1001 ∧
    (t.ch 0).filt.sdecm1 = 0xFE ∧ (t.ch 0).filt.settlePend = true ∧ Others 0 s t ∧ t.completions.length = 1 ∧
    (run (.swapBoundary 0) (atTime 104 s)).chans = s.chans := by decide +kernel
def planned : State := (one .brg).setHolm 0 (fun h => { h with pend := some (PlanPend.mk [some 4] 500 []) })
theorem test_planEffect : let s := atTime 500 planned; let t := run (.planEffect 0) s
    (s.holm 0).up = true ∧ (t.holm 0).pend = none ∧ (t.ch 0).brg.rate = some 4 ∧ (t.holm 0).planSeq = 1 ∧ (t.holm 0).teff = 500 ∧
    (∀ c : Ch, bankOf c ≠ 0 → t.ch c = s.ch c) ∧ (run (.planEffect 0) (atTime 499 planned)).chans = planned.chans := by decide +kernel
theorem test_movedChange : let v := Moved.mk (.demand .off false) 0x0301 (rq 0 [0, 0, 0, 0]) 700
    let s := atTime 700 (one .dout (fun ch => { onCh ch with moved := some v })); let t := run (.movedChange 0 ⟨[]⟩) s
    (s.ch 0).moved = some v ∧ s.holmLive 0 = true ∧ (s.govern 0).1 = 5 ∧ (s.ch 0).l5 = .on ∧ objBank v.req.obj = some 0 ∧
    (s.holm 0).link = true ∧ (t.ch 0).moved = none ∧ (t.ch 0).l5 = .off ∧ (t.ch 0).conducting = false ∧
    Comp 0x0301 v.req stOK [] 0 s t ∧ Others 0 s t ∧ (run (.movedChange 0 ⟨[]⟩) (atTime 699 s)).chans = s.chans := by decide +kernel
def reloading : State := (one .brg (fun ch => { ch with filt := { ch.filt with s1 := { ch.filt.s1 with hist := [1] } } })).setHolm 0
  (fun h => { h with reloadDp := true })
theorem test_datapathReload : let s := reloading; let t := run (.datapathReload 0) s
    (s.holm 0).reloadDp = true ∧ (s.holm 0).up = true ∧ s.sys.failedEngines = [] ∧ (t.holm 0).reloadDp = false ∧
    (t.ch 0).filt.s1.hist = [] ∧ (∀ c : Ch, bankOf c ≠ 0 ∨ (s.ch c).mode.usesFilter = false → t.ch c = s.ch c) ∧
    (owned.holm 0).reloadDp = false := by decide +kernel
-- BridgeDiagnosticsReportAndClear
/-- A condition of CH0 has held since the count of ticks was 0, which is now n. -/
def holding4 (w : Watch) (n : Nat) (s : State) : State :=
  (s.setCh 0 (fun ch => { ch with watch := [(w, 0)] })).setSys (fun y => { y with raw := n })
def bridge : State := one .brg (fun ch => { ch with brg := { ch.brg with exOn := true } })
theorem test_disturbed : let t := run (.disturbedInputEvent 0 (.modLimit true false)) bridge
    (bridge.ch 0).mode = .brg ∧ (bridge.holm 0).up = true ∧ (bridge.holm 0).restarted = false ∧ (bridge.holm 0).link = true ∧
    bridge.sys.vddOk = true ∧ (run (.disturbedInputEvent 0 (.modLimit false true)) t).chans = t.chans ∧ (t.ch 0).brg.modLim = true ∧ (t.ch 0).filt.later.map (·.1) = [0] ∧ Others 0 bridge t := by decide +kernel
/-- 2 % of 5000 is 100; a driver at its limit counts after 20 µs; in carrier excitation not within BLANK of a reversal. -/
theorem test_disturbed_steps : let f (v : Int) (s : State) : State := run (.disturbedInputEvent 0 (.senseStep v)) s
    let n (s : State) : Nat := (s.ch 0).filt.later.length; let a := f 5000 bridge
    let d (k : Nat) : State := run (.disturbedInputEvent 0 (.driverLimit 75000 k)) bridge
    (a.ch 0).brg.vsen = some 5000 ∧ n a = 0 ∧ n (f 5100 a) = 0 ∧ n (f 5101 a) = 1 ∧ n (f 4899 a) = 1 ∧
    n (d 199) = 0 ∧ n (d 200) = 1 ∧ ((d 200).ch 0).brg.drvLim = true ∧ (bridge.ch 0).carrierMode = false ∧
    n (run (.disturbedInputEvent 0 (.driverLimit 74999 0)) (d 200)) = 2 := by decide +kernel
theorem test_diagnostic : let s := holding4 .leakBad 200000 bridge; let t := run (.diagnosticReport 0 .leakage) s
    let v := holding4 .leakOk 2000000 t; let u := run (.diagnosticClearance 0 .leakage) v
    (s.ch 0).hasDiag .leakage = true ∧ (s.ch 0).brg.enabled .leakage = true ∧ (s.ch 0).brg.rep .leakage = false ∧
    s.heldFor 0 (diagBad .leakage) 200000 = true ∧ t.latched 4 ∧ (t.ch 0).brg.leakRep = true ∧ Others 0 s t ∧
    v.heldFor 0 (diagSound .leakage) 2000000 = true ∧ (u.ch 0).brg.leakRep = false ∧
    ((run (.diagnosticReport 0 .leakage) (holding4 .leakBad 199999 bridge)).ch 0).brg.leakRep = false ∧
    ((run (.diagnosticClearance 0 .leakage) (holding4 .leakOk 1999999 t)).ch 0).brg.leakRep = true ∧
    (s.ch 0).brg.enabled .impedance = false := by decide +kernel
theorem test_excitationShort : let f (ua n : Nat) : State := holding4 .excShort n (one .brg (fun ch => { ch with brg := { ch.brg with exOn := true, iexc := ua } }))
    let s := f 75000 2000; let t := run (.excitationShort 0) s
    s.shorted 0 = true ∧ s.heldFor 0 .excShort 2000 = true ∧ (t.ch 0).brg.latch = true ∧ (t.ch 0).brg.exOn = false ∧
    (t.ch 0).brg.shortNow = true ∧ t.latched 4 ∧ Others 0 s t ∧ (run (.excitationShort 0) (f 75000 1999)).chans = (f 75000 1999).chans ∧
    (s.setHolm 0 (fun h => { h with vx := 6000 })).deliverable 0 ≠ 0 ∧ ((run (.excitationSupply 0 3499) bridge).holm 0).vxLow = true ∧
    ((run (.excitationSupply 0 3500) bridge).holm 0).vxLow = false := by decide +kernel
-- LoopDiagnosticsAndFallback
def loopOut (f : Loop → Loop) : State := one .aoi (fun ch => { ch with l5 := .cur 12000000, out := .cur 12000000, level := 5, loop := f ch.loop })
theorem test_compliance : let s := holding4 .compBelow 100000 (loopOut id); let t := run (.compliance 0 0 true) s
    let u := holding4 .compNear 1000000 t
    (s.ch 0).paired = false ∧ (s.ch 0).acts = [] ∧ (s.ch 0).parked = false ∧ (s.ch 0).loop.compl = false ∧
    s.heldFor 0 .compBelow 100000 = true ∧ (t.ch 0).loop.compl = true ∧ (t.ch 0).loop.complAt = 100000 ∧ Others 0 s t ∧
    ((run (.compliance 0 0 true) (holding4 .compBelow 99999 (loopOut id))).ch 0).loop.compl = false ∧
    ((run (.compliance 0 0 false) u).ch 0).loop.compl = false ∧
    ((run (.compliance 0 0 false) (holding4 .compNear 999999 t)).ch 0).loop.compl = true := by decide +kernel
theorem test_alarmFallback : let f (n : Nat) : State :=
      (loopOut (fun l => { l with alarm := true, dirHigh := true, compl := true })).setSys (fun y => { y with raw := n })
    let s := f 500000; let t := run (.alarmFallback 0 0) s
    (s.ch 0).highAlarm = true ∧ (s.ch 0).loop.session = .none ∧ (s.ch 0).loop.fallback = false ∧ (s.ch 0).loop.complAt + 500000 ≤ s.sys.raw ∧ (s.ch 0).level = 5 ∧
    (t.ch 0).loop.fallback = true ∧ (t.ch 0).l5 = .cur ((s.ch 0).alarmNa false) ∧ t.settled 0 ∧ Others 0 s t ∧
    ((run (.alarmFallback 0 0) (f 499999)).ch 0).loop.fallback = false := by decide +kernel
theorem test_readback : let f (n : Nat) (l : Loop → Loop) : State := holding4 .rbFault n (loopOut l)
    let s := f 500000 id; let u := f 500000 (fun l => { l with word := 0 })
    s.heldFor 0 .rbFault 500000 = true ∧ bit (s.ch 0).loop.word 9 = true ∧ bit (u.ch 0).loop.word 9 = false ∧
    ((run (.readbackFault 0 0) s).ch 0).loop.alarm = true ∧ ((run (.readbackFault 0 0) u).ch 0).out = .cur 12000000 ∧
    ((run (.readbackFault 0 0) u).ch 0).loop.readback = true ∧ ((run (.readbackFault 0 0) (f 499999 id)).ch 0).loop.readback = false := by
  decide +kernel
theorem test_wireBreaks : let s := holding4 .breakOn 1000000 (loopOut id); let i := holding4 .breakOn 1000000 (one .aii)
    let b (m : Mode) (n : Nat) : State := holding4 .breakOff n (one m (fun ch => { ch with loop := { ch.loop with wireBreak := true } }))
    (s.ch 0).loop.wireBreak = false ∧ s.heldFor 0 .breakOn 1000000 = true ∧ ((run (.loopWireBreak 0 0 true) s).ch 0).loop.wireBreak = true ∧
    ((run (.loopWireBreak 0 0 true) i).ch 0).loop.wireBreak = true ∧
    ((run (.loopWireBreak 0 0 false) (b .aoi 1000000)).ch 0).loop.wireBreak = false ∧
    ((run (.loopWireBreak 0 0 false) (b .aot 2000000)).ch 0).loop.wireBreak = false ∧
    ((run (.loopWireBreak 0 0 false) (b .aot 1999999)).ch 0).loop.wireBreak = true := by decide +kernel
theorem test_loopShort : let i := holding4 .shortOn 1000000 (one .aii); let t := run (.loopShort 0 0 true) i
    let p := run (.loopShort 0 0 true) (holding4 .shortOn 1000000 (one .aip))
    let late := t.setSys (fun y => { y with raw := 11000000 }); let soon := t.setSys (fun y => { y with raw := 10999999 })
    (i.ch 0).loop.short = false ∧ (t.ch 0).loop.short = true ∧ (t.ch 0).loop.folded = true ∧ (t.ch 0).loop.foldAt = 1000000 ∧
    (p.ch 0).loop.short = true ∧ (p.ch 0).loop.folded = false ∧
    ((run (.loopShort 0 0 false) (holding4 .shortOff 2000000 p)).ch 0).loop.short = false ∧
    ((run (.foldBackRetry 0 true) late).ch 0).loop.folded = false ∧ ((run (.foldBackRetry 0 false) late).ch 0).loop.folded = true ∧
    ((run (.foldBackRetry 0 true) soon).ch 0).loop.folded = true := by decide +kernel
-- ModemTransactionsRunRetryAndAreHeard
def asked : MdmTx := MdmTx.mk 1 false 5 1 0 3 []
def master (f : Mdm → Mdm) : State := one .aoi (fun ch => { modemOn ch with mdm := f ch.mdm })
theorem test_transaction : let s := master (fun m => { m with txq := [asked] }); let t := run (.transaction 0) s
    s.modemUp 0 = true ∧ (s.ch 0).master = true ∧ (s.ch 0).mdm.run = none ∧ (s.ch 0).mdm.quietAt ≤ s.sys.now ∧ (t.ch 0).mdm.txq = [] ∧
    (t.ch 0).mdm.run.map (·.attempts) = some 1 ∧
    ((run (.transaction 0) (master (fun m => { m with txq := [asked], quietAt := 1 }))).ch 0).mdm.run = none := by decide +kernel
theorem test_replyTimeout : let s := atTime 10000000 (master (fun m => { m with run := some (MdmRun.mk asked 2 0 0) })); let t := run (.replyTimeout 0) s
    (s.ch 0).rt1 ≤ 10000000 ∧ 2 ≤ fld (s.ch 0).mdm.word 15 12 ∧ (t.ch 0).mdm.run = some (MdmRun.mk asked 2 0 1) ∧
    (t.ch 0).mdm.quietAt = 10000000 + rt2 ∧ (run (.replyTimeout 0) (atTime 0 s)).chans = s.chans := by decide +kernel
/-- A reply to `asked`, with its check byte, and the report of a last attempt without one. -/
theorem test_masterReply : let s := (master (fun m => { m with run := some (MdmRun.mk asked 1 0 0) })).setHolm 0 (fun h => { h with slave := 88 })
    let f := MdmHeard.mk [0x06, 0x81, 0x03, 0x00, 0x84] false false 44 500; let t := run (.modemFrame 0 f) s
    let z := run (.replyTimeout 0) (atTime 10000000 (master (fun m => { m with run := some (MdmRun.mk asked 3 0 0) })))
    (s.ch 0).master = true ∧ MdmHeard.discarded f = false ∧ replyMatches asked true f.bytes = true ∧ (t.ch 0).mdm.run = none ∧
    (t.ch 0).mdm.rx = [MdmEntry.mk 1 1 1 44 [0x06, 0x81, 0x03, 0x00]] ∧ t.latched 7 ∧
    (z.ch 0).mdm.run = none ∧ (z.ch 0).mdm.rx.map (fun e => (e.kind, e.info)) = [(4, 0x31)] ∧ z.latched 7 := by decide +kernel
def heard (bad : Bool) : MdmHeard := MdmHeard.mk [0x02, 0x80, 0x03, 0x00, 0x81] bad false 44 500
theorem test_modemFrame : let s := (one .aot (fun ch => { modemOn ch with mdm := .reset .aot })).setHolm 0 (fun h => { h with slave := 88 }); let t := run (.modemFrame 0 (heard false)) s
    s.modemUp 0 = true ∧ (s.ch 0).master = false ∧ (s.ch 0).mdm.accepts (heard false).bytes = true ∧ (s.ch 0).mdm.rx.length < 8 ∧
    (t.ch 0).mdm.reqNum = 1 ∧ (t.ch 0).mdm.rx = [MdmEntry.mk 2 0 1 44 [0x02, 0x80, 0x03, 0x00]] ∧ t.latched 7 ∧
    (run (.modemFrame 0 (heard true)) s).chans = s.chans ∧ (run (.modemFrame 0 { heard false with level := 80 }) s).chans = s.chans ∧
    ((run (.modemFrame 0 { heard false with level := 120 }) s).ch 0).mdm.reqNum = 1 ∧ frameSound [0x02, 0x80, 0x03, 0x00, 0x80] = false ∧
    frameSound [0x02, 0x80, 0x03, 0x01, 0x80] = false := by decide +kernel
-- DigitalInputsFollowCountAndCapture
/-- CH0 in DI with an input word, at a count of ticks. -/
def din (w : BitVec 32) (n : Nat) (f : Din → Din := id) : State :=
  (one .di (fun ch => { ch with din := f { ch.din with word := w } })).setSys (fun y => { y with raw := n })
-- DEB = 1 (100 µs): 13 V on type 3 (TYPE 0) is on; after 1000 ticks the state follows, before it only the filtered level
theorem test_edge : let s := (din 1 1000).setHolm 0 (fun h => { h with slave := 5000 }); let t := run (.edge 0 13000 1000) s
    inputLevel (s.ch 0).din.word (s.ch 0).din.raw 13000 = true ∧ inputLevel (s.ch 0).din.word (s.ch 0).din.raw 12999 = false ∧
    (t.ch 0).din = { Din.reset with word := 1, raw := true, state := true, rawSince := 0, tsRise := 4000 } ∧
    ((run (.edge 0 13000 999) s).ch 0).din = { Din.reset with word := 1, raw := true, rawSince := 1 } ∧
    (run (.edge 0 12999 1000) s).chans = s.chans := by decide +kernel
theorem test_edge_broken : let s := din 0 1000 (fun d => { d with wireBreak := true })
    ((run (.edge 0 13000 1000) s).ch 0).din = { Din.reset with wireBreak := true, raw := true } := by decide +kernel
theorem test_wireBreak_overload : let w := holding4 .sinkLow 100000 (din 0x00080000 0); let b := run (.wireBreak 0 true) w
    let f (n : Nat) : State := holding4 .supplyLimit n (one .di (fun ch => { ch with wiring := 0x20 })); let t := run (.sensorSupplyOverload 0 true) (f 1000000)
    bit (w.ch 0).din.word 19 = true ∧ w.heldFor 0 .sinkLow 100000 = true ∧ (b.ch 0).din.wireBreak = true ∧
    ((run (.wireBreak 0 false) (holding4 .sinkHigh 500000 b)).ch 0).din.wireBreak = false ∧ (t.ch 0).ssup = true ∧
    (t.ch 0).din.folded = true ∧ (t.ch 0).din.overload = true ∧
    ((run (.sensorSupplyOverload 0 false) (holding4 .supplyClear 2000000 t)).ch 0).din.overload = false ∧
    ((run (.foldBackRetry 0 true) (t.setSys (fun y => { y with raw := 11000000 }))).ch 0).din.folded = false ∧
    ((run (.sensorSupplyOverload 0 true) (f 999999)).ch 0).din.folded = false := by decide +kernel
theorem test_count : let s := one .cnt (fun ch => { ch with din := { ch.din with count := 0xFFFFFFFF } })
    let g := one .cnt (fun ch => { ch with din := { ch.din with word := 0x00420000 } }); let n := glitchNs (g.ch 0).din.word
    (s.ch 0).din.raw = false ∧ glitchNs (s.ch 0).din.word ≤ 500 ∧ fld (s.ch 0).din.word 25 24 = 0 ∧ fld (s.ch 0).din.word 23 22 ≠ 1 ∧
    ((run (.count 0 (pe 13000 (500)) (pe 0 300000)) s).ch 0).din.count = 0 ∧ ((run (.count 0 (pe 13000 (500)) (pe 0 300000)) s).ch 0).din.ovf = true ∧
    inputLevel (s.ch 0).din.word false 13000 = true ∧ inputLevel (s.ch 0).din.word false 12999 = false ∧
    (run (.count 0 (pe 12999 500) (pe 0 0)) s).chans = s.chans ∧
    fld (g.ch 0).din.word 23 22 = 1 ∧ ((run (.count 0 (pe 13000 n) (pe 13000 0)) g).ch 0).din.count = 0 ∧ inputLevel (g.ch 0).din.word (g.ch 0).din.inLevel 0 = bit (g.ch 0).din.word 21 ∧
    ((run (.count 0 (pe 13000 (n)) (pe 0 300000)) g).ch 0).din.count = 0 ∧ ((run (.count 0 (pe 13000 (n)) (pe 13000 300000)) g).ch 0).din.count = 1 ∧
    0 < n ∧ (run (.count 0 (pe 13000 (n - 1)) (pe 13000 300000)) g).chans = g.chans := by decide +kernel
def capturing (n : Nat) : State := one .cnt (fun ch => { ch with din := { ch.din with word := 0x00800000, caps := List.replicate n (0, 0), capLost := 0xFFFF } })
theorem test_capture : fld ((capturing 3).ch 0).din.word 23 22 = 2 ∧ bit ((capturing 3).ch 0).din.word 21 = false ∧
    glitchNs ((capturing 3).ch 0).din.word ≤ 500 ∧ ((capturing 3).ch 0).din.inLevel = false ∧
    ((run (.capture 0 (pe 13000 500)) (capturing 3)).ch 0).din.caps = List.replicate 4 (0, 0) ∧
    ((run (.capture 0 (pe 13000 500)) (capturing 4)).ch 0).din.caps = List.replicate 4 (0, 0) ∧
    ((run (.capture 0 (pe 13000 500)) (capturing 4)).ch 0).din.capLost = 0xFFFF := by decide +kernel
-- SwitchProtectionLocksAndReleases
def switched (f : Sw → Sw) : State := one .dout (fun ch => { onCh ch with sw := f ch.sw })
abbrev LockedBy (l : Locks) (s t : State) : Prop :=
  (t.ch 0).locks = l ∧ (t.ch 0).level = 1 ∧ (t.ch 0).out = .off ∧ (t.ch 0).conducting = false ∧ (t.ch 0).l5 = .on ∧ Others 0 s t
theorem test_wireModelTrip : let s := switched (fun w => { w with theta := 60000000000000 })
    bit (s.ch 0).sw.wire 31 = false ∧ thetaTrip (s.ch 0).sw.wire = (s.ch 0).sw.theta ∧ (s.ch 0).locks.fuse = false ∧
    LockedBy { Locks.none with fuse := true } s (run (.wireModelTrip 0) s) ∧
    (run (.wireModelTrip 0) (switched (fun w => { w with theta := 59999999999999 }))).completions = [] := by decide +kernel
theorem test_fuseTableTrip : let s := switched (fun w => { w with wire := 0x80000A00, fuseF := 2 ^ 48 })
    bit (s.ch 0).sw.wire 31 = true ∧ LockedBy { Locks.none with fuse := true } s (run (.fuseTableTrip 0) s) := by decide +kernel
theorem test_thermalHold : let s := switched id
    (s.holm 0).case + 961 < 2800 ∧ s.sensingFaulty 0 = false ∧ fld (s.ch 0).sw.prot 22 16 = 60 ∧ (s.ch 0).conducting = true ∧
    LockedBy { Locks.none with thermHold := true } s (run (.thermalHold 0 961) s) ∧
    (run (.thermalHold 0 960) s).chans.toList.map Chan.locks = s.chans.toList.map Chan.locks := by decide +kernel
def heldHot (f : Sw → Sw) : State :=
  one .dout (fun ch => { ch with l5 := .on, level := 1, locks := { Locks.none with thermHold := true }, sw := f ch.sw })
theorem test_restart : let s := heldHot id; let t := run (.restart 0 719) s
    (s.holm 0).case + 719 < 2800 ∧ s.sensingFaulty 0 = false ∧ (719 : Int) < ((fld (s.ch 0).sw.prot 22 16 : Int) - 15) * 16 ∧
    0 < s.restartsLeft 0 ∧ (t.ch 0).locks = .none ∧ (t.ch 0).sw.restarts = [0] ∧ (t.ch 0).out = .on ∧ t.settled 0 ∧ Others 0 s t := by
  decide +kernel
theorem test_restart_spent : let s := heldHot (fun w => { w with restarts := [0, 0, 0] })
    s.restartsLeft 0 = 0 ∧ LockedBy { Locks.none with thermLatch := true } s (run (.restart 0 719) s) := by decide +kernel
theorem test_thermalLatch : LockedBy { Locks.none with thermLatch := true } (switched id) (run (.thermalLatch 0 2800 0) (switched id)) ∧
    ((switched id).ch 0).locks.thermLatch = false := by decide +kernel
theorem test_sensingFault : let s := heldHot (fun w => { w with junBad := true })
    (s.ch 0).sw.tj < 2800 ∧ s.sensingFaulty 0 = false ∧ (s.ch 0).sw.junBad = true ∧
    LockedBy { Locks.none with thermLatch := true } s (run (.sensingFault 0 0 false) s) ∧
    (run (.sensingFault 0 0 false) (heldHot id)).chans = (heldHot id).chans := by decide +kernel
theorem test_reverse : let s := switched id; let t := run (.reverseCurrentHold 0 24101) s
    (s.holm 0).vf + 100 < 24101 ∧ LockedBy { Locks.none with revHold := true } s t ∧ 24049 < (t.holm 0).vf + 50 ∧
    (run (.reverseCurrentHoldEnd 0 (PinRead.mk 24049 9999)) t).chans = t.chans ∧ (run (.reverseCurrentHoldEnd 0 (PinRead.mk 24050 10000)) t).chans = t.chans ∧
    ((run (.reverseCurrentHoldEnd 0 (PinRead.mk 24049 10000)) t).ch 0).locks = .none ∧ ((run (.reverseCurrentHoldEnd 0 (PinRead.mk 24049 10000)) t).ch 0).out = .on := by
  decide +kernel
-- SwitchDiagnosticsPulsesAndLearning
theorem test_switchDiag : let s := switched (fun w => { w with olLow := 200 }); let t := run (.onStateOpenLoad 0 true) s
    let u (w : Watch) (n : Nat) : State := holding4 w n (one .dout (fun ch => { ch with level := 5 }))
    s.switchUp 0 = true ∧ (s.ch 0).conducting = true ∧ bit (s.ch 0).sw.diag 22 = true ∧
    10 * fld (s.ch 0).sw.diag 7 0 = 200 ∧ (t.ch 0).sw.onOpen = true ∧
    ((run (.onStateOpenLoad 0 true) (switched (fun w => { w with olLow := 199 }))).ch 0).sw.onOpen = false ∧
    ((run (.onStateOpenLoad 0 false) (switched (fun w => { w with onOpen := true, olHigh := 500 }))).ch 0).sw.onOpen = false ∧
    ((run (.currentLimit 0 true) s).ch 0).sw.limiting = true ∧ ((u .offHigh 0).ch 0).conducting = false ∧
    bit ((u .offHigh 0).ch 0).sw.diag 23 = true ∧ bit ((u .offHigh 0).ch 0).sw.diag 21 = false ∧
    ((run (.offStateOpenLoad 0 0 true) (u .offHigh 200000)).ch 0).sw.offOpen = true ∧
    ((run (.shortToSupply 0 0 true) (u .nearVf 10000)).ch 0).sw.shortVf = true ∧
    ((run (.shortToSupply 0 0 true) (u .driven 10000)).ch 0).sw.extDrive = true ∧
    ((run (.offStateOpenLoad 0 0 true) (u .offHigh 199999)).ch 0).sw.offOpen = false := by decide +kernel
/-- The reports of an off switch clear. -/
theorem test_switchDiag_clear : let s := one .dout (fun ch => { ch with level := 5, sw := { ch.sw with offOpen := true, shortVf := true } })
    let u (w : Watch) : State := holding4 w 500000 s
    ((run (.offStateOpenLoad 0 0 false) (u .offLow)).ch 0).sw.offOpen = false ∧
    ((run (.shortToSupply 0 0 false) (u .below5)).ch 0).sw.shortVf = false := by decide +kernel
/-- CH0 in DOP on a timebase of 10 ms that started at time 0, with a generator setting and the count of device time. -/
def pulsing (g : Pgen) (on : Bool) (n : Nat) : State :=
  let s := one .dop (fun ch => { onCh ch with conducting := on, sw := { ch.sw with tb := some 0, pgen := g, prun := g } })
  atTime n (s.setHolm 0 (fun h => { h with tbs := h.tbs.set 0 (some (Timebase.mk 245760 0 none)) }))
/-- An on edge at the second period start, none again within the period; an on-time under 10 µs latches the settings only. -/
theorem test_pulseOn : let s := pulsing .reset false 100000; let t := run (.pulseEdge 0 true ⟨[4167]⟩) s
    let z := run (.pulseEdge 0 true ⟨[4167]⟩) (pulsing { Pgen.reset with duty := 65 } false 100000)
    let tb := Timebase.mk 245760 0 none
    s.timebase 0 = some tb ∧ s.driven 0 = true ∧ tb.onEdge ((s.ch 0).sw.edgePhase tb) (s.tbNow 0) = some 2457600000 ∧
    (t.ch 0).conducting = true ∧ (t.ch 0).sw.lastOn = 2457600000 ∧ (run (.pulseEdge 0 true ⟨[4167]⟩) t).chans = t.chans ∧
    (z.ch 0).conducting = false ∧ (z.ch 0).sw.lastOn = 2457600000 ∧ (s.ch 0).sw.edgeFrom < 2457600000 := by decide +kernel
theorem test_pulseOff : let s := pulsing .reset true 50000; let t := run (.pulseEdge 0 false ⟨[4167]⟩) s
    246 + (s.ch 0).sw.prun.onTime ≤ (s.ch 0).sw.prun.period.toNat ∧ (t.ch 0).conducting = false ∧ (t.ch 0).sw.bucket = 5 ∧ clampEnergy (s.holm 0).vf ⟨[4167]⟩ = 5 ∧
    (t.ch 0).sw.offSince = 50000 ∧ (run (.pulseEdge 0 false ⟨[4167]⟩) (pulsing .reset true 49999)).chans = (pulsing .reset true 49999).chans := by
  decide +kernel
theorem test_inrush : let s := atTime 11000000 (switched (fun w => { w with onSince := 10000000 }))
    (s.ch 0).sw.onSince + 1000000 ≤ s.sys.now ∧ (s.ch 0).sw.offSince + 10000000 ≤ (s.ch 0).sw.onSince ∧
    (s.ch 0).sw.learned = false ∧ (s.ch 0).sw.lrnDone = false ∧ (run (.inrushLearning 0 1 1 1) (run (.inrushLearning 0 7 8 9) s)).chans = (run (.inrushLearning 0 7 8 9) s).chans ∧ ((run (.inrushLearning 0 7 8 9) s).ch 0).sw.ipk = 7 ∧
    ((run (.inrushLearning 0 7 8 9) s).ch 0).sw.i100 = 9 ∧ ((run (.inrushLearning 0 7 8 9) s).ch 0).sw.learned = true := by decide +kernel
theorem test_sequencerFault : let s := switched id; let t := run (.sequencerFault 0 true) s
    (t.ch 0).reloading = true ∧ (t.ch 0).locks.seqFault = true ∧ (t.ch 0).conducting = false ∧ Others 0 s t ∧
    t.sys.internal = [.load (.seqr 0)] ∧ t.internalWaits (.load (.seqr 0)) = false ∧
    ((run (.sequencerReloadComplete 0) t).ch 0).reloading = false ∧ (run (.sequencerReloadComplete 0) t).sys.internal = [] := by decide +kernel
/-- A reload that finds all 32 internal slots held waits (R314). -/
theorem test_sequencer_waits : let s := (switched (fun w => w)).setSys (fun y => { y with internal := List.replicate 32 (.shed 1) })
    let t := run (.sequencerFault 0 true) s
    t.latched 187 ∧ t.internalWaits (.load (.seqr 0)) = true ∧ ((run (.sequencerReloadComplete 0) t).ch 0).reloading = true := by decide +kernel

-- EngineFailuresRecoverOrEscalate
theorem test_heartbeat : let t := run (.heartbeatMiss (.core 1)) owned
    owned.sys.failedEngines = [] ∧ Sys2Proof.Machine.Engine.beats (.core 1) = true ∧ owned.recentlyRecovered (.core 1) = false ∧
    t.sys.failedEngines = [FailedEngine.mk (.core 1) 1 0] ∧ (t.port 0).rdy = false ∧ t.sys.startDue = [] := by decide +kernel
theorem test_engineRecovery : let s := owned.setSys (fun y => { y with failedEngines := [FailedEngine.mk (.core 1) 1 0] })
    let t := run (.engineRecovery (.core 1) true) s
    s.internalWaits (.load (.core 1)) = false ∧ t.sys.failedEngines = [] ∧ t.sys.recoveries.head? = some (.core 1, 0) ∧ t.latched 248 ∧ (t.port 0).rdy = true := by decide +kernel
theorem test_engineRecovery_c6 : let s := owned.setSys (fun y => { y with failedEngines := [FailedEngine.mk (.core 6) 1 0] })
    let t := run (.engineRecovery (.core 6) true) s
    s.badger.heads = [] ∧ (∀ c : Ch, (s.ch c).presag = none) ∧ t.latched 206 ∧ t.latched 248 ∧ t.sys.failedEngines = [] := by decide +kernel
theorem test_dbe : let t := run (.doubleBitError (.engine 6)) owned
    owned.recentlyRecovered (.core 7) = false ∧ t.sys.failedEngines = [FailedEngine.mk (.core 7) 3 0] := by decide +kernel
def settledDown : State := atTime 10000000 owned
abbrev Warm (k : BitVec 8) (t : State) : Prop := t.sys.startDue = [StartDue.mk .warm 10000000 k]
theorem test_escalations : settledDown.sys.startDue = [] ∧ settledDown.sys.startAt + 10000000 ≤ settledDown.sys.now ∧
    Warm 3 (run .supervisorWatchdog settledDown) ∧ Warm 4 (run (.doubleBitError (.shared none)) settledDown) ∧
    Warm 1 (run (.nreset 10000) settledDown) ∧ (run (.nreset 10000) settledDown).sys.nresetLow = true ∧ (run (.nreset 999) settledDown).sys = settledDown.sys := by decide +kernel
theorem test_reload_fails : let s := settledDown.setSys (fun y => { y with failedEngines := [FailedEngine.mk (.core 1) 1 0] })
    Warm 3 (run (.engineRecovery (.core 1) false) s) := by decide +kernel
theorem test_lockstep : owned.recentlyRecovered (.core 0) = false ∧
    (run .lockstepFault owned).sys.failedEngines = [FailedEngine.mk (.core 0) 2 0] ∧ (run .lockstepFault owned).sys.startDue = [] ∧
    (run .lockstepFault owned).internalWaits (.load (.core 0)) = false ∧
    (run (.engineRecovery (.core 0) true) (run .lockstepFault owned)).latched 248 ∧
    Warm 3 (run (.heartbeatMiss (.core 4)) (run .lockstepFault settledDown)) ∧
    (run .lockstepFault settledDown).engineDown (.core 4) = false ∧
    (let s := settledDown.setSys (fun y => { y with recoveries := [(.core 0, 9000000)] })
     s.recentlyRecovered (.core 0) = true ∧ Warm 3 (run .lockstepFault s)) := by decide +kernel
-- StartsKeepAndResetWhatTheirKindNames
def warmDue : State := settledDown.setSys (fun y => { y with startDue := [StartDue.mk .warm 10000000 3] })
theorem test_warmStart : let s := warmDue
    s.sys.vddOk = true ∧ s.dueStart .warm = some (StartDue.mk .warm 10000000 3) ∧ s.upd.work = none ∧ (resolveBoot s).upd.inTrial = false ∧
    (warmNow 3 true s).sys.start = .warm ∧ (warmNow 3 true s).den.boot = 2 ∧ settledDown.dueStart .warm = none := by
  decide +kernel
/-- The image of manufacture is the one whose digest is stored; another digest makes the warm start fail. -/
def kept : State := { warmDue with upd := { warmDue.upd with mdig := factoryInfo.mdig } }
theorem test_warmStart_good : (resolveBoot kept).warmGood = true := by
  have h : (resolveBoot kept).factorySlot (resolveBoot kept).upd.active = true := by decide +kernel
  simp only [State.warmGood, State.slotDigest, h, if_true, Bool.true_or, Bool.and_true]
  exact beq_self_eq_true factoryInfo.mdig
theorem test_warmStart_bad : (resolveBoot warmDue).warmGood = false ∧ (run (.warmStart true) warmDue).upd.fails.length = 1 ∧
    (run (.warmStart true) warmDue).sys.startDue = [StartDue.mk .cold 10000000 5] :=
  ⟨by decide +kernel, by decide +kernel, by decide +kernel⟩
def facts : ColdFacts := ColdFacts.mk 3300 100000 true false true 470 0 false 0 true false none
def unpowered : State := settledDown.setSys (fun y => { y with vddOk := false })
theorem test_coldStart : unpowered.sys.vddOk = false ∧ 2950 < facts.vdd ∧ (bootImage unpowered).imageGood = true ∧
    (run (.coldStart { facts with vdd := 2950 }) unpowered).sys.vddOk = false ∧ unpowered.keptByBurrow 0 = false ∧ unpowered.sys.order ≠ 2 ∧
    (run (.coldStart facts) unpowered).sys.now = 0 ∧ (run (.coldStart facts) unpowered).legal.port = some 0 := by decide +kernel
/-- Under an owner key that the co-signature does not fit, the check of the image fails the cold start. -/
def cosigned : State := { unpowered with sec := { unpowered.sec with ownerKey := some [1] } }
theorem test_coldStart_bad : (bootImage cosigned).imageGood = false ∧ (run (.coldStart facts) cosigned).den.boot = 2 ∧
    (run (.coldStart facts) cosigned).latched 253 := ⟨by decide +kernel, by decide +kernel, by decide +kernel⟩
theorem test_recoveryStart : let s := settledDown.setSys (fun y => { y with startDue := [StartDue.mk .recovery 10000000 5] })
    s.dueStart .recovery = some (StartDue.mk .recovery 10000000 5) ∧ (run .recoveryStart s).sys.start = .recovery := by decide +kernel
theorem test_failedStart : let s := settledDown.setSys (fun y => { y with startDue := [StartDue.mk .warm 10000000 3] })
    let t := run (.failedStart ⟨4, facts⟩) s
    s.upd.work = none ∧ (resolveBoot s).upd.inTrial = false ∧ s.upd.fails = [] ∧ s.upd.failRun < 2 ∧ s.upd.afterRec = false ∧
    s.sys.start ≠ .recovery ∧ t.den.boot = 2 ∧ t.upd.fails = [(s.wall, BitVec.ofNat 8 StartKind.warm.code, 4)] ∧
    t.sys.startDue = [StartDue.mk .cold 10000000 5] ∧ t.latched 253 := by decide +kernel
-- PowerFailFlushAndTrials
theorem test_powerFail : let t := run .powerFailWarning owned; t.sys.vddOk = false ∧ t.sys.rdyOnce = false ∧ t.den.buf = [] ∧ (t.port 0).rdy = false ∧
    t.chans = owned.chans := by decide +kernel
theorem test_flush : let r : DenRec := { firstStartRec with seq := 2 }; let s := { settledDown with den := { settledDown.den with buf := [r], lastFlush := 9000000 } }
    s.coreDown 7 = false ∧ s.den.legWait = [] ∧ s.den.buf ≠ [] ∧ s.den.lastFlush + 1000000 ≤ s.sys.now ∧
    (run .flush s).den.lastFlush = 10000000 ∧ (run .flush s).den.buf = [] ∧ (run .flush (atTime 9999999 s)).den.buf = [r] ∧
    (run .flush settledDown).den.lastFlush = 0 := by decide +kernel
def trial (secs : Nat) : State := (settledDown.setSys (fun y => { y with wallBase := 65536 * secs, wallAt := 10000000 })).setUpd (fun _ =>
  { owned.upd with active := 1, st := #v[.fallback, .trial], twin := 100, trialStarts := 1, tboot := 3 })
theorem test_trialRevert : let t := Nat.iterate bootTick 5 (run (.trialRevert .window) (trial 100))
    (trial 100).upd.work = none ∧ (trial 100).coreDown 7 = false ∧ (trial 100).configReads = true ∧
    (trial 100).upd.inTrial = true ∧ (trial 100).windowOver = true ∧ (trial 100).upd.trialLegal = false ∧ t.upd.active = 0 ∧
    t.upd.st = #v[.active, .verified] ∧ t.latched 243 ∧ t.sys.startDue = [StartDue.mk .cold 10000000 2] ∧
    (trial 99).windowOver = false ∧ (run (.trialRevert .window) (trial 99)).upd.active = 1 := by decide +kernel
theorem test_trialWarning : (trial 40).upd.warned60 = false ∧ (trial 40).sys.rtcStopped = false ∧
    (trial 40).upd.twin ≤ (trial 40).trialSecs + 60 ∧ (run .trialWindowWarning (trial 40)).latched 255 ∧
    (run .trialWindowWarning (trial 39)).upd.warned60 = false := by decide +kernel
theorem test_clearFails : let s := (atTime 100000000 owned).setUpd (fun u => { u with fails := [(0, 1, 4)] })
    s.sys.start ≠ .recovery ∧ s.sys.startAt + 100000000 ≤ s.sys.now ∧ (run .failedStartRecordClear s).upd.fails = [] ∧
    (run .failedStartRecordClear (atTime 99999999 s)).upd.fails = [(0, 1, 4)] := by decide +kernel
-- BlocksFramesAndPinsAreTaken
def entry : EvEntry := EvEntry.mk 5 0 0 0 []
def opened : State := atTime 10000 (owned.setPort 2 (fun q => { q with
  evOpen := [entry]
  subs := q.subs.set 15 { StreamSub.reset with units := [[1, 2, 3, 4, 5, 6, 7, 8]] } }))
theorem test_blocks : (opened.port 2).evOpen ≠ [] ∧ opened.coreDown (portCore 2) = false ∧ ((opened.port 2).subs[15]).units ≠ [] ∧
    ((run (.eventBlockClose 2) opened).port 2).rsp.length = 1 ∧ ((run (.streamBlockClose 2 15) opened).port 2).rsp.length = 1 ∧
    ((run (.eventBlockClose 2) (atTime 9999 opened)).port 2).rsp = [] := by decide +kernel
def frame : HkFrame := { flatAt 480 with cur := List.replicate 8 40, vf := 23900, case := 416, isns := 700 }
theorem test_housekeeping : let s := one .dout onCh; let t := run (.housekeepingFrame 0 frame) s
    let u := run (.housekeepingFrame 0 { frame with zero := 10, ref := 65536 * 2 }) s
    frame.clamps = [] ∧ (s.holm 0).up = true ∧ (s.holm 0).link = true ∧ (t.holm 0).vf = 23900 ∧ (t.holm 0).case = 416 ∧
    (t.holm 0).isnsPad = 700 ∧ (t.holm 0).junNext = 1 ∧ frame.zero = 0 ∧ frame.ref = 65536 ∧ (u.holm 0).vf = HkFrame.fix { frame with zero := 10, ref := 65536 * 2 } 23900 ∧
    t.sys.snapSeq = 1 ∧ (t.ch 0).sw.icur = 40 ∧ (t.ch 1).sw.icur = 0 ∧ (t.ch 0).sw.tj = 480 ∧ (t.ch 1).sw.tj = (s.ch 1).sw.tj ∧
    (∀ c : Ch, bankOf c ≠ 0 → t.ch c = s.ch c) := by decide +kernel
theorem test_pins : ((run (.senseSelect 1 7) owned).holm 1).sel = 7 ∧ (run (.vioInvalid false) owned).sys.vio = false ∧
    (run (.vholdCharged 5000 3300) owned).badger.capUf = 2200 := by decide +kernel
theorem test_commonFault : let s := atTime 10000 (owned.setSys (fun y => { y with nfault := true }))
    s.sys.nfault = true ∧ s.anyFault = false ∧ (run .commonFaultHoldExpiry s).sys.nfault = false ∧
    (run .commonFaultHoldExpiry (atTime 9999 s)).sys.nfault = true := by decide +kernel
-- StepKeepsWindowsAndReservedBitsLegal, DeviceTimeNeverRunsBackExceptAtAColdStart
theorem test_ports_legal : State.reset.portsLegal ∧ (∃ t, step State.reset = .next t) := ⟨by decide +kernel, _, rfl⟩
theorem test_time_forward : State.reset.sys.now ≤ (res (step State.reset)).sys.now := by decide +kernel

-- further clauses of the statements, in their order
/-- A change of the boot record goes on at each tick of an empty queue: its work moves on by one stage. -/
theorem test_idle_boot : let s := run (.updActivate (rq 0x0500 (le16 3600 ++ [10, 0]))) { owned with upd := twoSlots 0 #v[.active, .verified] }
    let t := res (step s)
    s.pending = [] ∧ s.upd.work.isSome = true ∧ (∀ c, (s.ch c).changing = none ∧ (s.ch c).brg.next = none) ∧ (∀ b, s.tbWaits b = false) ∧
    (bootTick (tickClocks s)).sys.internal = [] ∧ t.sys.now = 1 ∧ t.upd.work.map (·.stage) = (bootTick (tickClocks s)).upd.work.map (·.stage) ∧
    t.upd.work ≠ s.upd.work := by decide +kernel
/-- The deadline of a slot has passed when its row runs; a request that its Holm does not hear. -/
theorem test_preFail_late : let r := { rq 5 [] with deadline := 1 }
    let s := atTime 10000 (owned.setPort 0 (fun q => { q with slots := [Slot.mk 0x0202 r 0 false 0 1 .queued none 0 0 []] }))
    (0x0202, Instr.chInfo r) ∈ mailboxRows r ⟨[]⟩ ∧ s.opReady 0x0202 r = true ∧ s.opLate 0x0202 r = true ∧
    s.preFail 0x0202 r = some stE_TIMEOUT ∧ Comp 0x0202 r stE_TIMEOUT [] 0 s (run (.chInfo r) s) ∧
    (atTime 9999 s).opLate 0x0202 r = false := by decide +kernel
theorem test_unheard : let r := rq 5 []; let s := run (.linkLoss ⟨0, true, false⟩) owned; let t := run (.chInfo r) s
    (s.holm 0).link = true ∧ (s.holm 0).deaf = true ∧ s.opReady 0x0202 r = true ∧ s.preFail 0x0202 r = none ∧ s.unheard r.obj = some 0 ∧
    t.completions = s.completions ∧ (t.holm 0).held = [Completion.mk r 0x0202 false stE_ABORTED [] 0] := by decide +kernel
/-- CH.DIAG with CLRX returns the excitation of a latched channel. -/
theorem test_chDiag_clrx : let s := one .brg (fun ch => { ch with brg := { ch.brg with latch := true, meas := 0x000203E0 } })
    let w : BitVec 64 := 0x00001264FFFF0000; let r := rq 0 (le64 w.toNat); let u := clearShort 0 (setDiag 0 w (s.running r))
    let p := profileOf u 0x0204 8 (.excite 0 (s.ch 0).brg.meas (some w)); let t := run (.chDiag r) s
    Ready 0x0204 r s ∧ w &&& 0xFFFFE00000000000#64 = 0 ∧ bit w 44 = true ∧ (s.ch 0).brg.latch = true ∧ s.badger.heads = [] ∧
    s.coreDown 6 = false ∧ (s.holm 0).shed = false ∧ failures u true r.prio.toNat p none = [] ∧ failures u false r.prio.toNat p none = [] ∧
    (t.ch 0).brg.latch = false ∧ (t.ch 0).brg.exOn = true ∧ (t.ch 0).brg.diag = 0x00000264FFFF0000 ∧ t.latched 4 ∧ Others 0 s t ∧
    Comp 0x0204 r stOK [] 0 s t := by decide +kernel
/-- CH.MODE to the present mode and wiring; from DI with sensor supply to a thermocouple bridge; a pair from DO to DOP; DO to OFF. -/
theorem test_chMode_same : let s := one .di (fun ch => { ch with wiring := 0x20 }); let r := rq 0 [BitVec.ofNat 8 Mode.di.code, 0x20, 0, 0]
    r.payload = [BitVec.ofNat 8 Mode.di.code, 0x20, 0, 0] ∧ Ready 0x0201 r s ∧ wiringOk .di 0x20 = true ∧ s.oddMember 0 = false ∧
    Comp 0x0201 r stOK [] 0 s (run (.chMode r ⟨[]⟩) s) ∧ (run (.chMode r ⟨[]⟩) s).chans = s.chans := by decide +kernel
/-- The premises of ChModeRebuildsItsChannel on CH0, and what the command leaves at once. -/
abbrev ModeStarts (s : State) (m : Mode) (w : Byte) : Prop :=
  let r := rq 0 [BitVec.ofNat 8 m.code, w, 0, 0]; let t := run (.chMode r ⟨[]⟩) s; let p := profileOf s 0x0201 4 (.mode 0 m w)
  Ready 0x0201 r s ∧ w &&& 0x9E = 0 ∧ wiringOk m w = true ∧ s.isLegal 0 = false ∧ s.oddMember 0 = false ∧ s.badger.heads = [] ∧
  ((s.ch 0).paired = true → m.isSwitch = true) ∧ ((s.ch 0).mode.isOutput = true → (s.govern 0).1 = 5) ∧ (s.ch 0).acts = [] ∧
  modeFits s 0 m w = true ∧ s.coreDown 6 = false ∧ s.quietRates 0 = [] ∧ (s.holm 0).shed = false ∧
  failures s true r.prio.toNat p none = [] ∧ failures s false r.prio.toNat p none = [] ∧
  (∀ d ∈ s.members 0, (t.ch d).changing = some (ModeChange.mk m w 0x0201 (if d = 0 then some r else none) s.sys.raw false) ∧
    (t.ch d).mode = (s.ch d).mode ∧ (t.ch d).conducting = false)
theorem test_chMode_brg : ModeStarts ((one .di).setHolm 0 (fun h => { h with vx := 3500 })) .brg 0x01 := by decide +kernel
theorem test_chMode_wiring : ModeStarts (one .aoi) .aoi 0x40 := by decide +kernel
theorem test_chMode_off : ModeStarts (one .dout onCh) .off 0 := by decide +kernel
theorem test_chMode_pair : (twin (fun ch => { ch with paired := true }) (fun ch => { ch with paired := true })).members 0 = [0, 1] ∧
    ModeStarts (twin (fun ch => { ch with paired := true }) (fun ch => { ch with paired := true })) .dop 0 := by decide +kernel
theorem test_chMode_burrow : let s := one .dout (fun ch => { ch with bmap := BurEntry.mk 0x80 0 0 })
    bit (s.ch 0).bmap.bflags 7 = true ∧ Mode.isOutput .dop = true ∧ ModeStarts s .dop 0 := by decide +kernel
/-- Under user trim the codes are those of the trim's own currents (R147). -/
theorem test_loopTrim_user : let s := one .aoi (fun ch => { ch with loop := { ch.loop with trim := .user 3991200 20027400 } })
    let t := run (.loopTrim (rq 0 [1, 0, 0, 0, 0, 0, 0, 0])) s; let u := run (.loopTrim (rq 0 ([2, 0, 0, 0] ++ le32 4000000))) t
    (t.ch 0).out = .cur 3991200 ∧ (u.ch 0).out = .cur 20027400 ∧ (u.ch 0).loop.session = .atC20 4000000 := by decide +kernel
/-- UPD.BEGIN, UPD.ACTIVATE and UPD.CONFIRM are admitted where nothing waits and the reserve covers them. -/
theorem test_upd_admits : owned.badger.heads = [] ∧ owned.coreDown 6 = false ∧ owned.configReads = true ∧
    owned.den.bufBytes + 8 ≤ owned.badger.reserveBytes ∧ (rq 0x0500 [0]).deadline = 0 := by decide +kernel
/-- A trim session holds an output that level 5 leaves off (R55, R146). -/
theorem test_ownRelease_trim : let s := one .aoi (fun ch => { ch with loop := { ch.loop with session := .atC4 } }); let r := rq 0 [0, 0, 0, 0]
    Ready 0x0D02 r s ∧ energised (s.ch 0).mode (s.ch 0).l5 = false ∧ (s.ch 0).loop.session ≠ .none ∧
    Done (.ownRelease r) 0x0D02 r stE_STATE [] s s := by decide +kernel
theorem test_ownResume_half : let s := run (.linkLoss ⟨1, true, false⟩) owned; let r := rq 0x0800 [0, 0, 0, 0]
    Ready 0x0D03 r s ∧ (s.ch 15).owner = some 0 ∧ s.whole 1 = false ∧ (s.holm 1).link = true ∧
    Comp 0x0D03 r stE_STATE [] 0 s (run (.ownResume r) s) := by decide +kernel
/-- A read of 0x60 to 0x9F latches both, a wrong check value latches all the same, one from CMDQ does not reach 0x60. -/
theorem test_devtime_both : let s := atTime 0x0102030405060708 owned; let t := run (.devtime 0 3 0x60 0x40 true) s
    let z := run (.devtime 0 3 0x60 0x40 false) s
    (t.port 0).devLatch = 0x0102030405060708 ∧ (t.port 0).imgLatch = pimage s 0 ∧ (z.port 0).devLatch = 0x0102030405060708 ∧
    (z.port 0).imgLatch = pimage s 0 ∧ ((z.port 0).sdo.drop 5).take 64 = List.replicate 64 0 ∧ (z.port 0).frm = true ∧
    ((run (.devtime 0 3 0x61 4 true) s).port 0).devLatch = (s.port 0).devLatch := by decide +kernel
theorem test_ceiling_fall : let s := atTime 10000000 { owned with badger := { owned.badger with ceiling := 3551 } }
    s.ceilingNow + 50 < s.badger.ceiling ∧ (run .ceilingRecomputation s).latched 204 ∧
    ¬(run .ceilingRecomputation (atTime 10000000 { owned with badger := { owned.badger with ceiling := 3550 } })).latched 204 := by
  decide +kernel
/-- A switch channel's junction ledger, a bank's ledger, before its time. -/
theorem test_ledgerExcess_kinds : let s := atTime 10000000 { one .dout with badger := { owned.badger with excess := [(6, 0, some 0), (1, 0xFF, some 1)] } }
    (s.ch 0).mode.isSwitch = true ∧ s.badger.excess.find? (fun x => x.1 == 6 && x.2.1 == 0) = some (6, 0, some 0) ∧
    s.badger.excess.find? (fun x => x.1 == 1 && x.2.1 == 0xFF) = some (1, 0xFF, some 1) ∧
    (run (.ledgerExcess 6 0) s).latched 205 ∧ (run (.ledgerExcess 6 0) s).badger.excess = [(6, 0, none), (1, 0xFF, some 1)] ∧
    (run (.ledgerExcess 1 0) s).badger = s.badger := by decide +kernel
theorem test_shedState_restarted : let s := loaded.setHolm 0 (fun h => { h with link := false })
    s.canShed 0 = false ∧ (s.holm 0).up = true ∧ ((run (.shedState 0 (sup 18000 0)) s).holm 0).shed = true ∧
    (run (.shedState 0 (sup 18000 0)) s).chans = s.chans := by decide +kernel
theorem test_warningExit : let s := run (.warning 0 (sup 19199 0)) owned; let t := run (.supplyStateExit 0 .warning (sup 19200 0)) s
    (s.holm 0).warn = true ∧ (s.holm 0).uv = false ∧ (s.holm 0).shed = false ∧ (s.holm 0).link = true ∧ (t.holm 0).warn = false ∧
    t.latched 128 ∧ ((run (.supplyStateExit 0 .warning (SupplyRead.mk 19200 0 999999)) s).holm 0).warn = true := by decide +kernel
/-- After a restart a channel works in OFF until its link is back, whatever mode was set. -/
theorem test_restart_off : let s := run (.holmLockout 0 0) (one .dout onCh); let t := run (.holmRestart 0 .none_ (RestartRead.mk 11001 320)) s
    let u := run (.linkEstablishment 0) (run (.linkLoss ⟨0, true, true⟩) t)
    s.modeNow 0 = .off ∧ t.modeNow 0 = .off ∧ (t.ch 0).mode = .dout ∧ (t.ch 0).level = 0 ∧ (t.ch 0).conducting = false ∧
    (run (.holmRestart 0 .none_ (RestartRead.mk 11000 320)) s).holms = s.holms ∧ ((run (.reverse 0) s).holm 0).reversed = true ∧
    (run (.reverse 0) s).chans = s.chans ∧ (u.holm 0).restarted = false ∧ u.modeNow 0 = .dout := by decide +kernel
/-- One lane alone: to the Holm, from the Holm, and what is lost already. -/
theorem test_lanes : let s := one .dout onCh; let d := run (.linkLoss ⟨0, true, false⟩) s; let u := run (.linkLoss ⟨0, false, true⟩) s
    (d.holm 0).link = true ∧ (d.holm 0).deaf = true ∧ (d.ch 0).l3.isSome = true ∧ (u.holm 0).link = false ∧ (u.holm 0).deaf = false ∧
    (u.ch 0).l3 = none ∧ u.latched 129 ∧ run (.linkLoss ⟨0, true, false⟩) d = d ∧
    ((run (.linkEstablishment 0) d).holm 0).deaf = false ∧ ((run (.linkEstablishment 0) d).holm 0).beacons = (d.holm 0).beacons ∧
    ((run (.linkEstablishment 0) (atTime 500001 d)).holm 0).beacons = 0 := by decide +kernel
/-- A later edge is accepted after 100 µs, none before, none in mode Off; an edge at the target gives no slew. -/
theorem test_tsync_later : let s (n : Nat) : State := (synced 20000).setSys (fun y => { y with tsyncLast := some n })
    (run (.tsyncEdge 1000) (s 19000)).latched 250 ∧ run (.tsyncEdge 1000) (s 19001) = s 19001 ∧
    (run (.tsyncEdge 1000) (s 19000)).sys.slew = 0 ∧ (run (.tsyncEdge 1000) (s 19000)).sys.now = 20000 ∧
    run (.tsyncEdge 1000) owned = owned ∧ owned.sys.tsyncMode = 0 := by decide +kernel
/-- An undelivered action's report waits behind a waiting action of its channel. -/
theorem test_relay_undelivered : let s := (owned.setHolm 0 (fun h => { h with relay := [relayed], bus := [{ relayed with tgt := 1 }] })).setHolm 1 (fun h => { h with link := false })
    s.whole 0 = true ∧ s.whole 1 = false ∧ ((run (.crossHolmRelay 0) s).holm 0).bus = [{ relayed with tgt := 1 }, { relayed with note := some 5 }] ∧
    ((run (.crossHolmRelay 0) s).holm 0).relay = [] := by decide +kernel
theorem test_seal_same : let s := { owned with legal := { owned.legal with sealed := true } }
    s.legal.sealRec = false ∧ (run (.seal (pinAt false)) s).legal.sealed = false ∧ (run (.seal (pinAt false)) s).den = s.den := by decide +kernel
/-- The half-periods of a carrier: the mean of the positive less that of the negative, halved, is the ratio (R68, R87). -/
theorem test_carrier_half : let p : Front := { wire := false, blank := 9, m0 := 16, range := 2500, half := some 160 }
    (feedOne p .reset (ChainIn.mk (List.replicate 160 (.word 1000)) (List.replicate 160 (.word (-1000))))).2 = [(1000, false)] := by
  decide +kernel
/-- An uncomputed instant uses a number and is not the last sample that ended. -/
theorem test_uncomputed_last : let s := one .brg (fun ch => { ch with brg := { ch.brg with latch := true }, filt := { ch.filt with seq := 9, lastSeq := 8, lastTs := 7 } })
    let t := run (.sample 0 fed) s
    s.uncomputed 0 = true ∧ (t.ch 0).filt.seq = 10 ∧ (t.ch 0).filt.lastSeq = 8 ∧ (t.ch 0).filt.lastTs = 7 := by decide +kernel
/-- A chain that has nothing to wait for: recoveries, reloads. -/
theorem test_loads_free : let t := run (.sequencerFault 0 true) (switched id)
    t.journalWaits 0 = false ∧ owned.loadWaits (.core 1) = false ∧ owned.loadWaits (.core 6) = false := by decide +kernel
/-- A parity fault marks a word, a watchdog one none. -/
theorem test_seq_flaw : ((run (.sequencerFault 0 false) (switched id)).ch 0).ucode.flaws.length = 1 ∧
    ((run (.sequencerFault 0 true) (switched id)).ch 0).ucode.flaws = [] := by decide +kernel
-- a warm start with a bad warm state block
theorem test_warmStart_block : let t := warmNow 3 false warmDue
    (t.ch 0).owner = none ∧ (t.port 0).opwindow = 160 ∧ (t.port 0).wdt = 0 ∧ t.latched 254 ∧ ((warmNow 3 true warmDue).ch 0).owner = some 0 ∧
    ¬(warmNow 3 true warmDue).latched 254 := by decide +kernel
/-- The conditions of a cold start: 10 ms above 2.95 V, or one that is due on a powered device. -/
def coldDue : State := settledDown.setSys (fun y => { y with startDue := [StartDue.mk .cold 10000000 2] })
theorem test_coldStart_due : coldDue.sys.vddOk = true ∧ coldDue.dueStart .cold = some (StartDue.mk .cold 10000000 2) ∧
    (bootImage coldDue).imageGood = true ∧ (run (.coldStart facts) coldDue).sys.now = 0 ∧ (run (.coldStart facts) coldDue).sys.lastCause = 2 ∧
    ((run (.coldStart facts) coldDue).ch 0).owner = none ∧ run (.coldStart facts) settledDown = settledDown := by
  exact ⟨by decide +kernel, by decide +kernel, by decide +kernel, by decide +kernel, by decide +kernel, by decide +kernel, by decide +kernel⟩
theorem test_coldStart_risen : run (.coldStart { facts with vddFor := 99999 }) unpowered = unpowered ∧
    (run (.coldStart facts) unpowered).sys.vddOk = true := ⟨by decide +kernel, by decide +kernel⟩
theorem test_coldStart_crystal : (run (.coldStart { facts with crystalOk := false }) unpowered).sys.intOsc = true ∧
    (run (.coldStart { facts with crystalOk := false }) cosigned).sys.intOsc = true ∧
    (run (.coldStart { facts with crystalOk := false }) cosigned).latched 249 := ⟨by decide +kernel, by decide +kernel, by decide +kernel⟩
theorem test_coldStart_bad_plant : (run (.coldStart facts) cosigned).sys.now = 0 ∧ (run (.coldStart facts) cosigned).legal.port = some 0 ∧
    (run (.coldStart facts) cosigned).upd.fails.length = 1 ∧ ((run (.coldStart facts) cosigned).ch 0).mode = .off :=
  ⟨by decide +kernel, by decide +kernel, by decide +kernel, by decide +kernel⟩
theorem test_coldStart_cut : let f := { facts with cut := some 7 }
    f.cut.isSome = true ∧ (run (.coldStart f) unpowered).sys.vddOk = false ∧ (run (.coldStart f) unpowered).den.buf = [] ∧
    (run (.coldStart f) unpowered).den.boot = 2 ∧ ((run (.coldStart f) unpowered).port 0).rdy = false :=
  ⟨by decide +kernel, by decide +kernel, by decide +kernel, by decide +kernel, by decide +kernel⟩

end Sys2Proof.Tests
end

section
/-! PROOFS. The anchor of a state: the ordering code, the legal partition without its latest SEAL record, the queue and device
time, which hardly any function of the model writes. One lemma for each function says that it leaves the anchor; O6 is assembled
from them and from the few functions that move it (the seal, LGL.DECLARE, TSYNC, the starts and the tick).

The lemmas about the named updates are proved `by rfl` and not by the term `rfl`, so that `simp` also uses them under the binders
of `overAll`. -/

namespace Sys2Proof.Machine

structure Anchor where
  order : BitVec 2
  port : Option Port
  sealed : Bool
  mask : BitVec 16
  pending : List Instr
  now : Nat

def State.anchor (s : State) : Anchor :=
  ⟨s.sys.order, s.legal.port, s.legal.sealed, s.legal.mask, s.pending, s.sys.now⟩

/-- The state that a command's own part answers, whether or not the command completes with it. -/
def Res.state : Res → State
  | .done s _ _ _ => s
  | .held s => s

@[simp] theorem Res.state_done (s : State) (st d n) : (Res.done s st d n).state = s := by rfl
@[simp] theorem Res.state_held (s : State) : (Res.held s).state = s := by rfl
@[simp] theorem ok_state (s : State) : (ok s).state = s := by rfl
@[simp] theorem okData_state (d : List Byte) (s : State) : (okData d s).state = s := by rfl

/-! ### The anchor: updates of the state, loops and branches -/

/-- A record update that writes neither the system state, the legal partition nor the queue. -/
@[simp] theorem State.anchor_mk (s : State) (chans holms ports completions badger den crc upd sec mram) :
    State.anchor ⟨s.sys, chans, holms, ports, completions, badger, den, crc, upd, sec, s.legal, mram, s.pending⟩ =
      s.anchor := by rfl
@[simp] theorem State.setCh_anchor (s : State) (c f) : (s.setCh c f).anchor = s.anchor := by rfl
@[simp] theorem State.setHolm_anchor (s : State) (b f) : (s.setHolm b f).anchor = s.anchor := by rfl
@[simp] theorem State.setPort_anchor (s : State) (p f) : (s.setPort p f).anchor = s.anchor := by rfl
@[simp] theorem State.setUnit_anchor (s : State) (u f) : (s.setUnit u f).anchor = s.anchor := by rfl
@[simp] theorem State.setBadger_anchor (s : State) (f) : (s.setBadger f).anchor = s.anchor := by rfl
@[simp] theorem State.setDen_anchor (s : State) (f) : (s.setDen f).anchor = s.anchor := by rfl
@[simp] theorem State.setUpd_anchor (s : State) (f) : (s.setUpd f).anchor = s.anchor := by rfl
@[simp] theorem setSlot_anchor (p r f s) : (setSlot p r f s).anchor = s.anchor := by rfl

@[simp] theorem State.setSys_anchor (s : State) (f : Sys → Sys) (ho : ∀ y, (f y).order = y.order)
    (hn : ∀ y, (f y).now = y.now) : (s.setSys f).anchor = s.anchor := by
  simp only [State.anchor, State.setSys, ho, hn]

@[simp] theorem overAll_anchor {α : Type} (l : List α) (f : α → State → State) (s : State)
    (h : ∀ a s, (f a s).anchor = s.anchor) : (overAll l f s).anchor = s.anchor := by
  unfold overAll
  induction l generalizing s with
  | nil => rfl
  | cons a l ih => exact (ih (f a s)).trans (h a s)

@[simp] theorem ite_anchor (p : Prop) [Decidable p] (s t : State) :
    State.anchor (if p then s else t) = if p then s.anchor else t.anchor := apply_ite ..

@[simp] theorem ite_state (p : Prop) [Decidable p] (x y : Res) :
    Res.state (if p then x else y) = if p then x.state else y.state := apply_ite ..

@[simp] theorem checked_anchor (l) (s : State) (k : Res) (h : k.state.anchor = s.anchor) :
    (checked l s k).state.anchor = s.anchor := by
  unfold checked
  split
  · rfl
  · exact h

theorem RecordsOnly.anchor {s t : State} (h : RecordsOnly s t) : t.anchor = s.anchor := by
  simp only [State.anchor, h.sys, h.legal, h.pending]

theorem OutputsOnly.anchor {s t : State} (h : OutputsOnly s t) : t.anchor = s.anchor := by
  simp only [State.anchor, h.sys, h.legal, h.pending]

/-! ### The anchor: raising events, records of the Den, completions and the outputs -/

@[simp] theorem noteDrop_anchor (p s) : (noteDrop p s).anchor = s.anchor := (noteDrop_records ..).anchor
@[simp] theorem raiseAt_anchor (src payload ts s) : (raiseAt src payload ts s).anchor = s.anchor :=
  (raiseAt_records ..).anchor
@[simp] theorem raise_anchor (src payload s) : (raise src payload s).anchor = s.anchor := (raise_records ..).anchor
@[simp] theorem arise_anchor (o s) : (arise o s).anchor = s.anchor := by simp [arise]
@[simp] theorem endInternal_anchor (o s) : (endInternal o s).anchor = s.anchor := by simp [endInternal]
@[simp] theorem noteEdge_anchor (b t switchOn s) : (noteEdge b t switchOn s).anchor = s.anchor := (noteEdge_outputs ..).anchor
@[simp] theorem assertFault_anchor (s) : (assertFault s).anchor = s.anchor := by simp [assertFault]
@[simp] theorem State.draw_anchor (s) : (State.draw s).2.anchor = s.anchor := by simp [State.draw]
@[simp] theorem nextSeq_anchor (s) : (nextSeq s).2.anchor = s.anchor := (nextSeq_records ..).anchor
@[simp] theorem flushBuf_anchor (s) : (flushBuf s).anchor = s.anchor := (flushBuf_records ..).anchor
@[simp] theorem enterRec_anchor (typ sev ovfl payload rep last s) : (enterRec typ sev ovfl payload rep last s).anchor = s.anchor :=
  (enterRec_records ..).anchor
@[simp] theorem denWrite_anchor (typ sev payload s) : (denWrite typ sev payload s).anchor = s.anchor :=
  (denWrite_records ..).anchor
@[simp] theorem denEvent_anchor (sev src obj content s) : (denEvent sev src obj content s).anchor = s.anchor :=
  (denEvent_records ..).anchor
@[simp] theorem violation_anchor (p domain code s) : (violation p domain code s).anchor = s.anchor :=
  (violation_records ..).anchor
@[simp] theorem flush_anchor (s) : (flush s).anchor = s.anchor := (flush_records ..).anchor
@[simp] theorem legalWrite_anchor (typ sev content port lec reserve s) :
    (legalWrite typ sev content port lec reserve s).anchor = s.anchor :=
  (legalWrite_records ..).anchor
@[simp] theorem legalTakes_anchor (obj s) : (legalTakes obj s).anchor = s.anchor := by simp [legalTakes]
@[simp] theorem legalCutOff_anchor (obj s) : (legalCutOff obj s).anchor = s.anchor := by simp [legalCutOff]
@[simp] theorem recordInternal_anchor (op obj s) : (recordInternal op obj s).anchor = s.anchor := by simp [recordInternal]

@[simp] theorem notify_anchor (b src payload den obj s) : (notify b src payload den obj s).anchor = s.anchor := by
  unfold notify
  split
  · split <;> simp
  · simp

@[simp] theorem notifyCh_anchor (c k payload den s) : (notifyCh c k payload den s).anchor = s.anchor := by simp [notifyCh]
@[simp] theorem notifyHolm_anchor (b k kind pos value den s) : (notifyHolm b k kind pos value den s).anchor = s.anchor := by
  simp [notifyHolm]
@[simp] theorem finishHere_anchor (op r st data delay s) : (finishHere op r st data delay s).anchor = s.anchor :=
  (finishHere_outputs ..).anchor
@[simp] theorem finish_anchor (op r st data delay s) : (finish op r st data delay s).anchor = s.anchor :=
  (finish_outputs ..).anchor
@[simp] theorem endTrim_anchor (c s) : (endTrim c s).anchor = s.anchor := (endTrim_outputs ..).anchor
@[simp] theorem setL5_anchor (c d s) : (setL5 c d s).anchor = s.anchor := (setL5_outputs ..).anchor
@[simp] theorem dropL5_anchor (c s) : (dropL5 c s).anchor = s.anchor := (dropL5_outputs ..).anchor
@[simp] theorem evalOne_anchor (c s) : (evalOne c s).anchor = s.anchor := (evalOne_outputs ..).anchor
@[simp] theorem evalOut_anchor (c s) : (evalOut c s).anchor = s.anchor := (evalOut_outputs ..).anchor
@[simp] theorem evalBank_anchor (b s) : (evalBank b s).anchor = s.anchor := (evalBank_outputs ..).anchor
@[simp] theorem swEvent_anchor (c k kind sev s) : (swEvent c k kind sev s).anchor = s.anchor := by simp [swEvent]
@[simp] theorem cancelRestore_anchor (c s) : (cancelRestore c s).anchor = s.anchor := by simp [cancelRestore]
@[simp] theorem setLock_anchor (c f s) : (setLock c f s).anchor = s.anchor := by simp [setLock]
@[simp] theorem clampPulse_anchor (c m s) : (clampPulse c m s).anchor = s.anchor := by simp [clampPulse]
@[simp] theorem clampAfter_anchor (c m before after) : (clampAfter c m before after).anchor = after.anchor := by
  simp [clampAfter]

@[simp] theorem hostLoss_anchor (c s) : (hostLoss c s).anchor = s.anchor := by
  unfold hostLoss
  dsimp only
  split <;> simp

@[simp] theorem hostLossAll_anchor (l s) : (hostLossAll l s).anchor = s.anchor := by simp [hostLossAll]
@[simp] theorem supplyLock_anchor (c f s) : (supplyLock c f s).anchor = s.anchor := by simp [supplyLock]
@[simp] theorem supplyUnlock_anchor (c f s) : (supplyUnlock c f s).anchor = s.anchor := by simp [supplyUnlock]
@[simp] theorem supplyUnlockBank_anchor (b f s) : (supplyUnlockBank b f s).anchor = s.anchor := by simp [supplyUnlockBank]

/-! ### The anchor: running a mailbox command -/

@[simp] theorem sendUnheard_anchor (b op r s) : (sendUnheard b op r s).anchor = s.anchor := by simp [sendUnheard]

@[simp] theorem Res.ends_anchor (op r) (x : Res) : (x.ends op r).anchor = x.state.anchor := by
  cases x with
  | done s st d n => simp [Res.ends]
  | held s => rfl
@[simp] theorem runMail_anchor (op r s) (body : State → Res) (h : ∀ u, (body u).state.anchor = u.anchor) :
    (runMail op r s body).anchor = s.anchor := by
  unfold runMail
  split
  · split
    · simp
    · split <;> simp [h]
  · rfl

@[simp] theorem runCh_anchor (op r s) (body : _ → State → Res) (h : ∀ a u, (body a u).state.anchor = u.anchor) :
    (runCh op r s body).anchor = s.anchor := by
  refine runMail_anchor op r s _ fun u => ?_
  split <;> simp [h]

@[simp] theorem runHolm_anchor (op r s) (body : _ → State → Res) (h : ∀ a u, (body a u).state.anchor = u.anchor) :
    (runHolm op r s body).anchor = s.anchor := by
  refine runMail_anchor op r s _ fun u => ?_
  split <;> simp [h]

@[simp] theorem runUnit_anchor (op r s) (body : _ → State → Res) (h : ∀ a u, (body a u).state.anchor = u.anchor) :
    (runUnit op r s body).anchor = s.anchor := by
  refine runMail_anchor op r s _ fun u => ?_
  split <;> simp [h]

@[simp] theorem legalNote_anchor (op r isLegal after s) : (legalNote op r isLegal after s).2.anchor = s.anchor := by
  unfold legalNote
  dsimp only
  repeat' split
  all_goals simp

@[simp] theorem legalChange_anchor (op r b) (f : State → State) (k : State → Res) (s : State)
    (hf : ∀ u, (f u).anchor = u.anchor) (hk : ∀ u, (k u).state.anchor = u.anchor) :
    (legalChange op r b f k s).state.anchor = s.anchor := by
  unfold legalChange
  dsimp only
  split <;> simp [hf, hk]

/-! ### The anchor: filter chains, plans, modes and levels -/

@[simp] theorem disturbAt_anchor (c t s) : (disturbAt c t s).anchor = s.anchor := by simp [disturbAt]
@[simp] theorem disturb_anchor (c s) : (disturb c s).anchor = s.anchor := by simp [disturb]
@[simp] theorem planCommit_anchor (b rates w s) : (planCommit b rates w s).anchor = s.anchor := by simp [planCommit]
@[simp] theorem measAtGrid_anchor (c w op r s) : (measAtGrid c w op r s).anchor = s.anchor := by simp [measAtGrid]

@[simp] theorem measTick_anchor (c s) : (measTick c s).anchor = s.anchor := by
  unfold measTick
  split <;> simp

@[simp] theorem measApply_anchor (c w op r s) : (measApply c w op r s).anchor = s.anchor := by
  unfold measApply
  dsimp only
  split <;> simp

@[simp] theorem dropHolds_anchor (src k s) : (dropHolds src k s).anchor = s.anchor := by simp [dropHolds]
@[simp] theorem disarm_anchor (c k s) : (disarm c k s).anchor = s.anchor := by simp [disarm]
@[simp] theorem tbRelease_anchor (b s) : (tbRelease b s).anchor = s.anchor := by simp [tbRelease]

@[simp] theorem placePhase_anchor (c s) : (placePhase c s).anchor = s.anchor := by
  unfold placePhase
  dsimp only
  repeat' split
  all_goals simp

@[simp] theorem tbSet_anchor (b k period s) : (tbSet b k period s).anchor = s.anchor := by simp [tbSet]

@[simp] theorem tbTake_anchor (c s) : (tbTake c s).anchor = s.anchor := by
  unfold tbTake
  split
  · split <;> simp
  · simp

@[simp] theorem tbSettle_anchor (b s) : (tbSettle b s).anchor = s.anchor := by simp [tbSettle]
@[simp] theorem tbTick_anchor (b s) : (tbTick b s).anchor = s.anchor := by simp [tbTick]
@[simp] theorem divide_anchor (c s) : (divide c s).anchor = s.anchor := by simp [divide]
@[simp] theorem loopEvent_anchor (c kind s) : (loopEvent c kind s).anchor = s.anchor := by simp [loopEvent]
@[simp] theorem mdmEvent_anchor (c kind s) : (mdmEvent c kind s).anchor = s.anchor := by simp [mdmEvent]
@[simp] theorem mdmPush_anchor (c e s) : (mdmPush c e s).anchor = s.anchor := by simp [mdmPush]
@[simp] theorem mdmAbort_anchor (c s) : (mdmAbort c s).anchor = s.anchor := by simp [mdmAbort]
@[simp] theorem enterMode_anchor (c m wiring s) : (enterMode c m wiring s).anchor = s.anchor := by simp [enterMode]
@[simp] theorem noteClearedLock_anchor (c s) : (noteClearedLock c s).anchor = s.anchor := by simp [noteClearedLock]
@[simp] theorem breakCh_anchor (g s c) : (breakCh g s c).anchor = s.anchor := by simp [breakCh]
@[simp] theorem modeRun_anchor (c m wiring mm op r s) : (modeRun c m wiring mm op r s).anchor = s.anchor := by simp [modeRun]
@[simp] theorem setChanging_anchor (mem f s) : (setChanging mem f s).anchor = s.anchor := by simp [setChanging]

@[simp] theorem modeFinish_anchor (g s) : (modeFinish g s).anchor = s.anchor := by
  unfold modeFinish
  split <;> simp

@[simp] theorem modeEnter_anchor (c g s) : (modeEnter c g s).anchor = s.anchor := by simp [modeEnter]
@[simp] theorem modeDone_anchor (c g s) : (modeDone c g s).anchor = s.anchor := by simp [modeDone]

@[simp] theorem modeTick_anchor (c s) : (modeTick c s).anchor = s.anchor := by
  unfold modeTick
  split <;> simp

@[simp] theorem releaseShare_anchor (c s) : (releaseShare c s).anchor = s.anchor := by simp [releaseShare]

@[simp] theorem modeAccept_anchor (c m wiring mm op r s) : (modeAccept c m wiring mm op r s).anchor = s.anchor := by
  unfold modeAccept
  dsimp only
  repeat' split
  all_goals simp

@[simp] theorem setDemand_anchor (c d alarm s) : (setDemand c d alarm s).anchor = s.anchor := by simp [setDemand]
@[simp] theorem levelRun_anchor (c d alarm mm op r s) : (levelRun c d alarm mm op r s).anchor = s.anchor := by simp [levelRun]

@[simp] theorem levelChange_anchor (c d alarm mm op r s) : (levelChange c d alarm mm op r s).anchor = s.anchor := by
  unfold levelChange
  split
  · simp
  · split <;> simp

/-! ### The anchor: the boot record and what an admitted operation does -/

@[simp] theorem beginNow_anchor (p len resume s) : (beginNow p len resume s).anchor = s.anchor := by simp [beginNow]
@[simp] theorem bootBegin_anchor (what s) : (bootBegin what s).anchor = s.anchor := by simp [bootBegin]

@[simp] theorem bootRecorded_anchor (what s) : (bootRecorded what s).anchor = s.anchor := by
  unfold bootRecorded
  split <;> simp

@[simp] theorem bootApply_anchor (w s) : (bootApply w s).anchor = s.anchor := by simp [bootApply]

@[simp] theorem bootFollow_anchor (what s) : (bootFollow what s).anchor = s.anchor := by
  unfold bootFollow
  split <;> simp

@[simp] theorem bootFailed_anchor (what s) : (bootFailed what s).anchor = s.anchor := by
  unfold bootFailed
  split <;> simp

@[simp] theorem bootStage_anchor (w s) : (bootStage w s).anchor = s.anchor := by
  unfold bootStage
  split <;> simp

@[simp] theorem bootTick_anchor (s) : (bootTick s).anchor = s.anchor := by
  unfold bootTick
  split <;> simp

@[simp] theorem resolveBoot_anchor (s) : (resolveBoot s).anchor = s.anchor := by
  unfold resolveBoot
  split <;> simp

@[simp] theorem bootNow_anchor (what s) : (bootNow what s).anchor = s.anchor := by simp [bootNow]
@[simp] theorem beginApply_anchor (r s) : (beginApply r s).state.anchor = s.anchor := by simp [beginApply]
@[simp] theorem activateNow_anchor (r twin tboot s) : (activateNow r twin tboot s).anchor = s.anchor := by simp [activateNow]
@[simp] theorem confirmNow_anchor (r s) : (confirmNow r s).anchor = s.anchor := by simp [confirmNow]

@[simp] theorem checkedLegal_anchor (l op typ content r) (s : State) (k : Res) (h : k.state.anchor = s.anchor) :
    (checkedLegal l op typ content r s k).state.anchor = s.anchor := by
  refine checked_anchor l s _ ?_
  split
  · simp [h]
  · exact h

@[simp] theorem activateIf_anchor (r s) (k : Res) (h : k.state.anchor = s.anchor) : (activateIf r s k).state.anchor = s.anchor :=
  checkedLegal_anchor _ _ _ _ _ _ _ h

@[simp] theorem activateApply_anchor (r s) : (activateApply r s).state.anchor = s.anchor := by simp [activateApply]

@[simp] theorem confirmIf_anchor (r s) (k : Res) (h : k.state.anchor = s.anchor) : (confirmIf r s k).state.anchor = s.anchor :=
  checkedLegal_anchor _ _ _ _ _ _ _ h

@[simp] theorem confirmApply_anchor (r s) : (confirmApply r s).state.anchor = s.anchor := by simp [confirmApply]
@[simp] theorem exciteReturn_anchor (c op r s) : (exciteReturn c op r s).anchor = s.anchor := by simp [exciteReturn]

@[simp] theorem swapAccept_anchor (c w op r s) : (swapAccept c w op r s).anchor = s.anchor := by
  unfold swapAccept
  dsimp only
  split <;> simp

@[simp] theorem configFailed_anchor (op r s) : (configFailed op r s).anchor = s.anchor := by simp [configFailed]
@[simp] theorem trimApply_anchor (c m4 m20 factory op r s) : (trimApply c m4 m20 factory op r s).anchor = s.anchor := by
  simp [trimApply]
@[simp] theorem setCeiling_anchor (cause new s) : (setCeiling cause new s).anchor = s.anchor := by simp [setCeiling]

@[simp] theorem bdgApply_anchor (op r s) : (bdgApply op r s).anchor = s.anchor := by
  unfold bdgApply
  dsimp only
  repeat' split
  all_goals simp

@[simp] theorem chunkApply_anchor (op r s) : (chunkApply op r s).anchor = s.anchor := by simp [chunkApply]
@[simp] theorem fieldApply_anchor (b op r s) : (fieldApply b op r s).anchor = s.anchor := by simp [fieldApply]
@[simp] theorem mapApply_anchor (b op r s) : (mapApply b op r s).anchor = s.anchor := by simp [mapApply]
@[simp] theorem setInput_anchor (c w s) : (setInput c w s).anchor = s.anchor := by simp [setInput]

@[simp] theorem applyAdmitted_anchor (h s) : (applyAdmitted h s).anchor = s.anchor := by
  unfold applyAdmitted
  dsimp only
  split
  case h_2 => split <;> simp
  all_goals simp

/-! ### The anchor: the Badger, switches and records of RSPQ -/

@[simp] theorem dropHead_anchor (h s) : (dropHead h s).anchor = s.anchor := by simp [dropHead]
@[simp] theorem budgetEvent_anchor (r op ledger cause s) : (budgetEvent r op ledger cause s).anchor = s.anchor := by
  simp [budgetEvent]
@[simp] theorem dropRestore_anchor (c ledger cause s) : (dropRestore c ledger cause s).anchor = s.anchor := by
  simp [dropRestore]

@[simp] theorem budgetEnd_anchor (h ledger cause s) : (budgetEnd h ledger cause s).anchor = s.anchor := by
  unfold budgetEnd
  split <;> simp

@[simp] theorem deferHead_anchor (h code s) : (deferHead h code s).anchor = s.anchor := by
  unfold deferHead
  split <;> simp

@[simp] theorem letRun_anchor (h p s) : (letRun h p s).anchor = s.anchor := by
  unfold letRun
  dsimp only
  split <;> simp

@[simp] theorem unsendable_anchor (h s) : (unsendable h s).anchor = s.anchor := by
  unfold unsendable
  split <;> simp

@[simp] theorem sendHead_anchor (b h s) : (sendHead b h s).anchor = s.anchor := by
  unfold sendHead
  split <;> simp

@[simp] theorem reserveEvent_anchor (cause s) : (reserveEvent cause s).anchor = s.anchor := by simp [reserveEvent]

@[simp] theorem turnAway_anchor (h st s) : (turnAway h st s).anchor = s.anchor := by
  unfold turnAway
  split <;> simp

@[simp] theorem thresholdEvents_anchor (s) : (thresholdEvents s).anchor = s.anchor := by simp [thresholdEvents]

theorem ite_evalAcc_anchor {p : Prop} [Decidable p] {x y : EvalAcc} {k : Anchor} (hx : x.s.anchor = k) (hy : y.s.anchor = k) :
    (if p then x else y).s.anchor = k := by
  split
  · exact hx
  · exact hy

/-- One operation of an evaluation: each branch leaves the state, or ends, defers, sends or runs the head (R226). -/
theorem evalHead_anchor (a : EvalAcc) (h : Head) : (evalHead a h).s.anchor = a.s.anchor := by
  unfold evalHead
  extract_lets s on j p raised prio wait big
  have hw (n) : (wait n).s.anchor = a.s.anchor := deferHead_anchor ..
  refine ite_evalAcc_anchor rfl (ite_evalAcc_anchor rfl (ite_evalAcc_anchor (ite_evalAcc_anchor rfl (hw _))
    (ite_evalAcc_anchor (unsendable_anchor ..) (ite_evalAcc_anchor rfl (ite_evalAcc_anchor (sendHead_anchor ..)
    (ite_evalAcc_anchor rfl (ite_evalAcc_anchor (turnAway_anchor ..) (ite_evalAcc_anchor (letRun_anchor ..) ?_))))))))
  clear_value wait j raised p on
  split
  · exact budgetEnd_anchor ..
  · refine ite_evalAcc_anchor (hw _) (ite_evalAcc_anchor (hw _) ?_)
    split
    · exact hw _
    · refine ite_evalAcc_anchor (hw _) ?_
      split
      · exact letRun_anchor ..
      · simp
        rfl

theorem evalHeads_anchor (l : List Head) (a : EvalAcc) : (l.foldl evalHead a).s.anchor = a.s.anchor := by
  induction l generalizing a with
  | nil => rfl
  | cons h l ih => exact (ih _).trans (evalHead_anchor a h)

@[simp] theorem evaluate_anchor (s) : (evaluate s).anchor = s.anchor := by
  unfold evaluate
  split
  · rfl
  · simp [evalHeads_anchor]

@[simp] theorem submit_anchor (op r kind m s) : (submit op r kind m s).anchor = s.anchor := by simp [submit]

@[simp] theorem submitRestore_anchor (c s) : (submitRestore c s).anchor = s.anchor := by
  unfold submitRestore
  split
  · rfl
  · simp

@[simp] theorem clearLocks_anchor (c fl s) : (clearLocks c fl s).anchor = s.anchor := by simp [clearLocks]
@[simp] theorem tbRenew_anchor (b k period s) : (tbRenew b k period s).anchor = s.anchor := by simp [tbRenew]
@[simp] theorem tbMove_anchor (c k s) : (tbMove c k s).anchor = s.anchor := by simp [tbMove]

@[simp] theorem tbChange_anchor (c period s) : (tbChange c period s).anchor = s.anchor := by
  unfold tbChange
  dsimp only
  split <;> simp

@[simp] theorem setPgen_anchor (c g s) : (setPgen c g s).anchor = s.anchor := by simp [setPgen]
@[simp] theorem pushImmediate_anchor (p bytes s) : (pushImmediate p bytes s).anchor = s.anchor := by simp [pushImmediate]
@[simp] theorem immediate_anchor (p op seq tag obj st data s) : (immediate p op seq tag obj st data s).anchor = s.anchor := by
  simp [immediate]
@[simp] theorem replayNow_anchor (p rec1 headerOnly s) : (replayNow p rec1 headerOnly s).anchor = s.anchor := by
  simp [replayNow]
@[simp] theorem deliverChain_anchor (c s) : (deliverChain c s).anchor = s.anchor := by simp [deliverChain]
@[simp] theorem deliverSlot_anchor (c sl s) : (deliverSlot c sl s).anchor = s.anchor := by simp [deliverSlot]

@[simp] theorem deliver_anchor (c s) : (deliver c s).anchor = s.anchor := by
  unfold deliver
  split
  · simp
  · split <;> simp

@[simp] theorem noteExcess_anchor (s) : (noteExcess s).anchor = s.anchor := by simp [noteExcess]
@[simp] theorem readLedgers_anchor (s) : (readLedgers s).anchor = s.anchor := by simp [readLedgers]
@[simp] theorem noteCounterFaults_anchor (s) : (noteCounterFaults s).anchor = s.anchor := by simp [noteCounterFaults]
@[simp] theorem badgerTick_anchor (s) : (badgerTick s).anchor = s.anchor := by simp [badgerTick]
@[simp] theorem rebuildLedgers_anchor (s) : (rebuildLedgers s).anchor = s.anchor := by simp [rebuildLedgers]

@[simp] theorem deadlineExpiry_anchor (p tag s) : (deadlineExpiry p tag s).anchor = s.anchor := by
  unfold deadlineExpiry
  split
  · split <;> simp
  · simp

@[simp] theorem queueExpiry_anchor (p tag s) : (queueExpiry p tag s).anchor = s.anchor := by
  unfold queueExpiry
  split <;> simp

@[simp] theorem completeOne_anchor (s) : (completeOne s).anchor = s.anchor := by
  unfold completeOne
  split
  · simp
  · split <;> simp

@[simp] theorem recomputeCeiling_anchor (s) : (recomputeCeiling s).anchor = s.anchor := by
  unfold recomputeCeiling
  dsimp only
  repeat' split
  all_goals simp

@[simp] theorem ledgerExcess_anchor (code c s) : (ledgerExcess code c s).anchor = s.anchor := by
  unfold ledgerExcess
  dsimp only
  split <;> simp

@[simp] theorem shedOne_anchor (c s) : (shedOne c s).anchor = s.anchor := by simp [shedOne]

@[simp] theorem shedSteps_anchor (b vf n s) : (shedSteps b vf n s).anchor = s.anchor := by
  induction n generalizing s with
  | zero => rfl
  | succ n ih =>
    unfold shedSteps
    split
    · simp
    · simp [ih]

@[simp] theorem shedNow_anchor (b vf s) : (shedNow b vf s).anchor = s.anchor := by simp [shedNow]
@[simp] theorem enterShed_anchor (b vf s) : (enterShed b vf s).anchor = s.anchor := by simp [enterShed]
@[simp] theorem shedState_anchor (b x s) : (shedState b x s).anchor = s.anchor := by simp [shedState]
@[simp] theorem shedStep_anchor (b vf s) : (shedStep b vf s).anchor = s.anchor := by simp [shedStep]

@[simp] theorem tellShedEnd_anchor (b n s) : (tellShedEnd b n s).anchor = s.anchor := by
  unfold tellShedEnd
  split <;> simp

@[simp] theorem submitRestores_anchor (b s) : (submitRestores b s).anchor = s.anchor := by simp [submitRestores]
@[simp] theorem endShed_anchor (b vf s) : (endShed b vf s).anchor = s.anchor := by simp [endShed]
@[simp] theorem shedEnd_anchor (b x s) : (shedEnd b x s).anchor = s.anchor := by simp [shedEnd]

@[simp] theorem restoreNow_anchor (c s) : (restoreNow c s).anchor = s.anchor := by
  unfold restoreNow
  split <;> simp

@[simp] theorem bdgSet_anchor (r s) : (bdgSet r s).state.anchor = s.anchor := by simp [bdgSet]
@[simp] theorem bdgShed_anchor (r c s) : (bdgShed r c s).state.anchor = s.anchor := by simp [bdgShed]

/-! ### The anchor: streams, supplies and comparators -/

@[simp] theorem noteStep_anchor (c s) : (noteStep c s).anchor = s.anchor := by simp [noteStep]
@[simp] theorem needTime_anchor (c s) : (needTime c s).anchor = s.anchor := by simp [needTime]
@[simp] theorem pushUnits_anchor (p c units s) : (pushUnits p c units s).anchor = s.anchor := by simp [pushUnits]
@[simp] theorem pushHeld_anchor (c x s) : (pushHeld c x s).anchor = s.anchor := by simp [pushHeld]
@[simp] theorem streamSample_anchor (c x s) : (streamSample c x s).anchor = s.anchor := by simp [streamSample]
@[simp] theorem flushStream_anchor (b s) : (flushStream b s).anchor = s.anchor := by simp [flushStream]
@[simp] theorem supplyEvent_anchor (b kind vf s) : (supplyEvent b kind vf s).anchor = s.anchor := by simp [supplyEvent]
@[simp] theorem enterWarning_anchor (b vf s) : (enterWarning b vf s).anchor = s.anchor := by simp [enterWarning]
@[simp] theorem warning_anchor (b x s) : (warning b x s).anchor = s.anchor := by simp [warning]
@[simp] theorem enterUndervoltage_anchor (b vf s) : (enterUndervoltage b vf s).anchor = s.anchor := by
  simp [enterUndervoltage]
@[simp] theorem undervoltage_anchor (b x s) : (undervoltage b x s).anchor = s.anchor := by simp [undervoltage]
@[simp] theorem surge_anchor (b x s) : (surge b x s).anchor = s.anchor := by simp [surge]
@[simp] theorem groundLoss_anchor (b x s) : (groundLoss b x s).anchor = s.anchor := by simp [groundLoss]
@[simp] theorem afterSupply_anchor (b f s) : (afterSupply b f s).anchor = s.anchor := by simp [afterSupply]
@[simp] theorem leaveSag_anchor (b vf s) : (leaveSag b vf s).anchor = s.anchor := by simp [leaveSag]

@[simp] theorem supplyExit_anchor (b st x s) : (supplyExit b st x s).anchor = s.anchor := by
  unfold supplyExit
  split <;> simp

@[simp] theorem holmStop_anchor (b reversed s) : (holmStop b reversed s).anchor = s.anchor := by simp [holmStop]
@[simp] theorem holmLockout_anchor (b vf s) : (holmLockout b vf s).anchor = s.anchor := by simp [holmLockout]
@[simp] theorem reverse_anchor (b s) : (reverse b s).anchor = s.anchor := by simp [reverse]
@[simp] theorem holmRestart_anchor (b pin x s) : (holmRestart b pin x s).anchor = s.anchor := by simp [holmRestart]
@[simp] theorem thrEvent_anchor (c action payload s) : (thrEvent c action payload s).anchor = s.anchor := by simp [thrEvent]
@[simp] theorem setThr_anchor (c k n s) : (setThr c k n s).anchor = s.anchor := by simp [setThr]
@[simp] theorem thrSet_anchor (r c s) : (thrSet r c s).state.anchor = s.anchor := by simp [thrSet]
@[simp] theorem thrGet_anchor (r c s) : (thrGet r c s).state.anchor = s.anchor := by simp [thrGet]
@[simp] theorem arm_anchor (c k s) : (arm c k s).anchor = s.anchor := by simp [arm]
@[simp] theorem thrArm_anchor (r c s) : (thrArm r c s).state.anchor = s.anchor := by simp [thrArm]
@[simp] theorem thrDisarm_anchor (r c s) : (thrDisarm r c s).state.anchor = s.anchor := by simp [thrDisarm]
@[simp] theorem settleEvent_anchor (c kind seq ts s) : (settleEvent c kind seq ts s).anchor = s.anchor := by
  simp [settleEvent]
@[simp] theorem setStab_anchor (c d s) : (setStab c d s).anchor = s.anchor := by simp [setStab]
@[simp] theorem thrStab_anchor (r c s) : (thrStab r c s).state.anchor = s.anchor := by simp [thrStab]

/-! ### The anchor: links, samples, grid instants and bridges -/

@[simp] theorem linkEvent_anchor (b kind value s) : (linkEvent b kind value s).anchor = s.anchor := by simp [linkEvent]
@[simp] theorem dropUnsendable_anchor (b s) : (dropUnsendable b s).anchor = s.anchor := by simp [dropUnsendable]
@[simp] theorem holdCompletions_anchor (b s) : (holdCompletions b s).anchor = s.anchor := by simp [holdCompletions]
@[simp] theorem upLost_anchor (b s) : (upLost b s).anchor = s.anchor := by simp [upLost]
@[simp] theorem downLost_anchor (b s) : (downLost b s).anchor = s.anchor := by simp [downLost]
@[simp] theorem linkLoss_anchor (x s) : (linkLoss x s).anchor = s.anchor := by simp [linkLoss]
@[simp] theorem readJournal_anchor (b gone s) : (readJournal b gone s).anchor = s.anchor := by simp [readJournal]

@[simp] theorem deliverNotices_anchor (b s) : (deliverNotices b s).anchor = s.anchor := by
  refine overAll_anchor _ _ _ fun n u => ?_
  dsimp only
  split <;> simp

@[simp] theorem reportLost_anchor (m s) : (reportLost m s).anchor = s.anchor := by simp [reportLost]
@[simp] theorem undelivered_anchor (m s) : (undelivered m s).anchor = s.anchor := by simp [undelivered]
@[simp] theorem restoreCh_anchor (c s) : (restoreCh c s).anchor = s.anchor := by simp [restoreCh]
@[simp] theorem releaseKept_anchor (c s) : (releaseKept c s).anchor = s.anchor := by simp [releaseKept]
@[simp] theorem loadSequencers_anchor (l s) : (loadSequencers l s).anchor = s.anchor := by simp [loadSequencers]
@[simp] theorem restoreBank_anchor (b s) : (restoreBank b s).anchor = s.anchor := by simp [restoreBank]
@[simp] theorem afterJournal_anchor (b gone s) : (afterJournal b gone s).anchor = s.anchor := by simp [afterJournal]
@[simp] theorem journalNow_anchor (b s) : (journalNow b s).anchor = s.anchor := by simp [journalNow]

@[simp] theorem internalTick_anchor (s) : (internalTick s).anchor = s.anchor := by
  unfold internalTick
  split <;> simp

@[simp] theorem linkUp_anchor (b s) : (linkUp b s).anchor = s.anchor := by simp [linkUp]
@[simp] theorem linkEstablishment_anchor (b s) : (linkEstablishment b s).anchor = s.anchor := by simp [linkEstablishment]

@[simp] theorem holdTExpiry_anchor (c s) : (holdTExpiry c s).anchor = s.anchor := by
  unfold holdTExpiry
  split
  · split <;> simp
  · simp

@[simp] theorem watchdogExpiry_anchor (p s) : (watchdogExpiry p s).anchor = s.anchor := by simp [watchdogExpiry]
@[simp] theorem ActMsg.report_anchor (m outcome s) : (ActMsg.report m outcome s).anchor = s.anchor := by simp [ActMsg.report]
@[simp] theorem reportInOrder_anchor (m outcome s) : (reportInOrder m outcome s).anchor = s.anchor := by simp [reportInOrder]

@[simp] theorem relayOne_anchor (src s) : (relayOne src s).anchor = s.anchor := by
  unfold relayOne
  split <;> simp

@[simp] theorem stabSample_anchor (c x gap s) : (stabSample c x gap s).anchor = s.anchor := by simp [stabSample]
@[simp] theorem flushNotes_anchor (b s) : (flushNotes b s).anchor = s.anchor := by simp [flushNotes]
@[simp] theorem fire_anchor (c k byFlt s) : (fire c k byFlt s).anchor = s.anchor := by simp [fire]
@[simp] theorem thrSample_anchor (c x gap s) : (thrSample c x gap s).anchor = s.anchor := by simp [thrSample]
@[simp] theorem classSample_anchor (c value s) : (classSample c value s).anchor = s.anchor := by simp [classSample]
@[simp] theorem sampleDone_anchor (c x y ovr gap s) : (sampleDone c x y ovr gap s).anchor = s.anchor := by simp [sampleDone]

@[simp] theorem sampleNow_anchor (c x s) : (sampleNow c x s).anchor = s.anchor := by
  unfold sampleNow
  dsimp only
  repeat' split
  all_goals simp

@[simp] theorem applyAction_anchor (g mm s) : (applyAction g mm s).anchor = s.anchor := by
  unfold applyAction
  dsimp only
  repeat' split
  all_goals simp

@[simp] theorem actionNow_anchor (c m s) : (actionNow c m s).anchor = s.anchor := by
  unfold actionNow
  dsimp only
  split <;> simp

@[simp] theorem chainedArming_anchor (c k s) : (chainedArming c k s).anchor = s.anchor := by
  unfold chainedArming
  dsimp only
  split <;> simp

@[simp] theorem swapNow_anchor (c w s) : (swapNow c w s).anchor = s.anchor := by simp [swapNow]

@[simp] theorem swapBoundary_anchor (c s) : (swapBoundary c s).anchor = s.anchor := by
  unfold swapBoundary
  split <;> simp

@[simp] theorem planWaiter_anchor (w rateChanged s) : (planWaiter w rateChanged s).anchor = s.anchor := by
  unfold planWaiter
  split <;> simp

@[simp] theorem planNow_anchor (b p s) : (planNow b p s).anchor = s.anchor := by simp [planNow]

@[simp] theorem planEffect_anchor (b s) : (planEffect b s).anchor = s.anchor := by
  unfold planEffect
  split <;> simp

@[simp] theorem movedMode_anchor (c md wiring underLock m op r s) : (movedMode c md wiring underLock m op r s).anchor = s.anchor := by
  simp [movedMode]

@[simp] theorem movedChange_anchor (c m s) : (movedChange c m s).anchor = s.anchor := by
  unfold movedChange
  split
  · split
    · split <;> simp
    · rfl
  · rfl

@[simp] theorem datapathReload_anchor (b s) : (datapathReload b s).anchor = s.anchor := by simp [datapathReload]
@[simp] theorem disturbedInput_anchor (c d s) : (disturbedInput c d s).anchor = s.anchor := by simp [disturbedInput]
@[simp] theorem diagEvent_anchor (c src kind value s) : (diagEvent c src kind value s).anchor = s.anchor := by
  simp [diagEvent]
@[simp] theorem diagReport_anchor (c d s) : (diagReport c d s).anchor = s.anchor := by simp [diagReport]
@[simp] theorem diagClearance_anchor (c d s) : (diagClearance c d s).anchor = s.anchor := by simp [diagClearance]
@[simp] theorem excitationShort_anchor (c s) : (excitationShort c s).anchor = s.anchor := by simp [excitationShort]
@[simp] theorem excitationSupply_anchor (b vx s) : (excitationSupply b vx s).anchor = s.anchor := by simp [excitationSupply]

/-! ### The anchor: commands on channels and check-value units, the Den and digital inputs -/

@[simp] theorem modeDecide_anchor (r mm c m wiring s) : (modeDecide r mm c m wiring s).state.anchor = s.anchor := by
  simp [modeDecide]

@[simp] theorem chMode_anchor (r mm c s) : (chMode r mm c s).state.anchor = s.anchor := by
  refine checked_anchor _ _ _ ?_
  split <;> simp

@[simp] theorem chMeas_anchor (r c s) : (chMeas r c s).state.anchor = s.anchor := by simp [chMeas]
@[simp] theorem setDiag_anchor (c w s) : (setDiag c w s).anchor = s.anchor := by simp [setDiag]
@[simp] theorem clearShort_anchor (c s) : (clearShort c s).anchor = s.anchor := by simp [clearShort]
@[simp] theorem chDiag_anchor (r c s) : (chDiag r c s).state.anchor = s.anchor := by simp [chDiag]
@[simp] theorem chStream_anchor (r c s) : (chStream r c s).state.anchor = s.anchor := by simp [chStream]
@[simp] theorem pairNow_anchor (e o s) : (pairNow e o s).anchor = s.anchor := by simp [pairNow]
@[simp] theorem chPair_anchor (r c s) : (chPair r c s).state.anchor = s.anchor := by simp [chPair]
@[simp] theorem unpairNow_anchor (c s) : (unpairNow c s).anchor = s.anchor := by simp [unpairNow]
@[simp] theorem chUnpair_anchor (r c s) : (chUnpair r c s).state.anchor = s.anchor := by simp [chUnpair]
@[simp] theorem chInput_anchor (r c s) : (chInput r c s).state.anchor = s.anchor := by simp [chInput]
@[simp] theorem countChange_anchor (c fl v s) : (countChange c fl v s).anchor = s.anchor := by simp [countChange]
@[simp] theorem chCount_anchor (r c s) : (chCount r c s).state.anchor = s.anchor := by simp [chCount]
@[simp] theorem chField_anchor (r b s) : (chField r b s).state.anchor = s.anchor := by simp [chField]
@[simp] theorem chSafe_anchor (r c s) : (chSafe r c s).state.anchor = s.anchor := by simp [chSafe]
@[simp] theorem chBmap_anchor (r b s) : (chBmap r b s).state.anchor = s.anchor := by simp [chBmap]
@[simp] theorem crcCfg_anchor (r u s) : (crcCfg r u s).state.anchor = s.anchor := by simp [crcCfg]
@[simp] theorem noteMismatch_anchor (u r q s) : (noteMismatch u r q s).anchor = s.anchor := by simp [noteMismatch]
@[simp] theorem crcRunNow_anchor (r u s) : (crcRunNow r u s).state.anchor = s.anchor := by simp [crcRunNow]
@[simp] theorem crcRun_anchor (r u s) : (crcRun r u s).state.anchor = s.anchor := by simp [crcRun]
@[simp] theorem crcSave_anchor (r u s) : (crcSave r u s).state.anchor = s.anchor := by simp [crcSave]
@[simp] theorem crcLoad_anchor (r u s) : (crcLoad r u s).state.anchor = s.anchor := by simp [crcLoad]
@[simp] theorem State.drawNonce_anchor (s) : (State.drawNonce s).2.anchor = s.anchor := by simp [State.drawNonce]
@[simp] theorem snapNow_anchor (p s) : (snapNow p s).2.anchor = s.anchor := by simp [snapNow]
@[simp] theorem denSnap_anchor (r s) : (denSnap r s).state.anchor = s.anchor := by simp [denSnap]

@[simp] theorem denRead_anchor (r s) : (denRead r s).state.anchor = s.anchor := by
  unfold denRead
  dsimp only
  split <;> simp

@[simp] theorem endSnaps_anchor (s) : (endSnaps s).anchor = s.anchor := by simp [endSnaps]
@[simp] theorem clearRing_anchor (r head s) : (clearRing r head s).state.anchor = s.anchor := by simp [clearRing]
@[simp] theorem clearLegal_anchor (q head s) : (clearLegal q head s).state.anchor = s.anchor := by simp [clearLegal]
@[simp] theorem denClear_anchor (r s) : (denClear r s).state.anchor = s.anchor := by simp [denClear]
@[simp] theorem debounce_anchor (c s) : (debounce c s).anchor = s.anchor := by simp [debounce]
@[simp] theorem edgeNow_anchor (c vip held s) : (edgeNow c vip held s).anchor = s.anchor := by simp [edgeNow]
@[simp] theorem dinBreak_anchor (c on s) : (dinBreak c on s).anchor = s.anchor := by simp [dinBreak]
@[simp] theorem sensorOverload_anchor (c on s) : (sensorOverload c on s).anchor = s.anchor := by simp [sensorOverload]
@[simp] theorem countEdge_anchor (c e g s) : (countEdge c e g s).anchor = s.anchor := by simp [countEdge]
@[simp] theorem captureEdge_anchor (c e s) : (captureEdge c e s).anchor = s.anchor := by simp [captureEdge]

/-! ### The anchor: system commands, time, updates and starts -/

@[simp] theorem sysReset_anchor (r s) : (sysReset r s).state.anchor = s.anchor := by simp [sysReset]
@[simp] theorem sysTsync_anchor (r s) : (sysTsync r s).state.anchor = s.anchor := by simp [sysTsync]
@[simp] theorem sysWdog_anchor (r s) : (sysWdog r s).state.anchor = s.anchor := by simp [sysWdog]
@[simp] theorem clockSet_anchor (p w s) : (clockSet p w s).anchor = s.anchor := by simp [clockSet]
@[simp] theorem sysClock_anchor (r s) : (sysClock r s).state.anchor = s.anchor := by simp [sysClock]
@[simp] theorem timeBeacon_anchor (b m s) : (timeBeacon b m s).anchor = s.anchor := by simp [timeBeacon]
@[simp] theorem timeUncertain_anchor (b s) : (timeUncertain b s).anchor = s.anchor := by simp [timeUncertain]
@[simp] theorem burEn_anchor (b x s) : (burEn b x s).anchor = s.anchor := by simp [burEn]
@[simp] theorem burIn_anchor (b k x s) : (burIn b k x s).anchor = s.anchor := by simp [burIn]
@[simp] theorem updBegin_anchor (r s) : (updBegin r s).state.anchor = s.anchor := by simp [updBegin]
@[simp] theorem updChunk_anchor (r s) : (updChunk r s).state.anchor = s.anchor := by simp [updChunk]
@[simp] theorem verifyNow_anchor (s) : (verifyNow s).state.anchor = s.anchor := by simp [verifyNow]
@[simp] theorem updVerify_anchor (r s) : (updVerify r s).state.anchor = s.anchor := by simp [updVerify]
@[simp] theorem updActivate_anchor (r s) : (updActivate r s).state.anchor = s.anchor := by simp [updActivate]
@[simp] theorem updConfirm_anchor (r s) : (updConfirm r s).state.anchor = s.anchor := by simp [updConfirm]
@[simp] theorem overPorts_anchor (f s) : (overPorts f s).anchor = s.anchor := by simp [overPorts]
@[simp] theorem raiseAcross_anchor (src payload s) : (raiseAcross src payload s).anchor = s.anchor := by simp [raiseAcross]
@[simp] theorem scheduleStart_anchor (kind cause s) : (scheduleStart kind cause s).anchor = s.anchor := by
  simp [scheduleStart]
@[simp] theorem writeLegrev_anchor (slot why s) : (writeLegrev slot why s).anchor = s.anchor := by simp [writeLegrev]
@[simp] theorem revertTrial_anchor (why s) : (revertTrial why s).anchor = s.anchor := by simp [revertTrial]
@[simp] theorem revertAndStart_anchor (why s) : (revertAndStart why s).anchor = s.anchor := by simp [revertAndStart]
@[simp] theorem failStart_anchor (kind step next cause left s) : (failStart kind step next cause left s).anchor = s.anchor := by
  simp [failStart]
@[simp] theorem leaveOperation_anchor (cause s) : (leaveOperation cause s).anchor = s.anchor := by simp [leaveOperation]

@[simp] theorem endOps_anchor (s) : (endOps s).anchor = s.anchor := by rfl

@[simp] theorem settleOwners_anchor (keep s) : (settleOwners keep s).anchor = s.anchor := by simp [settleOwners]
@[simp] theorem bootCount_anchor (s) : (bootCount s).anchor = s.anchor := by simp [bootCount]
@[simp] theorem startRecord_anchor (kind cause first last s) : (startRecord kind cause first last s).anchor = s.anchor := by
  simp [startRecord]
@[simp] theorem serveAll_anchor (kind cause s) : (serveAll kind cause s).anchor = s.anchor := by simp [serveAll]

@[simp] theorem checkLegact_anchor (s) : (checkLegact s).anchor = s.anchor := by
  unfold checkLegact
  split <;> simp

@[simp] theorem noteReserve_anchor (s) : (noteReserve s).anchor = s.anchor := by simp [noteReserve]

@[simp] theorem engineStops_anchor (e s) : (engineStops e s).anchor = s.anchor := by
  unfold engineStops
  split <;> simp

@[simp] theorem failEngine_anchor (e cause s) : (failEngine e cause s).anchor = s.anchor := by simp [failEngine]
@[simp] theorem heartbeatMiss_anchor (e s) : (heartbeatMiss e s).anchor = s.anchor := by simp [heartbeatMiss]
@[simp] theorem noteRecovery_anchor (e cause us s) : (noteRecovery e cause us s).anchor = s.anchor := by simp [noteRecovery]

@[simp] theorem engineResumes_anchor (e s) : (engineResumes e s).anchor = s.anchor := by
  unfold engineResumes
  split <;> simp

@[simp] theorem engineRecovery_anchor (e checkOk s) : (engineRecovery e checkOk s).anchor = s.anchor := by
  unfold engineRecovery
  split <;> simp

@[simp] theorem lockstepFault_anchor (s) : (lockstepFault s).anchor = s.anchor := by simp [lockstepFault]
@[simp] theorem recordDbe_anchor (code s) : (recordDbe code s).anchor = s.anchor := by simp [recordDbe]

@[simp] theorem loseRecord_anchor (hit s) : (loseRecord hit s).anchor = s.anchor := by
  unfold loseRecord
  split <;> simp

@[simp] theorem doubleBitError_anchor (place s) : (doubleBitError place s).anchor = s.anchor := by
  unfold doubleBitError
  split
  · simp
  · split <;> simp

@[simp] theorem supervisorWatchdog_anchor (s) : (supervisorWatchdog s).anchor = s.anchor := by simp [supervisorWatchdog]

/-! ### The anchor: filters, ownership, loops and the modem -/

@[simp] theorem fltLoad_anchor (r c s) : (fltLoad r c s).state.anchor = s.anchor := by simp [fltLoad]
@[simp] theorem fltRom_anchor (r c s) : (fltRom r c s).state.anchor = s.anchor := by simp [fltRom]
@[simp] theorem fltSwap_anchor (r c s) : (fltSwap r c s).state.anchor = s.anchor := by simp [fltSwap]
@[simp] theorem unlink_anchor (changed s) : (unlink changed s).anchor = s.anchor := by simp [unlink]

@[simp] theorem setOwner_anchor (obj o s) : (setOwner obj o s).anchor = s.anchor := by
  unfold setOwner
  dsimp only
  repeat' split
  all_goals simp

@[simp] theorem ownClaim_anchor (r s) : (ownClaim r s).state.anchor = s.anchor := by
  unfold ownClaim
  split <;> simp

@[simp] theorem ownRelease_anchor (r s) : (ownRelease r s).state.anchor = s.anchor := by simp [ownRelease]

@[simp] theorem resume_anchor (keep c s) : (resume keep c s).anchor = s.anchor := by
  unfold resume
  split <;> simp

@[simp] theorem ownResume_anchor (r s) : (ownResume r s).state.anchor = s.anchor := by simp [ownResume]
@[simp] theorem setLoopWord_anchor (c w s) : (setLoopWord c w s).anchor = s.anchor := by simp [setLoopWord]
@[simp] theorem loopCfg_anchor (r c s) : (loopCfg r c s).state.anchor = s.anchor := by simp [loopCfg]
@[simp] theorem loopSet_anchor (r c s) : (loopSet r c s).state.anchor = s.anchor := by simp [loopSet]
@[simp] theorem setSession_anchor (c t s) : (setSession c t s).anchor = s.anchor := by simp [setSession]

@[simp] theorem trimStep_anchor (r c s) : (trimStep r c s).state.anchor = s.anchor := by
  unfold trimStep
  dsimp only
  split <;> simp

@[simp] theorem loopTrim_anchor (r c s) : (loopTrim r c s).state.anchor = s.anchor := by simp [loopTrim]
@[simp] theorem setModem_anchor (c w uid s) : (setModem c w uid s).anchor = s.anchor := by simp [setModem]
@[simp] theorem mdmCfg_anchor (r c s) : (mdmCfg r c s).state.anchor = s.anchor := by simp [mdmCfg]
@[simp] theorem queueTx_anchor (c d s) : (queueTx c d s).anchor = s.anchor := by simp [queueTx]
@[simp] theorem mdmSend_anchor (r c s) : (mdmSend r c s).state.anchor = s.anchor := by simp [mdmSend]
@[simp] theorem mdmRead_anchor (r c s) : (mdmRead r c s).state.anchor = s.anchor := by simp [mdmRead]
@[simp] theorem sendReply_anchor (c d s) : (sendReply c d s).anchor = s.anchor := by simp [sendReply]
@[simp] theorem mdmReply_anchor (r c s) : (mdmReply r c s).state.anchor = s.anchor := by simp [mdmReply]
@[simp] theorem compliance_anchor (c on s) : (compliance c on s).anchor = s.anchor := by simp [compliance]
@[simp] theorem alarmFallback_anchor (c s) : (alarmFallback c s).anchor = s.anchor := by simp [alarmFallback]
@[simp] theorem readbackFault_anchor (c s) : (readbackFault c s).anchor = s.anchor := by simp [readbackFault]
@[simp] theorem loopBreak_anchor (c on s) : (loopBreak c on s).anchor = s.anchor := by simp [loopBreak]
@[simp] theorem loopShort_anchor (c on s) : (loopShort c on s).anchor = s.anchor := by simp [loopShort]
@[simp] theorem foldRetry_anchor (c recovered s) : (foldRetry c recovered s).anchor = s.anchor := by simp [foldRetry]
@[simp] theorem setMdm_anchor (c f s) : (setMdm c f s).anchor = s.anchor := by simp [setMdm]
@[simp] theorem State.quiet_anchor (s c until_) : (State.quiet s c until_).anchor = s.anchor := by simp [State.quiet]

@[simp] theorem mdmFail_anchor (c reason t s) : (mdmFail c reason t s).anchor = s.anchor := by
  unfold mdmFail
  split <;> simp

@[simp] theorem masterHears_anchor (c f s) : (masterHears c f s).anchor = s.anchor := by
  unfold masterHears
  dsimp only
  repeat' split
  all_goals simp

@[simp] theorem deviceHears_anchor (c f s) : (deviceHears c f s).anchor = s.anchor := by simp [deviceHears]
@[simp] theorem frameHeard_anchor (c f s) : (frameHeard c f s).anchor = s.anchor := by simp [frameHeard]
@[simp] theorem modemFrame_anchor (c f s) : (modemFrame c f s).anchor = s.anchor := by simp [modemFrame]

@[simp] theorem transaction_anchor (c s) : (transaction c s).anchor = s.anchor := by
  unfold transaction
  dsimp only
  repeat' split
  all_goals simp

@[simp] theorem replyTimeout_anchor (c s) : (replyTimeout c s).anchor = s.anchor := by
  unfold replyTimeout
  split <;> simp

/-! ### The anchor: operations on slots, output commands and the ports -/

@[simp] theorem runOp_anchor (op r s) (body : State → State) (h : (body s).anchor = s.anchor) :
    (runOp op r s body).anchor = s.anchor := by
  simp [runOp, h]

@[simp] theorem answer_anchor (op r st data s) : (answer op r st data s).anchor = s.anchor := by simp [answer]
@[simp] theorem opQuery_anchor (r s) : (opQuery r s).anchor = s.anchor := by simp [opQuery]
@[simp] theorem withdraw_anchor (sl s) : (withdraw sl s).anchor = s.anchor := by simp [withdraw]
@[simp] theorem abortSlot_anchor (sl s) : (abortSlot sl s).anchor = s.anchor := by simp [abortSlot]

@[simp] theorem abortTag_anchor (p tag s) : (abortTag p tag s).2.anchor = s.anchor := by
  unfold abortTag
  split
  · split <;> simp
  · split <;> rfl

@[simp] theorem opAbort_anchor (r s) : (opAbort r s).anchor = s.anchor := by simp [opAbort]

@[simp] theorem releaseTag_anchor (p tag s) : (releaseTag p tag s).2.anchor = s.anchor := by
  unfold releaseTag
  split
  · split <;> simp
  · rfl

@[simp] theorem releaseTags_anchor (p l s) : (releaseTags p l s).2.anchor = s.anchor := by
  induction l generalizing s with
  | nil => rfl
  | cons t l ih => simp [releaseTags, ih]

@[simp] theorem opRelease_anchor (r s) : (opRelease r s).anchor = s.anchor := by simp [opRelease]

@[simp] theorem opFetch_anchor (r s) : (opFetch r s).anchor = s.anchor := by
  unfold opFetch
  dsimp only
  repeat' split
  all_goals simp

@[simp] theorem outSetRun_anchor (r m c on s) : (outSetRun r m c on s).state.anchor = s.anchor := by simp [outSetRun]
@[simp] theorem outSet_anchor (r m c s) : (outSet r m c s).state.anchor = s.anchor := by simp [outSet]
@[simp] theorem setSw_anchor (c f s) : (setSw c f s).anchor = s.anchor := by simp [setSw]
@[simp] theorem outProt_anchor (r c s) : (outProt r c s).state.anchor = s.anchor := by simp [outProt]
@[simp] theorem outWire_anchor (r c s) : (outWire r c s).state.anchor = s.anchor := by simp [outWire]
@[simp] theorem outFuse_anchor (r c s) : (outFuse r c s).state.anchor = s.anchor := by simp [outFuse]
@[simp] theorem outClear_anchor (r c s) : (outClear r c s).state.anchor = s.anchor := by simp [outClear]
@[simp] theorem outPgen_anchor (r c s) : (outPgen r c s).state.anchor = s.anchor := by simp [outPgen]
@[simp] theorem setSwDiag_anchor (c w s) : (setSwDiag c w s).anchor = s.anchor := by simp [setSwDiag]
@[simp] theorem outDiag_anchor (r c s) : (outDiag r c s).state.anchor = s.anchor := by simp [outDiag]
@[simp] theorem refuse_anchor (p op r st k s) : (refuse p op r st k s).anchor = s.anchor := by simp [refuse]

@[simp] theorem serveOp_anchor (op r s) : (serveOp op r s).anchor = s.anchor := by
  unfold serveOp
  split <;> simp

@[simp] theorem takeSlot_anchor (op r check s) : (takeSlot op r check s).anchor = s.anchor := by simp [takeSlot]

@[simp] theorem admitCommand_anchor (op r check s) : (admitCommand op r check s).anchor = s.anchor := by
  unfold admitCommand
  dsimp only
  repeat' split
  all_goals simp

@[simp] theorem accept_anchor (p b s) : (accept p b s).anchor = s.anchor := by simp [accept]

@[simp] theorem drainCmd_anchor (p n s) : (drainCmd p n s).anchor = s.anchor := by
  induction n generalizing s with
  | zero => rfl
  | succ n ih => simp [drainCmd, ih]

@[simp] theorem feedCmd_anchor (p data s) : (feedCmd p data s).anchor = s.anchor := by simp [feedCmd]
@[simp] theorem readLatch_anchor (p a n s) : (readLatch p a n s).anchor = s.anchor := by simp [readLatch]
@[simp] theorem commitWrite_anchor (p l s) : (commitWrite p l s).anchor = s.anchor := by simp [commitWrite]
@[simp] theorem noteResult_anchor (p fseq code s) : (noteResult p fseq code s).anchor = s.anchor := by simp [noteResult]
@[simp] theorem restartWatchdog_anchor (p s) : (restartWatchdog p s).anchor = s.anchor := by simp [restartWatchdog]
@[simp] theorem refuseBit_anchor (p s) : (refuseBit p s).anchor = s.anchor := by simp [refuseBit]

@[simp] theorem chainSubmit_anchor (op p c d) (body : Req → Ch → State → Res) (s : State)
    (h : ∀ r c u, (body r c u).state.anchor = u.anchor) : (chainSubmit op p c d body s).anchor = s.anchor := by
  simp [chainSubmit, h]

@[simp] theorem chainSet_anchor (p c on s) : (chainSet p c on s).anchor = s.anchor := by simp [chainSet]

@[simp] theorem chainDone_anchor (n p c s) : (chainDone n p c s).anchor = s.anchor := by
  unfold chainDone
  split <;> simp

@[simp] theorem slotDuty_anchor (p k c s) : (slotDuty p k c s).anchor = s.anchor := by simp [slotDuty]

@[simp] theorem slotBit_anchor (p c on s) : (slotBit p c on s).anchor = s.anchor := by
  unfold slotBit
  dsimp only
  repeat' split
  all_goals simp

@[simp] theorem applySlot_anchor (p b s) : (applySlot p b s).anchor = s.anchor := by
  unfold applySlot
  split <;> simp

@[simp] theorem rejectSlot_anchor (p s) : (rejectSlot p s).anchor = s.anchor := by simp [rejectSlot]
@[simp] theorem slotTransfer_anchor (p edges bytes rdyAtFall s) : (slotTransfer p edges bytes rdyAtFall s).anchor = s.anchor := by
  simp [slotTransfer]
@[simp] theorem chainFrameSlot_anchor (p b s) : (chainFrameSlot p b s).anchor = s.anchor := by simp [chainFrameSlot]

@[simp] theorem frame_anchor (p f s) : (frame p f s).anchor = s.anchor := by
  unfold frame
  dsimp only
  repeat' split
  all_goals simp

@[simp] theorem transfer_anchor (p f s) : (transfer p f s).anchor = s.anchor := by simp [transfer]
@[simp] theorem sendBytes_anchor (p l s) : (sendBytes p l s).anchor = s.anchor := by simp [sendBytes]
@[simp] theorem sendWrite_anchor (p fseq a d s) : (sendWrite p fseq a d s).anchor = s.anchor := by simp [sendWrite]
@[simp] theorem sendRead_anchor (p fseq a n good s) : (sendRead p fseq a n good s).anchor = s.anchor := by simp [sendRead]
@[simp] theorem sendSlot_anchor (p b s) : (sendSlot p b s).anchor = s.anchor := by simp [sendSlot]

/-! ### The anchor: starts, rows of records, security and switches -/

@[simp] theorem resetPulse_anchor (s) : (resetPulse s).anchor = s.anchor := by simp [resetPulse]
@[simp] theorem nreset_anchor (lowNs s) : (nreset lowNs s).anchor = s.anchor := by simp [nreset]
@[simp] theorem firstFlush_anchor (s) : (firstFlush s).anchor = s.anchor := by simp [firstFlush]

@[simp] theorem settlePlans_anchor (s) : (settlePlans s).anchor = s.anchor := by
  refine overAll_anchor _ _ _ fun b u => ?_
  split <;> simp

@[simp] theorem reloadDatapaths_anchor (s) : (reloadDatapaths s).anchor = s.anchor := by simp [reloadDatapaths]
@[simp] theorem noteWarmLost_anchor (s) : (noteWarmLost s).anchor = s.anchor := by simp [noteWarmLost]
@[simp] theorem countTrial_anchor (s) : (countTrial s).anchor = s.anchor := by simp [countTrial]

theorem setSys_warmSys_anchor (b s) : (State.setSys s (warmSys b)).anchor = s.anchor := by rfl

@[simp] theorem warmNow_anchor (cause b s) : (warmNow cause b s).anchor = s.anchor := by
  simp [warmNow, setSys_warmSys_anchor]

@[simp] theorem scanLegal_anchor (s) : (scanLegal s).anchor = s.anchor := by simp [scanLegal]
@[simp] theorem writeTorn_anchor (s) : (writeTorn s).anchor = s.anchor := by simp [writeTorn]
@[simp] theorem coldLinks_anchor (was s) : (coldLinks was s).anchor = s.anchor := by simp [coldLinks]
@[simp] theorem coldTimes_anchor (tunc s) : (coldTimes tunc s).anchor = s.anchor := by simp [coldTimes]

/-- A start under bank defaults sets device time and leaves the rest (R22). -/
@[simp] theorem coldPlant_anchor (held f powered now s) :
    (coldPlant held f powered now s).anchor = { s.anchor with now := now } := by
  have h : (if powered = true then firstFlush s else scanLegal s).anchor = s.anchor := by simp
  unfold coldPlant
  generalize (if powered = true then firstFlush s else scanLegal s) = u at h ⊢
  simp [← h]
  rfl

@[simp] theorem coldRecord_anchor (kind cause s) : (coldRecord kind cause s).anchor = s.anchor := by simp [coldRecord]
@[simp] theorem noteTrial_anchor (s) : (noteTrial s).anchor = s.anchor := by simp [noteTrial]

@[simp] theorem tearRecord_anchor (left r s) : (tearRecord left r s).anchor = s.anchor := by
  unfold tearRecord
  dsimp only
  repeat' split
  all_goals simp

@[simp] theorem loseSeal_anchor (lost waiting s) : (loseSeal lost waiting s).anchor = s.anchor := by
  unfold loseSeal
  split <;> rfl

@[simp] theorem powerFlush_anchor (s) : (powerFlush s).anchor = s.anchor := by
  unfold powerFlush
  extract_lets t lost s1 s2 s3 s4
  have h2 : s2.anchor = s.anchor := by simp [s2, s1]
  clear_value s2 lost
  have h3 : s3.anchor = s.anchor := by
    simp only [s3]
    split <;> simp [h2]
  have h4 : s4.anchor = s.anchor := h3
  clear_value s4
  split
  · split <;> simp [h4]
  · exact h4

@[simp] theorem powerFail_anchor (s) : (powerFail s).anchor = s.anchor := by simp [powerFail]
@[simp] theorem linksBack_anchor (before s) : (linksBack before s).anchor = s.anchor := by simp [linksBack]
@[simp] theorem leaveMarks_anchor (kind f s) : (leaveMarks kind f s).anchor = s.anchor := by simp [leaveMarks]

@[simp] theorem recoveryNow_anchor (cause s) : (recoveryNow cause s).anchor = s.anchor := by
  simp [recoveryNow]
  rfl

@[simp] theorem recoveryStart_anchor (s) : (recoveryStart s).anchor = s.anchor := by
  unfold recoveryStart
  split <;> simp

@[simp] theorem flushRow_anchor (s) : (flushRow s).anchor = s.anchor := by simp [flushRow]

@[simp] theorem trialRevert_anchor (why s) : (trialRevert why s).anchor = s.anchor := by
  unfold trialRevert
  split
  · simp
  · split <;> simp

@[simp] theorem trialWarning_anchor (s) : (trialWarning s).anchor = s.anchor := by simp [trialWarning]
@[simp] theorem clearFails_anchor (s) : (clearFails s).anchor = s.anchor := by simp [clearFails]
@[simp] theorem eventBlockClose_anchor (p s) : (eventBlockClose p s).anchor = s.anchor := by simp [eventBlockClose]
@[simp] theorem streamBlockClose_anchor (p c s) : (streamBlockClose p c s).anchor = s.anchor := by simp [streamBlockClose]
@[simp] theorem openLoadFrame_anchor (h c s) : (openLoadFrame h c s).anchor = s.anchor := by simp [openLoadFrame]
@[simp] theorem watchChan_anchor (c s) : (watchChan c s).anchor = s.anchor := by simp [watchChan]
@[simp] theorem seqFrame_anchor (c s) : (seqFrame c s).anchor = s.anchor := by simp [seqFrame]
@[simp] theorem meterFrame_anchor (b h s) : (meterFrame b h s).anchor = s.anchor := by simp [meterFrame]
@[simp] theorem refreshImage_anchor (b s) : (refreshImage b s).anchor = s.anchor := by simp [refreshImage]
@[simp] theorem noteAllOff_anchor (b s) : (noteAllOff b s).anchor = s.anchor := by simp [noteAllOff]
@[simp] theorem housekeeping_anchor (b raw s) : (housekeeping b raw s).anchor = s.anchor := by simp [housekeeping]
@[simp] theorem vholdCharged_anchor (capUf vholdMv s) : (vholdCharged capUf vholdMv s).anchor = s.anchor := by
  simp [vholdCharged]
@[simp] theorem commonFaultExpiry_anchor (s) : (commonFaultExpiry s).anchor = s.anchor := by simp [commonFaultExpiry]
@[simp] theorem secAttest_anchor (r s) : (secAttest r s).state.anchor = s.anchor := by simp [secAttest]
@[simp] theorem secCert_anchor (r s) : (secCert r s).state.anchor = s.anchor := by simp [secCert]
@[simp] theorem setKey_anchor (act key s) : (setKey act key s).anchor = s.anchor := by simp [setKey]
@[simp] theorem readKey_anchor (r s) : (readKey r s).state.anchor = s.anchor := by simp [readKey]
@[simp] theorem spendNonce_anchor (p s) : (spendNonce p s).anchor = s.anchor := by simp [spendNonce]

@[simp] theorem secOwnerkey_anchor (r s) : (secOwnerkey r s).state.anchor = s.anchor := by
  unfold secOwnerkey
  dsimp only
  split <;> simp

@[simp] theorem fuseTrip_anchor (c kind s) : (fuseTrip c kind s).anchor = s.anchor := by simp [fuseTrip]
@[simp] theorem wireTrip_anchor (c s) : (wireTrip c s).anchor = s.anchor := by simp [wireTrip]
@[simp] theorem fuseTableTrip_anchor (c s) : (fuseTableTrip c s).anchor = s.anchor := by simp [fuseTableTrip]
@[simp] theorem currentLimit_anchor (c on s) : (currentLimit c on s).anchor = s.anchor := by simp [currentLimit]
@[simp] theorem thermLatch_anchor (c kind s) : (thermLatch c kind s).anchor = s.anchor := by simp [thermLatch]
@[simp] theorem endHold_anchor (c s) : (endHold c s).anchor = s.anchor := by simp [endHold]
@[simp] theorem autoRestart_anchor (c s) : (autoRestart c s).anchor = s.anchor := by simp [autoRestart]

@[simp] theorem thermalDecide_anchor (c s) : (thermalDecide c s).anchor = s.anchor := by
  unfold thermalDecide
  split <;> simp

@[simp] theorem setDt_anchor (c dt s) : (setDt c dt s).anchor = s.anchor := by simp [setDt]
@[simp] theorem thermalAgain_anchor (c dt s) : (thermalAgain c dt s).anchor = s.anchor := by simp [thermalAgain]
@[simp] theorem thermalAbsolute_anchor (c tj dt s) : (thermalAbsolute c tj dt s).anchor = s.anchor := by
  simp [thermalAbsolute]
@[simp] theorem sensingChanged_anchor (c was s) : (sensingChanged c was s).anchor = s.anchor := by simp [sensingChanged]
@[simp] theorem sensingFault_anchor (c wholeBank s) : (sensingFault c wholeBank s).anchor = s.anchor := by simp [sensingFault]
@[simp] theorem swReport_anchor (c k kind f on s) : (swReport c k kind f on s).anchor = s.anchor := by simp [swReport]
@[simp] theorem onOpenLoad_anchor (c on s) : (onOpenLoad c on s).anchor = s.anchor := by simp [onOpenLoad]
@[simp] theorem offOpenLoad_anchor (c on s) : (offOpenLoad c on s).anchor = s.anchor := by simp [offOpenLoad]
@[simp] theorem shortSupply_anchor (c on s) : (shortSupply c on s).anchor = s.anchor := by simp [shortSupply]
@[simp] theorem reverseHold_anchor (c vp s) : (reverseHold c vp s).anchor = s.anchor := by simp [reverseHold]
@[simp] theorem reverseHoldEnd_anchor (c x s) : (reverseHoldEnd c x s).anchor = s.anchor := by simp [reverseHoldEnd]
@[simp] theorem pulseTo_anchor (c on s) : (pulseTo c on s).anchor = s.anchor := by simp [pulseTo]

@[simp] theorem pulseOn_anchor (c m t s) : (pulseOn c m t s).anchor = s.anchor := by
  unfold pulseOn
  dsimp only
  split <;> simp

@[simp] theorem pulseOff_anchor (c m s) : (pulseOff c m s).anchor = s.anchor := by simp [pulseOff]

@[simp] theorem pulseEdge_anchor (c on m s) : (pulseEdge c on m s).anchor = s.anchor := by
  unfold pulseEdge
  split
  · simp
  · split <;> simp

@[simp] theorem inrushLearning_anchor (c ipk qin i100 s) : (inrushLearning c ipk qin i100 s).anchor = s.anchor := by
  simp [inrushLearning]
@[simp] theorem parityFlaw_anchor (c s) : (parityFlaw c s).anchor = s.anchor := by simp [parityFlaw]
@[simp] theorem sequencerFault_anchor (c watchdog s) : (sequencerFault c watchdog s).anchor = s.anchor := by
  simp [sequencerFault]
@[simp] theorem sequencerReloaded_anchor (c s) : (sequencerReloaded c s).anchor = s.anchor := by simp [sequencerReloaded]
@[simp] theorem tickEffects_anchor (s) : (tickEffects s).anchor = s.anchor := by simp [tickEffects]

/-! ### What every command keeps of it -/

/-- The legal partition is disabled: no legal port, no seal, no legal channels (R3). -/
def State.noPartition (s : State) : Prop := s.legal.port = none ∧ s.legal.sealed = false ∧ s.legal.mask = 0

/-- The ordering code and the queue stay, and a legal partition that is disabled on an HY1624-PA stays so (R3). -/
structure KeepsScope (s t : State) : Prop where
  order : t.sys.order = s.sys.order
  pending : t.pending = s.pending
  disabled : s.sys.order = 2 → s.noPartition → t.noPartition

theorem KeepsScope.refl (s : State) : KeepsScope s s := ⟨rfl, rfl, fun _ => id⟩

theorem KeepsScope.trans {s t u : State} (a : KeepsScope s t) (b : KeepsScope t u) : KeepsScope s u :=
  ⟨b.order.trans a.order, b.pending.trans a.pending, fun h n => b.disabled (a.order.trans h) (a.disabled h n)⟩

/-- Whatever device time does, a state with the same anchor besides it keeps the scope. -/
theorem KeepsScope.of_anchor_now {s t : State} {n : Nat} (h : t.anchor = { s.anchor with now := n }) : KeepsScope s t := by
  obtain ⟨ho, hp, hs, hm, hq, -⟩ := Anchor.mk.inj h
  refine ⟨ho, hq, fun _ hn => ?_⟩
  simp only [State.noPartition] at hn ⊢
  rw [hp, hs, hm]
  exact hn

theorem KeepsScope.of_anchor {s t : State} (h : t.anchor = s.anchor) : KeepsScope s t := .of_anchor_now (n := s.sys.now) h

theorem ite_keepsScope {p : Prop} [Decidable p] {s t u : State} (ht : p → KeepsScope s t) (hu : ¬p → KeepsScope s u) :
    KeepsScope s (if p then t else u) := by
  split
  · exact ht ‹_›
  · exact hu ‹_›

/-- The seal is taken on a device that has one (R332). -/
theorem takeSeal_keepsScope (v : Bool) (s : State) (h : s.sys.order ≠ 2) : KeepsScope s (takeSeal v s) := by
  have key (t : State) (u : State) (hu : u.anchor = t.anchor) (ho : t.sys.order = s.sys.order) (hq : t.pending = s.pending) :
      KeepsScope s u :=
    have k := KeepsScope.of_anchor hu
    ⟨k.order.trans ho, k.pending.trans hq, fun e => absurd e h⟩
  unfold takeSeal
  split
  · exact key _ _ rfl rfl rfl
  · exact key { s with legal := { s.legal with sealed := v, sealRec := v } } _ (by simp [setSeal]) rfl rfl

theorem sealChange_keepsScope (x : PinHeld) (s : State) : KeepsScope s (sealChange x s) := by
  unfold sealChange
  split
  · rename_i h
    exact takeSeal_keepsScope _ _ (by simp_all)
  · exact .refl s

theorem compareSeal_keepsScope (v : Bool) (s : State) : KeepsScope s (compareSeal v s) := by
  unfold compareSeal
  split
  · exact .refl s
  · rename_i h
    exact takeSeal_keepsScope _ _ (by simp_all)

/-- A forward step of device time moves nothing else of the anchor (R26). -/
theorem stepForward_anchor (k : Nat) (s : State) : (stepForward k s).anchor = { s.anchor with now := s.sys.now + k } := by rfl

theorem align_keepsScope (target now : Nat) (s : State) : KeepsScope s (align target now s) :=
  ite_keepsScope (fun _ => .refl s) fun _ => ite_keepsScope (fun _ => .of_anchor_now (stepForward_anchor _ _)) fun _ =>
    ite_keepsScope (fun _ => .of_anchor (raise_anchor _ _ _)) fun _ => .of_anchor (by simp)

theorem tsyncEdge_keepsScope (ns : Nat) (s : State) : KeepsScope s (tsyncEdge ns s) := by
  unfold tsyncEdge
  extract_lets y late tgt s1 s2
  have h : KeepsScope s s2 := .of_anchor (by simp [s2, s1])
  exact ite_keepsScope (fun _ => .refl s) fun _ => ite_keepsScope (fun _ => h.trans (align_keepsScope _ _ _)) fun _ => h

/-- A new mask moves nothing else of the anchor (R335). -/
theorem declareNow_anchor (p : Port) (mask : BitVec 16) (s : State) :
    (declareNow p mask s).anchor = { s.anchor with mask := mask } := by
  unfold declareNow
  extract_lets added u
  have h : u.anchor = s.anchor := by simp [u]
  show ({ u.anchor with mask := mask } : Anchor) = _
  rw [h]

/-- A command that changes the legal configuration ends before its change, or makes it (R333). -/
theorem legalChange_ok_anchor (op : BitVec 16) (r : Req) (b : Bool) (f : State → State) (s : State) :
    (legalChange op r b f ok s).state.anchor = s.anchor ∨
      ∃ u : State, u.anchor = s.anchor ∧ (legalChange op r b f ok s).state.anchor = (f u).anchor := by
  unfold legalChange
  dsimp only
  split
  · exact .inl (legalNote_anchor ..)
  · exact .inr ⟨(legalNote op r b (f s) s).2, legalNote_anchor .., by simp⟩

/-- LGL.DECLARE answers the legal port only, which a disabled partition has not (R331, R335). -/
theorem lglDeclare_keepsScope (r : Req) (s : State) : KeepsScope s (lglDeclare r s).state := by
  by_cases hp : s.legal.port = none
  · have h : s.isLegalPort r.port = false := by simp [State.isLegalPort, hp]
    exact .of_anchor (by simp [lglDeclare, checked, firstFail, h])
  · have key {t : State} {m : BitVec 16} (h : t.anchor = { s.anchor with mask := m }) : KeepsScope s t := by
      obtain ⟨ho, -, -, -, hq, -⟩ := Anchor.mk.inj h
      exact ⟨ho, hq, fun _ hn => absurd hn.1 hp⟩
    unfold lglDeclare checked
    dsimp only
    split
    · exact .refl s
    · rcases legalChange_ok_anchor 0x0E02 r true (declareNow r.port (word16 r.payload 0)) s with h | ⟨u, hu, h⟩
      · exact .of_anchor h
      · exact key (h.trans ((declareNow_anchor ..).trans (by rw [hu])))

theorem runMail_keepsScope (op : BitVec 16) (r : Req) (s : State) (body : State → Res)
    (h : ∀ u, KeepsScope u (body u).state) : KeepsScope s (runMail op r s body) := by
  unfold runMail
  refine ite_keepsScope (fun _ => ?_) fun _ => .refl s
  split
  · exact .of_anchor (finishHere_anchor ..)
  · split
    · exact .of_anchor (sendUnheard_anchor ..)
    · exact (KeepsScope.of_anchor (setSlot_anchor ..)).trans ((h _).trans (.of_anchor (Res.ends_anchor ..)))

/-- The legal port of an HY1624-PA is none, whatever LPORT reads (R3, R331). -/
theorem coldBegin_keepsScope (f : ColdFacts) (s : State) : KeepsScope s (coldBegin f s) := by
  have h : (coldBegin f s).anchor = { s.anchor with
      port := if f.lport && s.sys.order != 2 then some 0 else none
      now := 0 } := by
    simp only [coldBegin, coldPlant_anchor]
    rfl
  obtain ⟨ho, hp, hs, hm, hq, -⟩ := Anchor.mk.inj h
  refine ⟨ho, hq, fun e hn => ?_⟩
  exact ⟨by simpa [e] using hp, hs.trans hn.2.1, hm.trans hn.2.2⟩

theorem coldRecords_keepsScope (f : ColdFacts) (cause : BitVec 8) (s : State) : KeepsScope s (coldRecords f cause s) := by
  unfold coldRecords
  extract_lets spent s1 s2 s3
  have h1 : s1.anchor = s.anchor := by simp [s1]
  have h2 : s2.anchor = s.anchor := by simp [s2, h1]
  have h3 : s3.anchor = s.anchor := h2
  exact (KeepsScope.of_anchor ((loadSequencers_anchor ..).trans h3)).trans
    ((compareSeal_keepsScope _ _).trans (.of_anchor (checkLegact_anchor _)))

theorem coldNow_keepsScope (f : ColdFacts) (cause : BitVec 8) (s : State) : KeepsScope s (coldNow f cause s) := by
  unfold coldNow
  extract_lets was tunc told cause' s1 s2
  have h : KeepsScope s (coldRecords f cause' (coldBegin f s)) := (coldBegin_keepsScope f s).trans (coldRecords_keepsScope ..)
  exact h.trans (.of_anchor (by simp [s2, s1]))

theorem cutStart_keepsScope (k : BitVec 8) (f : ColdFacts) (cause : BitVec 8) (s : State) :
    KeepsScope s (cutStart k f cause s) := by
  unfold cutStart
  extract_lets t
  have h : KeepsScope s t := (coldBegin_keepsScope f s).trans (.of_anchor (linksBack_anchor ..))
  refine KeepsScope.trans ?_ (.of_anchor (powerFail_anchor _))
  exact ite_keepsScope (fun _ => h.trans (coldRecords_keepsScope ..)) fun _ => h

theorem beginStart_keepsScope (k : StartKind) (f : ColdFacts) (s : State) : KeepsScope s (beginStart k f s) := by
  cases k with
  | cold => exact coldBegin_keepsScope f s
  | warm => exact .of_anchor (by simp [beginStart])
  | recovery => exact .of_anchor_now (coldPlant_anchor ..)

theorem startFails_keepsScope (k : StartKind) (n : BitVec 8) (f : ColdFacts) (s : State) : KeepsScope s (startFails k n f s) := by
  unfold startFails
  extract_lets t u
  have h : KeepsScope s u := (beginStart_keepsScope k f s).trans (.of_anchor (by simp [u, t]))
  exact h.trans (.of_anchor (by simp))

theorem warmStart_keepsScope (b : Bool) (s : State) : KeepsScope s (warmStart b s) := by
  unfold warmStart
  split
  · refine ite_keepsScope (fun _ => .refl s) fun _ => ?_
    extract_lets t u
    have h : KeepsScope s t := .of_anchor (by simp [t])
    exact ite_keepsScope (fun _ => h.trans (startFails_keepsScope ..)) fun _ => h.trans (.of_anchor (by simp))
  · exact .refl s

theorem coldRun_keepsScope (f : ColdFacts) (cause : BitVec 8) (s : State) : KeepsScope s (coldRun f cause s) := by
  unfold coldRun
  dsimp only
  split
  · exact ite_keepsScope (fun _ => cutStart_keepsScope ..) fun _ => startFails_keepsScope ..
  · exact ite_keepsScope (fun _ => coldNow_keepsScope ..) fun _ => startFails_keepsScope ..

theorem coldStart_keepsScope (f : ColdFacts) (s : State) : KeepsScope s (coldStart f s) := by
  unfold coldStart
  refine ite_keepsScope (fun _ => ite_keepsScope (fun _ => coldRun_keepsScope ..) fun _ => .refl s) fun _ => ?_
  split
  · exact coldRun_keepsScope ..
  · exact .refl s

theorem failedStart_keepsScope (x : FailedStart) (s : State) : KeepsScope s (failedStart x s) := by
  unfold failedStart
  refine ite_keepsScope (fun _ => ite_keepsScope (fun _ => startFails_keepsScope ..) fun _ => .refl s) fun _ => ?_
  split
  · exact startFails_keepsScope ..
  · exact .refl s

/-- Device time goes on; what comes with it leaves it. -/
theorem tick_anchor (s : State) : (tick s).anchor = { s.anchor with now := s.sys.tick.now } := by
  have h : (tickClocks s).anchor = { s.anchor with now := s.sys.tick.now } := by
    have ho : s.sys.tick.order = s.sys.order := by
      unfold Sys.tick
      dsimp only
      split <;> rfl
    simp only [State.anchor, tickClocks, ho]
  rw [tick, tickEffects_anchor, h]

/-- The commands that may move the anchor: LGL.DECLARE, the seal, TSYNC and the starts. -/
def movesAnchor : Instr → Bool
  | .lglDeclare _ | .seal _ | .tsyncEdge _ | .warmStart _ | .coldStart _ | .failedStart _ => true
  | _ => false

theorem exec_anchor (c : Instr) (s t : State) (hc : movesAnchor c = false) (h : exec c s = .next t) : t.anchor = s.anchor := by
  cases c
  -- excludes the commands that `movesAnchor` names
  all_goals cases hc
  all_goals
    obtain rfl := Host.Outcome.next.inj h
    simp

theorem exec_keepsScope (c : Instr) (s t : State) (h : exec c s = .next t) : KeepsScope s t := by
  cases hc : movesAnchor c with
  | false => exact .of_anchor (exec_anchor c s t hc h)
  | true =>
    cases c
    -- leaves the commands that `movesAnchor` names
    all_goals cases hc
    all_goals obtain rfl := Host.Outcome.next.inj h
    case lglDeclare.refl r => exact runMail_keepsScope _ _ _ _ (lglDeclare_keepsScope r)
    case tsyncEdge.refl n => exact tsyncEdge_keepsScope n s
    case warmStart.refl b => exact warmStart_keepsScope b s
    case coldStart.refl f => exact coldStart_keepsScope f s
    case failedStart.refl x => exact failedStart_keepsScope x s
    case seal.refl x => exact sealChange_keepsScope x s

/-- The same for a step from any queue: the tick on the empty one, else the front command on the rest. -/
theorem step_keepsScope {s t : State} (h : step s = .next t) :
    t.sys.order = s.sys.order ∧ (s.sys.order = 2 → s.noPartition → t.noPartition) := by
  unfold step at h
  split at h
  · obtain rfl := Host.Outcome.next.inj h
    have k := KeepsScope.of_anchor_now (tick_anchor s)
    exact ⟨k.order, k.disabled⟩
  · next c rest _ =>
    have k := exec_keepsScope c { s with pending := rest } t h
    exact ⟨k.order, k.disabled⟩

/-- Settles O6: every function leaves the anchor or, where it moves it, keeps the ordering code and a disabled partition. -/
theorem orderingCodeIsFixedAndPaHasNoLegalPartition : Obligations.OrderingCodeIsFixedAndPaHasNoLegalPartition := by
  intro s t h
  obtain ⟨order, disabled⟩ := step_keepsScope h
  refine ⟨order, fun e n => ?_⟩
  obtain ⟨hport, hsealed, hmask⟩ := disabled e n
  exact ⟨hport, hsealed, hmask, by simp [State.lglBit, hsealed]⟩

end Sys2Proof.Machine
end

section
/-! PROOFS. What a raise does at a port (R288, R323): the source becomes pending where EVMASK selects it, no pending source is
lost, and besides the event queue nothing changes. -/

namespace Sys2Proof.Machine

/-- A port without what raising events writes (R288, R323, R325). -/
def PortSt.besidesEvents (q : PortSt) : PortSt :=
  { q with evpend := 0, eseq := 0, evOpen := [], evOpenedAt := 0, evLost := false, dropEvAt := none, rsp := [] }

/-- Events alone have been raised at a port: what was pending still is. -/
structure EventsOnly (q r : PortSt) : Prop where
  besides : r.besidesEvents = q.besidesEvents
  pending : ∀ k, bit q.evpend k = true → bit r.evpend k = true

theorem EventsOnly.refl (q : PortSt) : EventsOnly q q := ⟨rfl, fun _ => id⟩

theorem EventsOnly.trans {q r x : PortSt} (a : EventsOnly q r) (b : EventsOnly r x) : EventsOnly q x :=
  ⟨b.besides.trans a.besides, fun k h => b.pending k (a.pending k h)⟩

theorem EventsOnly.evmask {q r : PortSt} (h : EventsOnly q r) : r.evmask = q.evmask :=
  (congrArg PortSt.evmask h.besides :)

theorem bit_or_left {n : Nat} (v w : BitVec n) (k : Nat) (h : bit v k = true) : bit (v ||| w) k = true := by
  simp only [bit, BitVec.getLsbD_or] at h ⊢
  simp [h]

theorem bit_or_source (v : BitVec 256) (k : Nat) (h : k < 256) : bit (v ||| BitVec.ofNat 256 (2 ^ k)) k = true := by
  simp only [bit, BitVec.getLsbD_or, BitVec.getLsbD_ofNat, Nat.testBit_two_pow_self, h]
  simp

theorem closeEvents_events (p : Port) (now : Nat) (q : PortSt) : EventsOnly q (q.closeEvents p now) := by
  unfold PortSt.closeEvents
  split
  · exact .refl q
  · exact ⟨rfl, fun _ => id⟩

/-- A port that receives a raise: an unmasked source is pending from then on. -/
theorem receive_events (p : Port) (now src : Nat) (d : List Byte) (ts : Nat) (q : PortSt) :
    EventsOnly q (q.receive p now src d ts).1 ∧
      (src < 256 → bit q.evmask src = true → bit (q.receive p now src d ts).1.evpend src = true) := by
  unfold PortSt.receive
  split
  · exact ⟨.refl q, fun _ h => by simp_all⟩
  · extract_lets q1 b q2 e
    have h1 : EventsOnly q q1 := ⟨rfl, fun k h => bit_or_left _ _ k h⟩
    have hp : src < 256 → bit q1.evpend src = true := bit_or_source q.evpend src
    have next {r : PortSt} (h : EventsOnly q1 r) :
        EventsOnly q r ∧ (src < 256 → bit q.evmask src = true → bit r.evpend src = true) :=
      ⟨h1.trans h, fun hs _ => h.pending src (hp hs)⟩
    split
    · exact next ⟨rfl, fun _ => id⟩
    · split
      · exact next ⟨rfl, fun _ => id⟩
      · have h2 : EventsOnly q1 q2 := by
          simp only [q2]
          split
          · exact closeEvents_events p now q1
          · exact .refl q1
        exact next (h2.trans ⟨rfl, fun _ => id⟩)

/-- One raise: events alone, and an unmasked source is pending at its port. -/
theorem raiseOnce_port (src : Nat) (d : List Byte) (ts : Nat) (s : State) (p : Port) :
    ((raiseOnce src d ts s).1.port p) = ((s.port p).receive p s.sys.now src d ts).1 := by
  fin_cases p <;> simp [raiseOnce, overAll, allPorts, State.setPort_port_ne]

theorem raiseOnce_events (src : Nat) (d : List Byte) (ts : Nat) (s : State) (p : Port) :
    EventsOnly (s.port p) ((raiseOnce src d ts s).1.port p) := by
  rw [raiseOnce_port]
  exact (receive_events ..).1

theorem setPort_events (p : Port) (f : PortSt → PortSt) (s : State) (h : ∀ q, EventsOnly q (f q)) (d : Port) :
    EventsOnly (s.port d) ((s.setPort p f).port d) := by
  by_cases e : d = p
  · subst e
    rw [State.setPort_port_self]
    exact h _
  · rw [State.setPort_port_ne s p f d e]
    exact .refl _

theorem noteDrop_events (p : Port) (s : State) (d : Port) : EventsOnly (s.port d) ((noteDrop p s).port d) := by
  have h0 : EventsOnly (s.port d) ((s.setPort p (fun q => { q with dropEvAt := some s.sys.now })).port d) :=
    setPort_events p (fun q => { q with dropEvAt := some s.sys.now }) s (fun _ => ⟨rfl, fun _ => id⟩) d
  have h := h0.trans (raiseOnce_events (portSrc p 6) [] s.sys.now _ d)
  unfold noteDrop
  split
  · split
    · exact .refl _
    · exact h
  · exact h

theorem overAll_events {α : Type} {l : List α} {f : α → State → State} {p : Port}
    (h : ∀ a s, EventsOnly (s.port p) ((f a s).port p)) (s : State) : EventsOnly (s.port p) ((overAll l f s).port p) := by
  unfold overAll
  induction l generalizing s with
  | nil => exact .refl _
  | cons a l ih => exact (h a s).trans (ih (f a s))

theorem raise_events (src : Nat) (d : List Byte) (s : State) (p : Port) : EventsOnly (s.port p) ((raise src d s).port p) :=
  (raiseOnce_events src d s.sys.now s p).trans (overAll_events (fun q s => noteDrop_events q s p) _)

/-- A source that is raised is latched (R288). -/
theorem raise_latched (src : Nat) (d : List Byte) (s : State) (h : src < 256) : (raise src d s).latched src := by
  intro p hm
  rw [(raise_events src d s p).evmask] at hm
  refine (overAll_events (fun q s => noteDrop_events q s p) _).pending src ?_
  rw [raiseOnce_port]
  exact (receive_events ..).2 h hm

theorem latched_of_events {k : Nat} {s t : State} (h : s.latched k) (e : ∀ p, EventsOnly (s.port p) (t.port p)) : t.latched k :=
  fun p hm => (e p).pending k (h p ((e p).evmask ▸ hm))

/-- A raise leaves due watchdogs due and others not due (R255). -/
theorem raise_wdDue (src : Nat) (d : List Byte) (s : State) (p : Port) : (raise src d s).wdDue p = s.wdDue p := by
  have h := (raise_events src d s p).besides
  have hw := congrArg PortSt.wdt h
  have hr := congrArg PortSt.rdy h
  have hx := congrArg PortSt.wdExpired h
  have ha := congrArg PortSt.wdAt h
  simp only [PortSt.besidesEvents] at hw hr hx ha
  simp only [State.wdDue, State.coreDown, (raise_records src d s).sys, hw, hr, hx, ha]

end Sys2Proof.Machine
end

section
/-! PROOFS. The legal event counter through the Den's own operations (R364): none of them counts, so that a legal record that is
asked to count adds 1. -/

namespace Sys2Proof.Machine

/-- What every step of a loop leaves, the loop leaves. -/
theorem overAll_keeps {α β : Type} (g : State → β) {l : List α} {f : α → State → State} (h : ∀ a s, g (f a s) = g s) (s : State) :
    g (overAll l f s) = g s := by
  unfold overAll
  induction l generalizing s with
  | nil => rfl
  | cons a l ih => exact (ih (f a s)).trans (h a s)

theorem raiseOnce_den (src d ts s) : (raiseOnce src d ts s).1.den = s.den := by
  unfold raiseOnce
  exact overAll_keeps State.den (f := fun p s => s.setPort p _) (fun _ _ => rfl) s

theorem noteDrop_den (p s) : (noteDrop p s).den = s.den := by
  unfold noteDrop
  split
  · split
    · rfl
    · exact raiseOnce_den ..
  · exact raiseOnce_den ..

@[simp] theorem raise_den (src d s) : (raise src d s).den = s.den :=
  (overAll_keeps State.den (fun p s => noteDrop_den p s) _).trans (raiseOnce_den ..)

theorem flushPut_lec (s : State) (a : Flushed) (r : DenRec) (t : Nat) {good bad : Den} (hg : good.lec = a.d.lec)
    (hb : bad.lec = a.d.lec) : (flushPut s a r t good bad).d.lec = a.d.lec := by
  unfold flushPut
  dsimp only
  split
  · exact hb
  · exact hg

theorem flushOne_lec (s : State) (a : Flushed) (r : DenRec) : (flushOne s a r).d.lec = a.d.lec := by
  unfold flushOne
  split
  · exact flushPut_lec s a r _ rfl rfl
  · split
    · exact flushPut_lec s a r _ rfl rfl
    · rfl

theorem flushFold_lec (s : State) (l : List DenRec) (a : Flushed) : (l.foldl (flushOne s) a).d.lec = a.d.lec := by
  induction l generalizing a with
  | nil => rfl
  | cons r l ih => exact (ih _).trans (flushOne_lec s a r)

@[simp] theorem flushAll_lec (s : State) : (flushAll s).d.lec = s.den.lec := flushFold_lec ..

@[simp] theorem noteLeg90_lec (s : State) : (noteLeg90 s).den.lec = s.den.lec := by
  unfold noteLeg90
  split <;> simp

@[simp] theorem flushBuf_lec (s : State) : (flushBuf s).den.lec = s.den.lec := by
  unfold flushBuf
  split
  · rfl
  · simp only [noteLeg90_lec, apply_ite State.den, raise_den, ite_self, flushAll_lec]

@[simp] theorem noteDenDrop_lec (n s) : (noteDenDrop n s).den.lec = s.den.lec := by
  unfold noteDenDrop
  split
  · rfl
  · dsimp only
    split
    · split <;> simp
    · simp

@[simp] theorem makeRoom_lec (n m sev s) : (makeRoom n m sev s).den.lec = s.den.lec := by
  unfold makeRoom
  split
  · rfl
  · dsimp only
    split <;> simp

@[simp] theorem nextSeq_lec (s) : (nextSeq s).2.den.lec = s.den.lec := by
  simp only [nextSeq, apply_ite State.den, raise_den, ite_self]
  rfl

@[simp] theorem enterRec_lec (typ sev ovfl payload rep last s) :
    (enterRec typ sev ovfl payload rep last s).den.lec = s.den.lec := by
  unfold enterRec
  extract_lets s1 trl q r s2 s3
  have h2 : s2.den.lec = s.den.lec := by simp [s2, q, s1]
  clear_value s2 r
  split
  · split <;> simp [s3, h2]
  · simp [h2]

/-- A legal record that counts adds 1 to LEC, wherever it is entered (R364, R366). -/
theorem legalEnter_lec (x : LegalRec) (reserve : Bool) (s : State) : (legalEnter x true reserve s).den.lec = s.den.lec + 1 := by
  unfold legalEnter
  dsimp only
  split <;> simp

/-- While C7 serves, a legal record is entered at once. -/
theorem legalWrite_lec (typ sev content port reserve) (s : State) (h : s.coreDown 7 = false) :
    (legalWrite typ sev content port true reserve s).den.lec = s.den.lec + 1 := by
  rw [legalWrite]
  generalize (if s.den.legalFits (content.length + 40) reserve then sev else 5) = v
  generalize 36 + (pad4 content).length + 40 = n
  have hc : (makeRoom n n v s).coreDown 7 = false := by
    simp only [State.coreDown, (makeRoom_records n n v s).sys]
    exact h
  rw [if_neg (by simp [hc]), legalEnter_lec, makeRoom_lec]

end Sys2Proof.Machine
end

section
/-! PROOFS. What a notice of a Holm can do (R245, R452), and that after the evaluation of a bank each of its channels stands where
its highest active level puts it (R35, R36), level 2 among them (R262, R263). -/

namespace Sys2Proof.Machine

/-- A Holm without the notices that wait in it. -/
def Holm.besidesNotices (h : Holm) : Holm := { h with notices := [], dropped := 0 }

/-- A notice leaves the system state and the channels, and of its Holm all but the notices. -/
theorem notify_leaves (b : Bank) (src : Nat) (d : List Byte) (den : Option Nat) (obj : BitVec 16) (s : State) :
    (notify b src d den obj s).sys = s.sys ∧ (notify b src d den obj s).chans = s.chans ∧
      ∀ e : Bank, ((notify b src d den obj s).holm e).besidesNotices = (s.holm e).besidesNotices := by
  by_cases h : (s.holm b).link = true ∧ s.sys.vddOk = true
  · have r := notify_live b src d den obj s h.1 h.2
    exact ⟨r.sys, r.chans, fun e => by simp only [State.holm, r.holms]⟩
  · unfold notify
    rw [if_neg (by simpa using h)]
    refine ⟨rfl, rfl, fun e => ?_⟩
    by_cases he : e = b
    · subst he
      rw [State.setHolm_holm_self]
      dsimp only
      split <;> rfl
    · rw [State.setHolm_holm_ne s b _ e he]

theorem notify_chans (b src d den obj s) : (notify b src d den obj s).chans = s.chans := (notify_leaves b src d den obj s).2.1

theorem notify_holm (b src d den obj s) (e : Bank) :
    ((notify b src d den obj s).holm e).besidesNotices = (s.holm e).besidesNotices := (notify_leaves b src d den obj s).2.2 e

/-- The level and the output at which a channel stands. -/
def State.standing (s : State) (d : Ch) : Nat × Demand := ((s.ch d).level, (s.ch d).out)

theorem setCh_standing (c : Ch) (f : Chan → Chan) (s : State) (d : Ch)
    (h : ∀ ch, (f ch).level = ch.level ∧ (f ch).out = ch.out) : (s.setCh c f).standing d = s.standing d := by
  unfold State.standing
  by_cases e : d = c
  · subst e
    rw [State.setCh_ch_self, (h _).1, (h _).2]
  · rw [State.setCh_ch_ne s c f d e]

theorem standing_of_chans {s t : State} (h : t.chans = s.chans) (d : Ch) : t.standing d = s.standing d := by
  unfold State.standing State.ch
  rw [h]

theorem endTrim_standing (c : Ch) (s : State) (d : Ch) : (endTrim c s).standing d = s.standing d := by
  unfold endTrim
  split
  · rfl
  · extract_lets s1 isT gone
    refine (overAll_keeps (·.standing d) (fun h u => ?_) _).trans
      (setCh_standing c (fun ch => { ch with loop := { ch.loop with session := .none } }) s d fun _ => ⟨rfl, rfl⟩)
    split
    · exact standing_of_chans (finish_chans ..) d
    · rfl

/-- One evaluation (R36): the channel stands where it is governed, every other as it stood. -/
theorem evalOne_standing (c : Ch) (s : State) (d : Ch) :
    (evalOne c s).standing d = if d = c then s.govern c else s.standing d := by
  unfold evalOne
  extract_lets ch g now on ramp moved from_ s1 s2 s3
  have h1 : s1.standing d = if d = c then g else s.standing d := by
    unfold State.standing
    split
    · next e =>
      subst e
      simp only [s1, State.setCh_ch_self]
    · next e => rw [State.setCh_ch_ne s c _ d e]
  have h2 : s2.standing d = s1.standing d := by
    simp only [s2]
    split <;> rfl
  have h3 : s3.standing d = s2.standing d := by
    simp only [s3]
    split
    · exact endTrim_standing c s2 d
    · rfl
  rw [← h1, ← h2, ← h3]
  split
  · exact setCh_standing _ _ _ d fun _ => ⟨rfl, rfl⟩
  · rfl

/-- After the evaluation of a list, one of its channels stands where it was governed at its own, latest evaluation. -/
theorem evalList_standing (c : Ch) (l : List Ch) (s : State) (h : c ∈ l) :
    ∃ u, OutputsOnly s u ∧ (overAll l evalOne s).standing c = u.govern c := by
  induction l generalizing s with
  | nil => simp at h
  | cons a l ih =>
    by_cases hl : c ∈ l
    · obtain ⟨u, hu, e⟩ := ih (evalOne a s) hl
      exact ⟨u, (evalOne_outputs a s).trans hu, e⟩
    · obtain rfl : c = a := by simpa [hl] using h
      refine ⟨s, .refl s, ?_⟩
      have rest : ∀ (k : List Ch) (u : State), c ∉ k → (overAll k evalOne u).standing c = u.standing c := by
        intro k
        induction k with
        | nil => exact fun _ _ => rfl
        | cons b k ik =>
          intro u hk
          simp only [List.mem_cons, not_or] at hk
          obtain ⟨hb, hk⟩ := hk
          exact (ik _ hk).trans ((evalOne_standing b u c).trans (if_neg hb))
      exact (rest l _ hl).trans ((evalOne_standing c s c).trans (if_pos rfl))

theorem mem_bankChs {b : Bank} {c : Ch} : c ∈ bankChs b ↔ bankOf c = b := by simp [bankChs, allCh]

theorem evalBank_standing (b : Bank) (s : State) (c : Ch) (h : bankOf c = b) :
    ∃ u, OutputsOnly s u ∧ (evalBank b s).standing c = u.govern c := evalList_standing c _ s (mem_bankChs.mpr h)

/-! ### Level 2 -/

theorem OutputsOnly.mode {s t : State} (h : OutputsOnly s t) (c : Ch) : (t.ch c).mode = (s.ch c).mode :=
  (congrArg Chan.mode (h.chan c) :)
theorem OutputsOnly.paired {s t : State} (h : OutputsOnly s t) (c : Ch) : (t.ch c).paired = (s.ch c).paired :=
  (congrArg Chan.paired (h.chan c) :)
theorem OutputsOnly.locks {s t : State} (h : OutputsOnly s t) (c : Ch) : (t.ch c).locks = (s.ch c).locks :=
  (congrArg Chan.locks (h.chan c) :)
theorem OutputsOnly.bmap {s t : State} (h : OutputsOnly s t) (c : Ch) : (t.ch c).bmap = (s.ch c).bmap :=
  (congrArg Chan.bmap (h.chan c) :)
theorem OutputsOnly.changing {s t : State} (h : OutputsOnly s t) (c : Ch) : (t.ch c).changing = (s.ch c).changing :=
  (congrArg Chan.changing (h.chan c) :)

theorem OutputsOnly.inBreak {s t : State} (h : OutputsOnly s t) (c : Ch) : (t.ch c).inBreak = (s.ch c).inBreak := by
  simp only [Chan.inBreak, h.changing]

/-- What of a Holm level 2 depends on (R262, R263). -/
structure SameBurrow (h k : Holm) : Prop where
  up : k.up = h.up
  burEn : k.burEn = h.burEn
  burIn : k.burIn = h.burIn
  mapHere : k.mapHere = h.mapHere
  restarted : k.restarted = h.restarted

theorem OutputsOnly.burrow {s t : State} (h : OutputsOnly s t) (b : Bank) : SameBurrow (s.holm b) (t.holm b) :=
  ⟨(congrArg Holm.up (h.holm b) :), (congrArg Holm.burEn (h.holm b) :), (congrArg Holm.burIn (h.holm b) :),
   (congrArg Holm.mapHere (h.holm b) :), (congrArg Holm.restarted (h.holm b) :)⟩

theorem notify_burrow (b src d den obj s) (e : Bank) : SameBurrow (s.holm e) ((notify b src d den obj s).holm e) :=
  have h := notify_holm b src d den obj s e
  ⟨(congrArg Holm.up h :), (congrArg Holm.burEn h :), (congrArg Holm.burIn h :), (congrArg Holm.mapHere h :),
   (congrArg Holm.restarted h :)⟩

theorem burrowOn_eq (s : State) (c : Ch) : s.burrowOn c =
    ((s.holm (bankOf c)).up && (s.holm (bankOf c)).burEn && (s.holm (bankOf c)).mapHere && (s.ch c).mode.isOutput &&
      bit (s.ch (s.lead c)).bmap.bflags 7) := by
  unfold State.burrowOn State.lead State.ch State.holm
  dsimp only
  split <;> rfl

theorem OutputsOnly.burrowOn {s t : State} (h : OutputsOnly s t) (c : Ch) : t.burrowOn c = s.burrowOn c := by
  have k := h.burrow (bankOf c)
  simp only [burrowOn_eq, h.mode, h.bmap, h.lead, k.up, k.burEn, k.mapHere]

/-- The demand of level 2 rests on modes, pairs and map entries of the channels and on the Burrow inputs (R263). -/
theorem burDemand_congr {s t : State} (c : Ch) (hm : (t.ch c).mode = (s.ch c).mode) (hl : t.lead c = s.lead c)
    (he : (t.ch (s.lead c)).bmap = (s.ch (s.lead c)).bmap) (hi : (t.holm (bankOf c)).burIn = (s.holm (bankOf c)).burIn) :
    t.burDemand c = s.burDemand c := by
  simp only [State.burDemand, State.burActive, hm, hl, he, hi]
  rfl

theorem OutputsOnly.burDemand {s t : State} (h : OutputsOnly s t) (c : Ch) : t.burDemand c = s.burDemand c :=
  burDemand_congr c (h.mode c) (h.lead c) (h.bmap _) (h.burrow _).burIn

theorem notify_burDemand (b src d den obj s) (c : Ch) : (notify b src d den obj s).burDemand c = s.burDemand c := by
  have h (e : Ch) : (notify b src d den obj s).ch e = s.ch e := by
    unfold State.ch
    rw [notify_chans]
  exact burDemand_congr c (by rw [h]) (by simp only [State.lead, h]) (by rw [h]) (notify_burrow ..).burIn

/-- Level 2 governs only where it is active (R262). -/
theorem govern_ne_two (s : State) (c : Ch) (h : s.burrowOn c = false) : (s.govern c).1 ≠ 2 := by
  unfold State.govern
  simp only [h, Bool.false_eq_true, if_false]
  repeat' split
  all_goals simp

/-- An unlocked, unpaired output with level 2 active, outside the break of a mode change, stands at level 2 (R35, R262). -/
theorem govern_two (s : State) (c : Ch) (hm : (s.ch c).mode.isOutput = true) (hr : (s.holm (bankOf c)).restarted = false)
    (hp : (s.ch c).paired = false) (hl : (s.ch c).locks.any = false) (hb : (s.ch c).inBreak = false) (h : s.burrowOn c = true) :
    s.govern c = (2, s.burDemand c) := by
  have hk : s.locked c = false := by simp [State.locked, State.members, hp, hl]
  simp [State.govern, State.holmLive, hm, hr, hk, hb, h]

/-- A bank that is evaluated while its BUR_EN is asserted has its mapped outputs at level 2 (R262, R263). -/
theorem evalBank_burrowed (b : Bank) (s : State) (c : Ch) (hb : bankOf c = b) (hup : (s.holm b).up = true)
    (hr : (s.holm b).restarted = false) (hen : (s.holm b).burEn = true) (hh : (s.holm b).mapHere = true)
    (hm : (s.ch c).mode.isOutput = true) (hp : (s.ch c).paired = false) (he : bit (s.ch c).bmap.bflags 7 = true)
    (hl : (s.ch c).locks.any = false) (hk : (s.ch c).inBreak = false) :
    (evalBank b s).standing c = (2, (evalBank b s).burDemand c) := by
  obtain ⟨u, hu, e⟩ := evalBank_standing b s c hb
  have hon : s.burrowOn c = true := by simp [burrowOn_eq, State.lead, hb, hup, hen, hh, hm, hp, he]
  rw [e, (evalBank_outputs b s).burDemand, ← hu.burDemand]
  exact govern_two u c (by rw [hu.mode, hm]) (by rw [(hu.burrow _).restarted, hb, hr]) (by rw [hu.paired, hp])
    (by rw [hu.locks, hl]) (by rw [hu.inBreak, hk]) (by rw [hu.burrowOn, hon])

/-- A bank that is evaluated while its BUR_EN is not asserted has no channel at level 2 (R262). -/
theorem evalBank_not_burrowed (b : Bank) (s : State) (c : Ch) (hb : bankOf c = b) (hen : (s.holm b).burEn = false) :
    ((evalBank b s).ch c).level ≠ 2 := by
  obtain ⟨u, hu, e⟩ := evalBank_standing b s c hb
  have hon : u.burrowOn c = false := by simp [hu.burrowOn, burrowOn_eq, hb, hen]
  have hg := govern_ne_two u c hon
  rw [← e] at hg
  exact hg

end Sys2Proof.Machine
end

section
/-! PROOFS. Time (R23 to R27): what a beacon leaves in its Holm, a Holm without beacons, and what an edge of TSYNC does to device
time, to the outputs and to the port watchdogs. -/

namespace Sys2Proof.Machine

/-! ### Beacons -/

/-- The Holm that a beacon has reached: its slave copy at a free value near device time (R23, R25). -/
def Holm.beaconed (y : Sys) (m : Beacon) (free : Nat) (h : Holm) : Holm :=
  let locked := decide (20 ≤ h.beacons + 1)
  { h.setOsc y.now m.oscMilliHz with
    rate := y.rate
    delayNs := m.delayNs
    slave := slaveNear locked free y.now
    lastBeacon := y.now
    beacons := h.beacons + 1
    noBeacon := false
    tunc := h.tunc && !(h.tunc && locked) }

/-- The channels of a bank are told of a forward step (R27). -/
def tellStep (b : Bank) (s : State) : State :=
  overAll (bankChs b) (fun c s => s.setCh c (fun ch => { ch with filt := { ch.filt with tstep := true } }))
    (s.setSys (fun y => { y with tstepHolms := y.tstepHolms.filter (· != b) }))

theorem tellStep_holms (b : Bank) (s : State) : (tellStep b s).holms = s.holms :=
  (overAll_keeps State.holms (fun _ _ => by rfl) _).trans rfl

/-- A beacon reaches a Holm that is up over a whole link: whether it is told of a step, and whether it locks, is all that differs. -/
theorem timeBeacon_eq (b : Bank) (m : Beacon) (s : State) (hw : s.whole b = true) (hu : (s.holm b).up = true)
    (hv : s.sys.vddOk = true) :
    timeBeacon b m s =
      let t := s.draw.2.setHolm b (Holm.beaconed s.sys m s.draw.1)
      let t := if t.sys.tstepHolms.contains b then tellStep b t else t
      if (s.holm b).tunc && decide (20 ≤ (s.holm b).beacons + 1) then notifyHolm b 8 2 0xFF 0 none t else t := by
  rw [timeBeacon, if_pos (by simp [hw, hu, hv])]
  rfl

theorem timeBeacon_holm (b : Bank) (m : Beacon) (s : State) (hw : s.whole b = true) (hu : (s.holm b).up = true)
    (hv : s.sys.vddOk = true) :
    ((timeBeacon b m s).holm b).besidesNotices = (Holm.beaconed s.sys m s.draw.1 (s.holm b)).besidesNotices := by
  rw [timeBeacon_eq b m s hw hu hv]
  extract_lets t u
  have ht : t.holm b = Holm.beaconed s.sys m s.draw.1 (s.holm b) := State.setHolm_holm_self ..
  have hu : u.holm b = t.holm b := by
    simp only [u]
    split
    · simp only [State.holm, tellStep_holms]
    · rfl
  split
  · rw [notifyHolm, notify_holm, hu, ht]
  · rw [hu, ht]

theorem timeBeacon_chans (b : Bank) (m : Beacon) (s : State) (hw : s.whole b = true) (hu : (s.holm b).up = true)
    (hv : s.sys.vddOk = true) (hs : s.sys.tstepHolms.contains b = false) : (timeBeacon b m s).chans = s.chans := by
  rw [timeBeacon_eq b m s hw hu hv]
  extract_lets t u
  have ht : u = t := if_neg (by simpa [t, State.draw] using hs)
  rw [ht]
  split
  · exact notify_chans ..
  · rfl

/-- The slave copy lies within a tick of device time once it is locked, within 50 ticks before (R25). -/
theorem slaveNear_near (locked : Bool) (free now : Nat) :
    let k := if locked then 1 else 50
    now ≤ slaveNear locked free now + k ∧ slaveNear locked free now ≤ now + k := by
  intro k
  have h : free % (2 * k + 1) < 2 * k + 1 := Nat.mod_lt _ (by omega)
  have e : slaveNear locked free now = now + free % (2 * k + 1) - k := rfl
  omega

/-- A beacon (R23, R25). -/
theorem timeBeacon_spec (b : Bank) (m : Beacon) (s : State) (hw : s.whole b = true) (hu : (s.holm b).up = true)
    (hv : s.sys.vddOk = true) :
    let t := timeBeacon b m s
    (t.holm b).rate = s.sys.slew.sign ∧ (t.holm b).beacons = (s.holm b).beacons + 1 ∧ (t.holm b).noBeacon = false ∧
      t.sys.now = s.sys.now ∧
      (let k := if 20 ≤ (s.holm b).beacons + 1 then 1 else 50
       s.sys.now ≤ (t.holm b).slave + k ∧ (t.holm b).slave ≤ s.sys.now + k) ∧
      (20 ≤ (s.holm b).beacons + 1 → (t.holm b).tunc = false) ∧
      (s.sys.tstepHolms.contains b = false → t.chans = s.chans) := by
  intro t
  have h := timeBeacon_holm b m s hw hu hv
  have rate := congrArg Holm.rate h
  have beacons := congrArg Holm.beacons h
  have noBeacon := congrArg Holm.noBeacon h
  have slave := congrArg Holm.slave h
  have tunc := congrArg Holm.tunc h
  have near := slaveNear_near (decide (20 ≤ (s.holm b).beacons + 1)) s.draw.1 s.sys.now
  refine ⟨rate, beacons, noBeacon, congrArg Anchor.now (timeBeacon_anchor b m s), ?_, fun hl => ?_,
    timeBeacon_chans b m s hw hu hv⟩
  · have slave : (t.holm b).slave = slaveNear (decide (20 ≤ (s.holm b).beacons + 1)) s.draw.1 s.sys.now := slave
    rw [slave]
    simpa only [decide_eq_true_eq] using near
  · have tunc : (t.holm b).tunc =
        ((s.holm b).tunc && !((s.holm b).tunc && decide (20 ≤ (s.holm b).beacons + 1))) := tunc
    simp [tunc, hl]

/-- 50 ms without a beacon (R25). -/
theorem timeUncertain_spec (b : Bank) (s : State) (hu : (s.holm b).up = true) (ht : (s.holm b).tunc = false)
    (hb : (s.holm b).lastBeacon + 500000 ≤ (s.holm b).slave) :
    ((timeUncertain b s).holm b).tunc = true ∧ ((timeUncertain b s).holm b).slave = (s.holm b).slave ∧
      (timeUncertain b s).chans = s.chans := by
  rw [timeUncertain, if_pos (by simp [hu, ht, hb]), notifyHolm]
  have h {f : Holm → Holm} {src d den obj} := notify_holm b src d den obj (s.setHolm b f) b
  simp only [State.setHolm_holm_self] at h
  exact ⟨(congrArg Holm.tunc h :), (congrArg Holm.slave h :), notify_chans ..⟩

/-! ### TSYNC -/

/-- What no edge of TSYNC touches: what is latched stays so, outputs stay as they are, and no watchdog comes due (R26). -/
structure Undisturbed (s t : State) : Prop where
  latched : ∀ k, s.latched k → t.latched k
  standing : ∀ c, t.standing c = s.standing c
  wdDue : ∀ p, t.wdDue p = s.wdDue p

theorem Undisturbed.refl (s : State) : Undisturbed s s := ⟨fun _ => id, fun _ => rfl, fun _ => rfl⟩

theorem Undisturbed.trans {s t u : State} (a : Undisturbed s t) (b : Undisturbed t u) : Undisturbed s u :=
  ⟨fun k h => b.latched k (a.latched k h), fun c => (b.standing c).trans (a.standing c),
   fun p => (b.wdDue p).trans (a.wdDue p)⟩

theorem raise_undisturbed (src : Nat) (d : List Byte) (s : State) : Undisturbed s (raise src d s) :=
  ⟨fun _ h => latched_of_events h (raise_events src d s), standing_of_chans (raise_records src d s).chans, raise_wdDue src d s⟩

theorem stepForward_ch (k : Nat) (s : State) (c : Ch) : (stepForward k s).ch c = shiftChan k (s.ch c) := by
  simp [State.ch, stepForward]

theorem stepForward_port (k : Nat) (s : State) (p : Port) : (stepForward k s).port p = shiftPort k (s.port p) := by
  simp [State.port, stepForward]

/-- A forward step moves the instants of failed engines, not which engines have failed. -/
theorem stepForward_coreDown (k : Nat) (s : State) (n : Fin 8) : (stepForward k s).coreDown n = s.coreDown n := by
  simp only [State.coreDown, stepForward, List.any_map]
  rfl

/-- A port that is to come due is as far from it after a forward step as before (log entry 98). -/
theorem stepForward_wdDue (k : Nat) (s : State) (p : Port) : (stepForward k s).wdDue p = s.wdDue p := by
  have hn : (stepForward k s).sys.now = s.sys.now + k := rfl
  have hv : (stepForward k s).sys.vddOk = s.sys.vddOk := rfl
  have hw : (shiftPort k (s.port p)).wdt = (s.port p).wdt := rfl
  have hr : (shiftPort k (s.port p)).rdy = (s.port p).rdy := rfl
  have hx : (shiftPort k (s.port p)).wdExpired = (s.port p).wdExpired := rfl
  have ha : (shiftPort k (s.port p)).wdAt = if (s.port p).rdy then (s.port p).wdAt + k else (s.port p).wdAt := rfl
  simp only [State.wdDue, stepForward_port, stepForward_coreDown, hn, hv, hw, hr, hx, ha]
  cases (s.port p).rdy with
  | false => simp
  | true =>
    have e : ((s.port p).wdAt + k + msTicks (s.port p).wdt.toNat ≤ s.sys.now + k) ↔
        ((s.port p).wdAt + msTicks (s.port p).wdt.toNat ≤ s.sys.now) := by omega
    simp only [if_true, e]

theorem stepForward_undisturbed (k : Nat) (s : State) : Undisturbed s (stepForward k s) where
  latched n h p := by
    rw [stepForward_port]
    exact h p
  standing c := by
    simp only [State.standing, stepForward_ch]
    rfl
  wdDue p := stepForward_wdDue k s p

theorem setSlew_undisturbed (off : Int) (s : State) : Undisturbed s (s.setSys (fun y => { y with slew := off })) :=
  ⟨fun _ => id, fun _ => rfl, fun _ => rfl⟩

theorem align_undisturbed (target now : Nat) (s : State) : Undisturbed s (align target now s) := by
  unfold align
  dsimp only
  split
  · exact .refl s
  · split
    · exact stepForward_undisturbed _ s
    · split
      · exact raise_undisturbed 251 [] s
      · exact setSlew_undisturbed _ s

/-- Alignment leaves the loaded target and the captured time. -/
theorem align_tsync (target now : Nat) (s : State) : (align target now s).sys.tsyncTarget = s.sys.tsyncTarget ∧
    (align target now s).sys.tsyncCapture = s.sys.tsyncCapture := by
  unfold align
  dsimp only
  split
  · exact ⟨rfl, rfl⟩
  · split
    · exact ⟨rfl, rfl⟩
    · split
      · simp only [(raise_records 251 [] s).sys, and_self]
      · exact ⟨rfl, rfl⟩

/-- Table 7 of 01_architecture: device time against the target of an edge. -/
theorem align_time (g : Nat) (s : State) :
    let t := align g s.sys.now s
    (s.sys.now + 10000 < g → t.sys.now = g ∧ t.sys.slew = 0) ∧
    (g + 10000 < s.sys.now → t.sys.now = s.sys.now ∧ t.sys.slew = s.sys.slew ∧ t.latched 251) ∧
    (g = s.sys.now → t.sys.now = s.sys.now ∧ t.sys.slew = s.sys.slew) ∧
    (g ≠ s.sys.now → g ≤ s.sys.now + 10000 → s.sys.now ≤ g + 10000 →
      t.sys.now = s.sys.now ∧ t.sys.slew = (g : Int) - s.sys.now) := by
  have step (k : Nat) : (stepForward k s).sys.now = s.sys.now + k ∧ (stepForward k s).sys.slew = 0 := ⟨rfl, rfl⟩
  refine ⟨fun h => ?_, fun h => ?_, fun h => ?_, fun hne hle hge => ?_⟩
  · rw [align, if_neg (by omega), if_pos (by omega), (step _).1, (step _).2]
    exact ⟨by omega, rfl⟩
  · rw [align, if_neg (by omega), if_neg (by omega), if_pos (by omega), (raise_records 251 [] s).sys]
    exact ⟨rfl, rfl, raise_latched 251 [] s (by decide)⟩
  · rw [align, if_pos (by omega)]
    exact ⟨rfl, rfl⟩
  · rw [align, if_neg (by omega), if_neg (by omega), if_neg (by omega)]
    exact ⟨rfl, rfl⟩

/-- The edge is noted and device time captured, a loaded target used up, EV250 raised (R26). -/
def captured (s : State) : State :=
  raise 250 [] (s.setSys (fun y => { y with
    tsyncLast := some y.now
    tsyncCapture := BitVec.ofNat 64 y.now
    tsyncTarget := if y.tsyncMode = 2 then 0 else y.tsyncTarget }))

theorem captured_sys (s : State) : (captured s).sys = { s.sys with
    tsyncLast := some s.sys.now
    tsyncCapture := BitVec.ofNat 64 s.sys.now
    tsyncTarget := if s.sys.tsyncMode = 2 then 0 else s.sys.tsyncTarget } := (raise_records ..).sys

theorem captured_chans (s : State) : (captured s).chans = s.chans := (raise_records ..).chans

theorem captured_latched (s : State) : (captured s).latched 250 := raise_latched 250 [] _ (by decide)

theorem captured_undisturbed (s : State) : Undisturbed s (captured s) :=
  .trans (t := s.setSys _) ⟨fun _ => id, fun _ => rfl, fun _ => rfl⟩ (raise_undisturbed 250 [] _)

/-- An edge is accepted (R26). -/
def Accepts (ns : Nat) (s : State) : Prop :=
  1000 ≤ ns ∧ (∀ t0, s.sys.tsyncLast = some t0 → t0 + 1000 ≤ s.sys.now) ∧ s.sys.tsyncMode ≠ 0

theorem tsyncEdge_eq (ns : Nat) (s : State) (hv : s.sys.vddOk = true) (h : Accepts ns s) : tsyncEdge ns s =
    if s.sys.tsyncMode = 2 ∧ s.sys.tsyncTarget ≠ 0 then align s.sys.tsyncTarget.toNat s.sys.now (captured s)
    else captured s := by
  obtain ⟨hn, hl, hm⟩ := h
  have ht : s.sys.tsyncTarget.toNat ≠ 0 ↔ s.sys.tsyncTarget ≠ 0 := by simp [BitVec.toNat_eq]
  rw [tsyncEdge, if_neg]
  · simp only [Bool.and_eq_true, decide_eq_true_eq, bne_iff_ne, ht]
    rfl
  · cases e : s.sys.tsyncLast with
    | none => simp [hm, hv, hn]
    | some t => simp [hm, hv, hn, hl t e]

/-- A refused edge does nothing (R26). -/
theorem tsyncEdge_refused (ns : Nat) (s : State)
    (h : ns < 1000 ∨ s.sys.tsyncMode = 0 ∨ ∃ t0, s.sys.tsyncLast = some t0 ∧ s.sys.now < t0 + 1000) : tsyncEdge ns s = s := by
  rw [tsyncEdge, if_pos]
  obtain h | h | ⟨t0, hl, ht⟩ := h
  · simp [h]
  · simp [h]
  · simp [hl, ht]

/-- What every accepted edge does (R26). -/
theorem tsyncEdge_captures (ns : Nat) (s : State) (hv : s.sys.vddOk = true) (h : Accepts ns s) :
    (tsyncEdge ns s).latched 250 ∧ (tsyncEdge ns s).sys.tsyncCapture = BitVec.ofNat 64 s.sys.now ∧
      Undisturbed s (tsyncEdge ns s) := by
  rw [tsyncEdge_eq ns s hv h]
  have hc : (captured s).sys.tsyncCapture = BitVec.ofNat 64 s.sys.now := by rw [captured_sys]
  split
  · have a := align_undisturbed s.sys.tsyncTarget.toNat s.sys.now (captured s)
    exact ⟨a.latched 250 (captured_latched s), (align_tsync ..).2.trans hc, (captured_undisturbed s).trans a⟩
  · exact ⟨captured_latched s, hc, captured_undisturbed s⟩

/-- In mode 1 an accepted edge captures only. -/
theorem tsyncEdge_capture_only (ns : Nat) (s : State) (hv : s.sys.vddOk = true) (h : Accepts ns s) (hm : s.sys.tsyncMode = 1) :
    (tsyncEdge ns s).sys.now = s.sys.now ∧ (tsyncEdge ns s).sys.slew = s.sys.slew ∧ (tsyncEdge ns s).chans = s.chans := by
  rw [tsyncEdge_eq ns s hv h, if_neg (by simp [hm]), captured_sys]
  exact ⟨rfl, rfl, captured_chans s⟩

/-- In mode 2 an accepted edge uses its target and aligns device time with it (Table 7 of 01_architecture). -/
theorem tsyncEdge_aligns (ns : Nat) (s : State) (hv : s.sys.vddOk = true) (h : Accepts ns s) (hm : s.sys.tsyncMode = 2)
    (ht : s.sys.tsyncTarget ≠ 0) :
    tsyncEdge ns s = align s.sys.tsyncTarget.toNat (captured s).sys.now (captured s) ∧ (tsyncEdge ns s).sys.tsyncTarget = 0 := by
  have e : tsyncEdge ns s = align s.sys.tsyncTarget.toNat (captured s).sys.now (captured s) := by
    rw [tsyncEdge_eq ns s hv h, if_pos ⟨hm, ht⟩, captured_sys]
  refine ⟨e, ?_⟩
  rw [e, (align_tsync ..).1, captured_sys]
  exact if_pos hm

end Sys2Proof.Machine
end

section
/-! PROOFS. The relay (R32, R33), the Burrow pins (R262, R263) and the seal (R332), and from them the statement on the remaining
instants of device time. -/

namespace Sys2Proof.Machine

/-! ### The relay -/

/-- An undelivered action's report leaves the channels, and of its Holm all but what waits to be reported (R33). -/
theorem undelivered_leaves (m : ActMsg) (s : State) : (undelivered m s).chans = s.chans ∧
    ∀ b : Bank, ((undelivered m s).holm b).bus = (s.holm b).bus ∧ ((undelivered m s).holm b).relay = (s.holm b).relay := by
  have waits (f : Holm → Holm) (hf : ∀ h, (f h).bus = h.bus ∧ (f h).relay = h.relay) (b : Bank) :
      ((s.setHolm (bankOf m.src) f).holm b).bus = (s.holm b).bus ∧
        ((s.setHolm (bankOf m.src) f).holm b).relay = (s.holm b).relay := by
    by_cases e : b = bankOf m.src
    · subst e
      rw [State.setHolm_holm_self]
      exact hf _
    · rw [State.setHolm_holm_ne _ _ _ _ e]
      exact ⟨rfl, rfl⟩
  unfold undelivered
  dsimp only
  split
  · have r : RecordsOnly s (reportLost m s) := by
      unfold reportLost
      dsimp only
      split
      · exact raiseAt_records ..
      · exact (raiseAt_records ..).trans (denEvent_records ..)
    exact ⟨r.chans, fun b => by simp only [State.holm, r.holms, and_self]⟩
  · split
    · exact ⟨rfl, waits _ fun _ => ⟨rfl, rfl⟩⟩
    · exact ⟨rfl, waits _ fun _ => ⟨rfl, rfl⟩⟩

/-- The state whose relay has given its first action away. -/
def relayTaken (src : Bank) (rest : List ActMsg) (s : State) : State := s.setHolm src (fun h => { h with relay := rest })

theorem relayTaken_relay (src : Bank) (rest : List ActMsg) (s : State) : ((relayTaken src rest s).holm src).relay = rest := by
  simp [relayTaken]

theorem relayTaken_keeps (src : Bank) (rest : List ActMsg) (s : State) (b : Bank) :
    ((relayTaken src rest s).holm b).bus = (s.holm b).bus ∧ (relayTaken src rest s).whole b = s.whole b := by
  unfold relayTaken State.whole
  by_cases e : b = src
  · subst e
    rw [State.setHolm_holm_self]
    exact ⟨rfl, rfl⟩
  · rw [State.setHolm_holm_ne _ _ _ _ e]
    exact ⟨rfl, rfl⟩

/-- What joins a Holm's bus leaves the relays and the other buses. -/
theorem joinBus_holm (b : Bank) (l : List ActMsg) (s : State) (e : Bank) :
    let t := s.setHolm b (fun h => { h with bus := h.bus ++ l })
    (t.holm e).bus = (if e = b then (s.holm e).bus ++ l else (s.holm e).bus) ∧ (t.holm e).relay = (s.holm e).relay := by
  intro t
  by_cases h : e = b
  · subst h
    simp [t]
  · simp [t, State.setHolm_holm_ne s b _ e h, h]

/-- An action whose links are whole goes to its target's bus (R32). -/
theorem relayOne_through (src : Bank) (m : ActMsg) (rest : List ActMsg) (s : State) (hr : (s.holm src).relay = m :: rest)
    (hv : s.sys.vddOk = true) (h : s.whole src = true ∧ s.whole (bankOf m.tgt) = true) :
    ((relayOne src s).holm src).relay = rest ∧ (relayOne src s).chans = s.chans ∧
      ((relayOne src s).holm (bankOf m.tgt)).bus = (s.holm (bankOf m.tgt)).bus ++ [m] := by
  have e : relayOne src s = (relayTaken src rest s).setHolm (bankOf m.tgt) (fun h => { h with bus := h.bus ++ [m] }) := by
    have hs := (relayTaken_keeps src rest s src).2.trans h.1
    have ht := (relayTaken_keeps src rest s (bankOf m.tgt)).2.trans h.2
    unfold relayOne
    simp only [hr]
    exact if_pos (by simpa [hv] using ⟨hs, ht⟩)
  have join := joinBus_holm (bankOf m.tgt) [m] (relayTaken src rest s)
  rw [e]
  refine ⟨(join src).2.trans (relayTaken_relay src rest s), rfl, (join _).1.trans ?_⟩
  rw [if_pos rfl, (relayTaken_keeps ..).1]

/-- An action whose links are not whole is reported as undelivered, behind what its channel has still to report (R33, Table 9 of
05_thresholds_dosing). -/
theorem relayOne_undelivered (src : Bank) (m : ActMsg) (rest : List ActMsg) (s : State) (hr : (s.holm src).relay = m :: rest)
    (h : ¬ (s.whole src = true ∧ s.whole (bankOf m.tgt) = true)) :
    relayOne src s = if (s.holm (bankOf m.src)).bus.any (·.src == m.src) then
        (relayTaken src rest s).setHolm (bankOf m.src) (fun h => { h with bus := h.bus ++ [{ m with note := some 5 }] })
      else undelivered m (relayTaken src rest s) := by
  have hn : ¬ (((relayTaken src rest s).whole src && (relayTaken src rest s).whole (bankOf m.tgt) &&
      (relayTaken src rest s).sys.vddOk) = true) := by
    simp only [(relayTaken_keeps ..).2, Bool.and_eq_true]
    exact fun ⟨w, _⟩ => h w
  unfold relayOne
  simp only [hr]
  refine (if_neg hn).trans ?_
  simp only [reportInOrder, ActMsg.report, if_true]
  rw [← (relayTaken_keeps src rest s (bankOf m.src)).1]
  rfl

/-- What an undelivered action leaves, and where its report waits. -/
theorem relayOne_reports (src : Bank) (m : ActMsg) (rest : List ActMsg) (s : State) (hr : (s.holm src).relay = m :: rest)
    (h : ¬ (s.whole src = true ∧ s.whole (bankOf m.tgt) = true)) :
    let t := relayOne src s
    (t.holm src).relay = rest ∧ t.chans = s.chans ∧
      ((∃ x ∈ (s.holm (bankOf m.src)).bus, x.src = m.src) →
        (t.holm (bankOf m.src)).bus = (s.holm (bankOf m.src)).bus ++ [{ m with note := some 5 }]) ∧
      ((∀ x ∈ (s.holm (bankOf m.src)).bus, x.src ≠ m.src) → ∀ b : Bank, (t.holm b).bus = (s.holm b).bus) := by
  intro t
  have relay := relayTaken_relay src rest s
  have bus (b : Bank) := (relayTaken_keeps src rest s b).1
  have ht := relayOne_undelivered src m rest s hr h
  by_cases ha : ∃ x ∈ (s.holm (bankOf m.src)).bus, x.src = m.src
  · rw [if_pos (by simpa using ha)] at ht
    have join := joinBus_holm (bankOf m.src) [{ m with note := some 5 }] (relayTaken src rest s)
    simp only [t, ht]
    refine ⟨(join src).2.trans relay, rfl, fun _ => ?_, fun hx => ?_⟩
    · rw [(join _).1, if_pos rfl, bus]
    · obtain ⟨x, hm, he⟩ := ha
      exact absurd he (hx x hm)
  · rw [if_neg (by simpa using ha)] at ht
    obtain ⟨chans, holm⟩ := undelivered_leaves m (relayTaken src rest s)
    simp only [t, ht]
    exact ⟨(holm src).2.trans relay, chans, fun hx => absurd hx ha, fun _ b => (holm b).1.trans (bus b)⟩

/-! ### Burrow -/

/-- The level of a Burrow pin that has stood for its debounce (R262). -/
theorem burLevel_held (was : Bool) (x : PinRead) (h : 50000 ≤ x.held) :
    burLevel was x = if 9000 ≤ x.mv then true else if x.mv ≤ 7500 then false else was := by
  rw [burLevel, if_pos h]
  rfl

theorem burLevel_unheld (was : Bool) (x : PinRead) (h : x.held < 50000) : burLevel was x = was := if_neg (by omega)

theorem releaseKept_holms (c : Ch) (s : State) : (releaseKept c s).holms = s.holms := by
  unfold releaseKept
  split <;> rfl

/-- The channels of a bank that level 2 takes while its BUR_EN is asserted (R262). -/
structure Mapped (b : Bank) (s : State) (c : Ch) : Prop where
  bank : bankOf c = b
  here : (s.holm b).mapHere = true
  output : (s.ch c).mode.isOutput = true
  unpaired : (s.ch c).paired = false
  entry : bit (s.ch c).bmap.bflags 7 = true
  unlocked : (s.ch c).locks.any = false
  whole : (s.ch c).inBreak = false

/-- After a change at the Burrow pins that leaves BUR_EN asserted, the mapped channels stand at level 2 (R262, R263). -/
theorem Mapped.burrowed {b : Bank} {s : State} {c : Ch} (h : Mapped b s c) (hup : (s.holm b).up = true)
    (hr : (s.holm b).restarted = false) (f : Holm → Holm)
    (hf : (f (s.holm b)).up = (s.holm b).up ∧ (f (s.holm b)).restarted = (s.holm b).restarted ∧
      (f (s.holm b)).mapHere = (s.holm b).mapHere) (hen : (f (s.holm b)).burEn = true) :
    (evalBank b (s.setHolm b f)).standing c = (2, (evalBank b (s.setHolm b f)).burDemand c) := by
  obtain ⟨fup, fres, fmap⟩ := hf
  refine evalBank_burrowed b (s.setHolm b f) c h.bank ?_ ?_ ?_ ?_ h.output h.unpaired h.entry h.unlocked h.whole
  all_goals rw [State.setHolm_holm_self]
  · exact fup.trans hup
  · exact fres.trans hr
  · exact hen
  · exact fmap.trans h.here

/-- BUR_EN rises for its debounce (R262). -/
theorem burEn_rises (b : Bank) (x : PinRead) (s : State) (hup : (s.holm b).up = true) (hr : (s.holm b).restarted = false)
    (hx : 50000 ≤ x.held) (hen : (s.holm b).burEn = false) (hmv : 9000 ≤ x.mv) :
    ((burEn b x s).holm b).burEn = true ∧
      ∀ c, Mapped b s c → (burEn b x s).standing c = (2, (burEn b x s).burDemand c) := by
  have hl : burLevel false x = true := by rw [burLevel_held _ x hx, if_pos hmv]
  have e : burEn b x s = notifyHolm b 6 1 0xFF 0 (some 2) (evalBank b (s.setHolm b (fun h => { h with burEn := true }))) := by
    unfold burEn
    simp [hl, hup, hen]
  rw [e, notifyHolm]
  constructor
  · rw [(notify_burrow ..).burEn, ((evalBank_outputs ..).burrow b).burEn, State.setHolm_holm_self]
  · intro c hc
    rw [standing_of_chans (notify_chans ..), notify_burDemand]
    exact hc.burrowed hup hr (fun h => { h with burEn := true }) ⟨rfl, rfl, rfl⟩ rfl

/-- BUR_EN is no longer asserted, and the channels that level 2 kept through a restart have the bank defaults (R268). -/
def burrowEnded (b : Bank) (s : State) : State :=
  overAll (bankChs b) releaseKept (s.setHolm b (fun h => { h with burEn := false }))

theorem burrowEnded_burEn (b : Bank) (s : State) : ((burrowEnded b s).holm b).burEn = false := by
  have k : (burrowEnded b s).holms = (s.setHolm b (fun h => { h with burEn := false })).holms :=
    overAll_keeps State.holms releaseKept_holms _
  simp only [State.holm, k]
  exact congrArg Holm.burEn (State.setHolm_holm_self s b (fun h => { h with burEn := false }))

/-- BUR_EN falls for its debounce (R262). -/
theorem burEn_falls (b : Bank) (x : PinRead) (s : State) (hup : (s.holm b).up = true)
    (hx : 50000 ≤ x.held) (hen : (s.holm b).burEn = true) (hmv : x.mv ≤ 7500) :
    ((burEn b x s).holm b).burEn = false ∧ ∀ c, bankOf c = b → ((burEn b x s).ch c).level ≠ 2 := by
  have hl : burLevel true x = false := by rw [burLevel_held _ x hx, if_neg (by omega), if_pos hmv]
  have e : burEn b x s = notifyHolm b 6 2 0xFF 0 (some 2) (evalBank b (burrowEnded b s)) := by
    unfold burEn
    simp [hl, hup, hen, burrowEnded]
  rw [e, notifyHolm]
  constructor
  · rw [(notify_burrow ..).burEn, ((evalBank_outputs ..).burrow b).burEn, burrowEnded_burEn]
  · intro c hc
    have k := congrArg Prod.fst (standing_of_chans (notify_chans b (holmSrc b 6) ([2, 0xFF] ++ le16 0) (some 2)
      (BitVec.ofNat 16 (0x0100 + b.val)) (evalBank b (burrowEnded b s))) c)
    exact fun h => evalBank_not_burrowed b _ c hc (burrowEnded_burEn b s) (k.symm.trans h)

theorem burEn_unheld (b : Bank) (x : PinRead) (s : State) (hx : x.held < 50000) : burEn b x s = s := by
  unfold burEn
  simp [burLevel_unheld _ x hx]

/-- A Burrow input that has stood for its debounce (R262, R263). -/
theorem burIn_spec (b : Bank) (k : Fin 4) (x : PinRead) (s : State) (hup : (s.holm b).up = true)
    (hr : (s.holm b).restarted = false) (hx : 50000 ≤ x.held) :
    ((burIn b k x s).holm b).burIn[k] = (if 9000 ≤ x.mv then true else if x.mv ≤ 7500 then false else (s.holm b).burIn[k]) ∧
      ((s.holm b).burEn = true → ∀ c, Mapped b s c → (burIn b k x s).standing c = (2, (burIn b k x s).burDemand c)) := by
  rw [burIn, if_pos hup]
  constructor
  · rw [((evalBank_outputs ..).burrow b).burIn, State.setHolm_holm_self, burLevel_held _ x hx]
    exact Vector.getElem_set_self ..
  · exact fun hen c hc => hc.burrowed hup hr
      (fun h => { h with burIn := h.burIn.set k.val (burLevel h.burIn[k] x) k.isLt }) ⟨rfl, rfl, rfl⟩ hen

/-! ### The seal -/

/-- A seal state that has not stood for 10 ms is not taken (R332). -/
theorem sealChange_unheld (x : PinHeld) (s : State) (h : x.held < 100000) : sealChange x s = s :=
  by
  have hn : ¬ msTicks 10 ≤ x.held := by simpa [msTicks] using h
  rw [sealChange, if_neg (by simp [hn])]

/-- The seal of the HY1624-PA is ignored (R3). -/
theorem sealChange_pa (x : PinHeld) (s : State) (h : s.sys.order = 2) : sealChange x s = s := if_neg (by simp [h])

theorem sealChange_taken (v : Bool) (n : Nat) (s : State) (hv : s.sys.vddOk = true) (hi : s.sys.vio = true) (hn : 100000 ≤ n)
    (ho : s.sys.order ≠ 2) : sealChange ⟨v, n⟩ s = takeSeal v s := by
  have hh : msTicks 10 ≤ n := by simpa [msTicks] using hn
  rw [sealChange, if_pos (by simpa [hv, hi, hh] using ho)]

theorem takeSeal_same (v : Bool) (s : State) (h : s.legal.sealRec = v) :
    takeSeal v s = { s with legal := { s.legal with sealed := v } } := if_pos (by simp [h])

/-- A seal state that differs from the one last recorded is recorded and counted while C7 serves (R332, R364). -/
theorem takeSeal_recorded (v : Bool) (s : State) (h : s.legal.sealRec ≠ v) (hc : s.coreDown 7 = false) :
    (takeSeal v s).legal = { s.legal with sealed := v, sealRec := v } ∧ (takeSeal v s).den.lec = s.den.lec + 1 ∧
      (takeSeal v s).latched 186 ∧ (takeSeal v s).chans = s.chans ∧ (takeSeal v s).holms = s.holms := by
  rw [takeSeal, if_neg (by simpa using h), setSeal]
  generalize [if v then (1 : Byte) else 0, 0, 0, 0] = content
  generalize hu : { s with legal := { s.legal with sealed := v, sealRec := v } } = u
  have r := (legalWrite_records 0x0008 2 content none true true u).trans (raise_records 186 [] _)
  subst hu
  refine ⟨r.legal, ?_, raise_latched 186 [] _ (by decide), r.chans, r.holms⟩
  rw [raise_den]
  exact legalWrite_lec 0x0008 2 content none true _ hc

/-- Settles O45: clause by clause, from what each operation of this page does. -/
theorem beaconsTsyncRelayBurrowAndSeal : Obligations.BeaconsTsyncRelayBurrowAndSeal := by
  unfold Obligations.BeaconsTsyncRelayBurrowAndSeal
  intro s hv
  refine ⟨?beacon, ?uncertain, ?edge, ?refused, ?relay, ?burrow, ?unheld, ?held⟩
  case beacon => exact fun b osc delayNs hw hu => ⟨_, rfl, timeBeacon_spec b ⟨osc, delayNs⟩ s hw hu hv⟩
  case uncertain => exact fun b hu ht hb => ⟨_, rfl, timeUncertain_spec b s hu ht hb⟩
  case edge =>
    intro ns hn hl hm
    have ha : Accepts ns s := ⟨hn, hl, hm⟩
    obtain ⟨event, capture, still⟩ := tsyncEdge_captures ns s hv ha
    refine ⟨_, rfl, event, capture, fun c => ?_, fun p => (still.wdDue p).symm, tsyncEdge_capture_only ns s hv ha,
      fun h2 ht => ?_⟩
    · exact ⟨congrArg Prod.snd (still.standing c), congrArg Prod.fst (still.standing c)⟩
    · obtain ⟨e, target⟩ := tsyncEdge_aligns ns s hv ha h2 ht
      refine ⟨target, ?_⟩
      have time := align_time s.sys.tsyncTarget.toNat (captured s)
      rw [← e] at time
      simpa only [captured_sys] using time
  case refused => exact fun ns h => congrArg Host.Outcome.next (tsyncEdge_refused ns s h)
  case relay =>
    intro src m rest hr through
    by_cases h : through
    · obtain ⟨relay, chans, bus⟩ := relayOne_through src m rest s hr hv h
      exact ⟨_, rfl, relay, chans, fun _ => bus, fun hn => absurd h hn, fun hn => absurd h hn⟩
    · obtain ⟨relay, chans, behind, none⟩ := relayOne_reports src m rest s hr h
      exact ⟨_, rfl, relay, chans, fun ht => absurd ht h, fun _ => behind, fun _ => none⟩
  case burrow =>
    intro b hup hr burrowed
    have standing {t : State} (h : ∀ c, Mapped b s c → t.standing c = (2, t.burDemand c)) (c : Ch) : burrowed t c :=
      fun hb hp hm hh he hl hk => Prod.mk.inj (h c ⟨hb, hh, hm, hp, he, hl, hk⟩)
    refine ⟨fun x hx => ⟨fun hen hmv => ?_, fun hen hmv => ⟨_, rfl, burEn_falls b x s hup hx hen hmv⟩, fun k => ?_⟩,
      fun x hx => congrArg Host.Outcome.next (burEn_unheld b x s hx)⟩
    · obtain ⟨on, level⟩ := burEn_rises b x s hup hr hx hen hmv
      exact ⟨_, rfl, on, standing level⟩
    · obtain ⟨pin, level⟩ := burIn_spec b k x s hup hr hx
      exact ⟨_, rfl, pin, fun hen => standing (level hen)⟩
  case unheld => exact fun x hx => congrArg Host.Outcome.next (sealChange_unheld x s hx)
  case held =>
    intro v n hi hn
    have taken (ho : s.sys.order ≠ 2) : exec (.seal ⟨v, n⟩) s = .next (takeSeal v s) :=
      congrArg Host.Outcome.next (sealChange_taken v n s hv hi hn ho)
    exact ⟨fun ho h => (taken ho).trans (congrArg Host.Outcome.next (takeSeal_same v s h)),
      fun ho h hc => ⟨_, taken ho, takeSeal_recorded v s h hc⟩,
      fun ho => congrArg Host.Outcome.next (sealChange_pa ⟨v, n⟩ s ho)⟩

end Sys2Proof.Machine
end

section
/-! PROOFS. Device time (R22, R26, R27): which functions that move the anchor move device time, and where to. -/

namespace Sys2Proof.Machine

theorem now_of_anchor_eq {t : State} {a : Anchor} (h : t.anchor = a) : t.sys.now = a.now := (congrArg Anchor.now h :)

theorem now_of_anchor {s t : State} (h : t.anchor = s.anchor) : t.sys.now = s.sys.now := now_of_anchor_eq h

theorem takeSeal_now (v : Bool) (s : State) : (takeSeal v s).sys.now = s.sys.now := by
  unfold takeSeal
  split
  · rfl
  · exact now_of_anchor (s := { s with legal := { s.legal with sealed := v, sealRec := v } }) (by simp [setSeal])

theorem compareSeal_now (v : Bool) (s : State) : (compareSeal v s).sys.now = s.sys.now := by
  unfold compareSeal
  split
  · rfl
  · exact takeSeal_now v s

theorem sealChange_now (x : PinHeld) (s : State) : (sealChange x s).sys.now = s.sys.now := by
  unfold sealChange
  split
  · exact takeSeal_now _ s
  · rfl

theorem lglDeclare_now (r : Req) (s : State) : (lglDeclare r s).state.sys.now = s.sys.now := by
  unfold lglDeclare checked
  dsimp only
  split
  · rfl
  · rcases legalChange_ok_anchor 0x0E02 r true (declareNow r.port (word16 r.payload 0)) s with h | ⟨u, hu, h⟩
    · exact now_of_anchor h
    · rw [declareNow_anchor, hu] at h
      exact now_of_anchor_eq h

theorem runMail_now (op : BitVec 16) (r : Req) (s : State) (body : State → Res)
    (h : ∀ u, (body u).state.sys.now = u.sys.now) : (runMail op r s body).sys.now = s.sys.now := by
  unfold runMail
  split
  · split
    · exact now_of_anchor (finishHere_anchor ..)
    · split
      · exact now_of_anchor (sendUnheard_anchor ..)
      · exact (now_of_anchor (Res.ends_anchor ..)).trans ((h _).trans (now_of_anchor (setSlot_anchor ..)))
  · rfl

/-- Alignment steps device time forward or leaves it (Table 7 of 01_architecture). -/
theorem align_now_le (target now : Nat) (s : State) : s.sys.now ≤ (align target now s).sys.now := by
  unfold align
  dsimp only
  split
  · exact le_rfl
  · split
    · exact Nat.le_add_right ..
    · split
      · exact (now_of_anchor (raise_anchor ..)).ge
      · exact le_rfl

theorem tsyncEdge_now_le (ns : Nat) (s : State) : s.sys.now ≤ (tsyncEdge ns s).sys.now := by
  unfold tsyncEdge
  extract_lets y late tgt s1 s2
  have h : s2.sys.now = s.sys.now := now_of_anchor (by simp [s2, s1])
  split
  · exact le_rfl
  · split
    · exact h.ge.trans (align_now_le ..)
    · exact h.ge

/-! ### Starts -/

theorem coldPlant_now (held : Bool) (f : ColdFacts) (powered : Bool) (now : Nat) (s : State) :
    (coldPlant held f powered now s).sys.now = now := now_of_anchor_eq (coldPlant_anchor ..)

theorem coldBegin_now (f : ColdFacts) (s : State) : (coldBegin f s).sys.now = 0 := by
  rw [coldBegin, coldPlant_now]

theorem coldRecords_now (f : ColdFacts) (cause : BitVec 8) (s : State) : (coldRecords f cause s).sys.now = s.sys.now := by
  unfold coldRecords
  extract_lets spent s1 s2 s3
  have h1 : s1.anchor = s.anchor := by simp [s1]
  have h2 : s2.anchor = s.anchor := by simp [s2, h1]
  calc (checkLegact (compareSeal f.lseal (loadSequencers allCh s3))).sys.now
      = (loadSequencers allCh s3).sys.now := (now_of_anchor (checkLegact_anchor _)).trans (compareSeal_now ..)
    _ = s2.sys.now := now_of_anchor (loadSequencers_anchor ..)
    _ = s.sys.now := now_of_anchor h2

theorem coldNow_now (f : ColdFacts) (cause : BitVec 8) (s : State) : (coldNow f cause s).sys.now = 0 := by
  unfold coldNow
  extract_lets was tunc told cause' s1 s2
  have h : (coldRecords f cause' (coldBegin f s)).sys.now = 0 := (coldRecords_now ..).trans (coldBegin_now f s)
  exact (now_of_anchor (by simp [s2, s1])).trans h

theorem cutStart_now (k : BitVec 8) (f : ColdFacts) (cause : BitVec 8) (s : State) : (cutStart k f cause s).sys.now = 0 := by
  unfold cutStart
  extract_lets t
  have h : t.sys.now = 0 := (now_of_anchor (linksBack_anchor ..)).trans (coldBegin_now f s)
  refine (now_of_anchor (powerFail_anchor _)).trans ?_
  split
  · exact (coldRecords_now ..).trans h
  · exact h

/-- Where device time stands after a start of a kind has begun: at 0 after a cold start, else where it stood (R22). -/
theorem beginStart_now (k : StartKind) (f : ColdFacts) (s : State) :
    (beginStart k f s).sys.now = if k = .cold then 0 else s.sys.now := by
  cases k with
  | cold => exact coldBegin_now f s
  | warm => exact now_of_anchor (by simp [beginStart])
  | recovery => exact coldPlant_now ..

theorem startFails_now (k : StartKind) (n : BitVec 8) (f : ColdFacts) (s : State) :
    (startFails k n f s).sys.now = if k = .cold then 0 else s.sys.now := by
  unfold startFails
  extract_lets t u
  have h : u.anchor = t.anchor := by simp [u]
  calc _ = u.sys.now := now_of_anchor (by simp)
    _ = t.sys.now := now_of_anchor h
    _ = _ := beginStart_now k f s

theorem warmStart_now (b : Bool) (s : State) : (warmStart b s).sys.now = s.sys.now := by
  unfold warmStart
  split
  · split
    · rfl
    · extract_lets t u
      have h : t.anchor = s.anchor := by simp [t]
      split
      · exact (startFails_now .warm 4 (keptFacts s) t).trans (now_of_anchor h)
      · exact now_of_anchor (by split <;> simp [h])
  · rfl

theorem coldRun_now (f : ColdFacts) (cause : BitVec 8) (s : State) : (coldRun f cause s).sys.now = 0 := by
  unfold coldRun
  dsimp only
  split
  · split
    · exact cutStart_now ..
    · exact startFails_now .cold ..
  · split
    · exact coldNow_now ..
    · exact startFails_now .cold ..

theorem coldStart_now (f : ColdFacts) (s : State) : (coldStart f s).sys.now = s.sys.now ∨ (coldStart f s).sys.now = 0 := by
  unfold coldStart
  split
  · split
    · exact .inr (coldRun_now ..)
    · exact .inl rfl
  · split
    · exact .inr (coldRun_now ..)
    · exact .inl rfl

theorem failedStart_now (x : FailedStart) (s : State) :
    (failedStart x s).sys.now = s.sys.now ∨ (failedStart x s).sys.now = 0 := by
  have fails (k : StartKind) : (startFails k x.step x.facts s).sys.now = s.sys.now ∨ (startFails k x.step x.facts s).sys.now = 0 := by
    rw [startFails_now]
    split
    · exact .inr rfl
    · exact .inl rfl
  unfold failedStart
  split
  · split
    · exact fails .cold
    · exact .inl rfl
  · split
    · exact fails _
    · exact .inl rfl

theorem tick_now_le (s : State) : s.sys.now ≤ (tick s).sys.now := by
  rw [now_of_anchor_eq (tick_anchor s), Sys.tick]
  dsimp only
  split
  · exact Nat.le_add_right ..
  · exact Nat.le_succ _

/-- A command leaves device time where it is or moves it on; a cold start and a failed one may set it to 0. -/
theorem exec_now (c : Instr) (s t : State) (h : exec c s = .next t) :
    s.sys.now ≤ t.sys.now ∨ t.sys.now = 0 ∧ ((∃ f, c = .coldStart f) ∨ ∃ x, c = .failedStart x) := by
  cases hc : movesAnchor c with
  | false => exact .inl (now_of_anchor (exec_anchor c s t hc h)).ge
  | true =>
    cases c
    -- leaves the commands that `movesAnchor` names
    all_goals cases hc
    all_goals obtain rfl := Host.Outcome.next.inj h
    case lglDeclare.refl r => exact .inl (runMail_now _ r s _ (lglDeclare_now r)).ge
    case tsyncEdge.refl n => exact .inl (tsyncEdge_now_le n s)
    case warmStart.refl b => exact .inl (warmStart_now b s).ge
    case coldStart.refl f => exact (coldStart_now f s).imp Eq.ge (⟨·, .inl ⟨f, rfl⟩⟩)
    case failedStart.refl x => exact (failedStart_now x s).imp Eq.ge (⟨·, .inr ⟨x, rfl⟩⟩)
    case seal.refl x => exact .inl (sealChange_now x s).ge

/-- Settles O60: on the empty queue the tick, else the front command. -/
theorem deviceTimeNeverRunsBackExceptAtAColdStart : Obligations.DeviceTimeNeverRunsBackExceptAtAColdStart := by
  intro s t h
  unfold step at h
  split at h
  · obtain rfl := Host.Outcome.next.inj h
    exact .inl (tick_now_le s)
  · next c rest hq =>
    have front (d : Instr) (e : c = d) : s.pending.head? = some d := by rw [hq, e]; rfl
    obtain le | ⟨zero, ⟨f, e⟩ | ⟨x, e⟩⟩ := exec_now c { s with pending := rest } t h
    · exact .inl le
    · exact .inr ⟨zero, .inl ⟨f, front _ e⟩⟩
    · exact .inr ⟨zero, .inr ⟨x, front _ e⟩⟩

end Sys2Proof.Machine
end

section
/-! PROOFS. One tick (log entry 1): what it makes of the clocks, that nothing goes on by itself where nothing waits, and what it makes of
the nIRQ pads. -/

namespace Sys2Proof.Machine

/-! ### The clocks -/

/-- Device time and the slew of R26 move against each other, besides the tick itself (Table 7 of 01_architecture). -/
theorem slewStep_spec (raw : Nat) (slew : Int) :
    (slewStep raw slew).1 ≤ 2 ∧ ((slewStep raw slew).1 : Int) = 1 + (slew - (slewStep raw slew).2) ∧
      (slewStep raw slew).2.natAbs ≤ slew.natAbs ∧ (slew = 0 ∨ raw % 1000 ≠ 999 → slewStep raw slew = (1, slew)) := by
  unfold slewStep
  split
  · next hr =>
    split
    · exact ⟨by simp, by simp, by dsimp only; omega, by omega⟩
    · split
      · exact ⟨by simp, by simp, by dsimp only; omega, by omega⟩
      · exact ⟨by simp, by simp, by simp, fun _ => rfl⟩
  · exact ⟨by simp, by simp, by simp, fun _ => rfl⟩

/-- A tick of the clocks writes four fields of the system state. -/
theorem Sys.tick_frame (y : Sys) :
    y.tick = { y with now := y.tick.now, slew := y.tick.slew, raw := y.raw + 1, sramFixed := y.tick.sramFixed } := by
  unfold Sys.tick
  dsimp only
  split <;> rfl

theorem Sys.tick_sramFixed (y : Sys) : y.tick.sramFixed = y.sramFixed ∨ y.tick.sramFixed = y.sramFixed + 1 := by
  have h : y.tick.sramFixed = if Config.singleBitError y.raw then y.sramFixed + 1 else y.sramFixed := by
    unfold Sys.tick
    dsimp only
    split <;> rfl
  rw [h]
  split
  · exact .inr rfl
  · exact .inl rfl

theorem Sys.tick_unpowered (y : Sys) (h : y.vddOk = false) : y.tick.now = y.now + 1 ∧ y.tick.slew = y.slew := by
  simp [Sys.tick, h]

theorem Sys.tick_powered (y : Sys) (h : y.vddOk = true) :
    y.tick.now = y.now + (slewStep y.raw y.slew).1 ∧ y.tick.slew = (slewStep y.raw y.slew).2 := by
  simp [Sys.tick, h]

theorem tickClocks_holm (s : State) (b : Bank) : (tickClocks s).holm b = (s.holm b).tick s.sys.raw := by
  simp [tickClocks, State.holm]

/-- A tick of the clocks moves nothing of a Holm but its slave copy. -/
theorem Holm.tick_besides_slave (raw : Nat) (h : Holm) : { h.tick raw with slave := h.slave } = h := by
  unfold Holm.tick
  split <;> rfl

theorem tickClocks_tbWaits (s : State) (b : Bank) : (tickClocks s).tbWaits b = s.tbWaits b := by
  have h : ((tickClocks s).holm b).tbs = (s.holm b).tbs := by
    rw [tickClocks_holm]
    exact (congrArg Holm.tbs (Holm.tick_besides_slave s.sys.raw (s.holm b)) :)
  simp only [State.tbWaits, h]
  rfl

theorem tickClocks_irqCondition (s : State) (p : Port) : (tickClocks s).irqCondition p = s.irqCondition p := by
  have h (c : Ch) : (tickClocks s).burrowOn c = s.burrowOn c := by
    have k := Holm.tick_besides_slave s.sys.raw (s.holm (bankOf c))
    have up := congrArg Holm.up k
    have en := congrArg Holm.burEn k
    have here := congrArg Holm.mapHere k
    simp only at up en here
    rw [burrowOn_eq, burrowOn_eq, tickClocks_holm, up, en, here]
    rfl
  simp only [State.irqCondition, State.saf, h]
  rfl

/-! ### Where nothing waits -/

theorem overAll_eq_self {α : Type} {l : List α} {f : α → State → State} {s : State} (h : ∀ a, f a s = s) : overAll l f s = s := by
  unfold overAll
  induction l with
  | nil => rfl
  | cons a l ih => rw [List.foldl_cons, h a, ih]

theorem modeTick_of_none {c : Ch} {s : State} (h : (s.ch c).changing = none) : modeTick c s = s := by
  unfold modeTick
  rw [h]

theorem measTick_of_none {c : Ch} {s : State} (h : (s.ch c).brg.next = none) : measTick c s = s := by
  unfold measTick
  rw [h]

theorem tbTick_of_not_waiting {b : Bank} {s : State} (h : s.tbWaits b = false) : tbTick b s = s := by simp [tbTick, h]

theorem bootTick_of_none {s : State} (h : s.upd.work = none) : bootTick s = s := by
  unfold bootTick
  rw [h]

theorem internalTick_of_none {s : State} (h : ∀ o ∈ s.sys.internal.take 32, o.transfer = false) : internalTick s = s := by
  have none : (s.sys.internal.take 32).find? IntOp.transfer = none := List.find?_eq_none.mpr fun o ho => by simp [h o ho]
  simp [internalTick, none]

/-! ### The nIRQ pads -/

/-- One tick of every nIRQ pad (R289). -/
def irqTicks (s : State) : State := overAll allPorts (fun p s => s.setPort p (PortSt.irqTick (s.irqCondition p))) s

/-- Each pad's condition is that of the state before: it looks at its own port, the channels and the Holms. -/
theorem irqTicks_port (s : State) (p : Port) : (irqTicks s).port p = (s.port p).irqTick (s.irqCondition p) := by
  have other {q r : Port} (f : PortSt → PortSt) (u : State) (h : r ≠ q) : (u.setPort q f).irqCondition r = u.irqCondition r := by
    simp only [State.irqCondition, State.setPort_port_ne u q f r h]
    rfl
  fin_cases p <;> simp [irqTicks, overAll, allPorts, State.setPort_port_ne, other]

/-- A port without what a tick of its pad writes. -/
abbrev PortSt.besidesIrq (q : PortSt) : PortSt := { q with irqWas := false, irqLow := 0, irqGap := 0 }

theorem PortSt.irqTick_besides (cond : Bool) (q : PortSt) : (q.irqTick cond).besidesIrq = q.besidesIrq := by
  unfold irqTick
  dsimp only
  split <;> rfl

/-- In pulse mode a pulse goes on, or begins with a condition that has risen long enough after the last (R289). -/
theorem PortSt.irqTick_pulse (cond : Bool) (q : PortSt) (h : bit q.irqcfg 7 = true) (hr : q.rdy = true) :
    (q.irqTick cond).irqLow = if 0 < q.irqLow then q.irqLow - 1
      else if cond = true ∧ q.irqWas = false ∧ q.irqGap = 0 then 10 else 0 := by
  unfold irqTick
  simp only [h, hr, Bool.and_true, Bool.true_and, if_true]
  by_cases low : 0 < q.irqLow
  · rw [if_neg (by simp; omega), if_pos low]
  · have zero : q.irqLow = 0 := by omega
    rw [if_neg low]
    by_cases rises : cond = true ∧ q.irqWas = false ∧ q.irqGap = 0
    · rw [if_pos (by simp [rises, zero]), if_pos rises]
    · rw [if_neg (by simpa [zero, and_assoc] using rises), if_neg rises]
      simp [zero]

theorem PortSt.irqTick_level (cond : Bool) (q : PortSt) (h : bit q.irqcfg 7 = false) : (q.irqTick cond).irqLow = 0 := by
  simp [irqTick, h]

/-! ### The tick -/

/-- Where no mode change, measurement word or timebase waits, the boot record and the internal operations alone go on beside the
clocks and the pads. -/
theorem tick_eq (s : State) (hc : ∀ c, (s.ch c).changing = none ∧ (s.ch c).brg.next = none) (hb : ∀ b, s.tbWaits b = false) :
    tick s = irqTicks (internalTick (bootTick (tickClocks s))) := by
  have modes : overAll allCh (fun c s => measTick c (modeTick c s)) (tickClocks s) = tickClocks s :=
    overAll_eq_self fun c => by rw [modeTick_of_none (s := tickClocks s) (hc c).1, measTick_of_none (s := tickClocks s) (hc c).2]
  have bases : overAll [(0 : Bank), 1] tbTick (tickClocks s) = tickClocks s :=
    overAll_eq_self fun b => tbTick_of_not_waiting ((tickClocks_tbWaits s b).trans (hb b))
  rw [tick, tickEffects, modes, bases]
  rfl

/-- A tick of an idle device (R22, R23, R26, R289). -/
theorem tick_idle (s : State) (hc : ∀ c, (s.ch c).changing = none ∧ (s.ch c).brg.next = none) (hb : ∀ b, s.tbWaits b = false)
    (hi : s.idleInside) : tick s = irqTicks (tickClocks s) := by
  obtain ⟨work, inside⟩ := hi
  have h : (tickClocks s).sys.internal = s.sys.internal := (congrArg Sys.internal (Sys.tick_frame s.sys) :)
  rw [tick_eq s hc hb, bootTick_of_none (s := tickClocks s) work, internalTick_of_none (h ▸ inside)]

/-- Settles O2: the tick of an idle device field by field, and one stage of the boot record's change beside it. -/
theorem idleStepIsOneTick : Obligations.IdleStepIsOneTick := by
  intro s hq
  refine ⟨tick s, by simp [step, hq], fun hc hb hi => ?_, ?_⟩
  · rw [tick_idle s hc hb hi]
    refine ⟨rfl, Sys.tick_frame s.sys, Sys.tick_sramFixed s.sys, Sys.tick_unpowered s.sys, fun hv => ?_, fun b => ?_, fun p => ?_⟩
    · obtain ⟨step, moves, natAbs, still⟩ := slewStep_spec s.sys.raw s.sys.slew
      obtain ⟨now, slew⟩ := Sys.tick_powered s.sys hv
      show s.sys.now ≤ s.sys.tick.now ∧ s.sys.tick.now ≤ s.sys.now + 2 ∧ (_ → s.sys.tick.now = _ ∧ s.sys.tick.slew = _) ∧
        (s.sys.tick.now : Int) - _ = 1 + (_ - s.sys.tick.slew) ∧ s.sys.tick.slew.natAbs ≤ _
      rw [now, slew]
      exact ⟨by omega, by omega, fun h => by simp [still h], by omega, natAbs⟩
    · exact tickClocks_holm s b
    · rw [irqTicks_port, tickClocks_irqCondition]
      exact ⟨PortSt.irqTick_besides .., PortSt.irqTick_pulse _ _, PortSt.irqTick_level _ _⟩
  · intro hc hb _ u inside
    rw [tick_eq s hc hb, internalTick_of_none inside]
    exact ⟨rfl, fun p => by rw [irqTicks_port]; exact PortSt.irqTick_besides ..⟩

end Sys2Proof.Machine
end

section
/-! PROOFS. What an evaluation of the Badger keeps with everything that it sets off (R226): Mainland's power, time and failed
engines, pending events, the lanes of the links, what waits in a Holm that is heard, what has completed, the canonical MRAM. One
lemma for each function, said of every relation that follows from it. -/

namespace Sys2Proof.Machine

/-- The MRAM is in canonical form (R10, R12). -/
def State.canonical (s : State) : Prop := Memory.wf s.mram = true

/-- Pending sources of events stay pending, and EVMASK, RDY and an expired watchdog stand (R255, R280, R288). -/
structure PortStays (q r : PortSt) : Prop where
  evmask : r.evmask = q.evmask
  rdy : r.rdy = q.rdy
  wdExpired : r.wdExpired = q.wdExpired
  pending : ∀ k, bit q.evpend k = true → bit r.evpend k = true

/-- Lanes and beacons of a Holm's link stand, and so does what waits in it while the Holm is heard and hears (R29, R30, R245). -/
structure LinkStays (heard : Bool) (h k : Holm) : Prop where
  link : k.link = h.link
  deaf : k.deaf = h.deaf
  restarted : k.restarted = h.restarted
  beacons : k.beacons = h.beacons
  held : heard = true → k.held = h.held
  notices : heard = true → k.notices = h.notices

/-- Mainland is powered and both lanes of a Holm's link deliver frames. -/
def State.heard (s : State) (b : Bank) : Bool := s.whole b && s.sys.vddOk

/-- What evaluations keep. -/
structure Calm (s t : State) : Prop where
  vddOk : t.sys.vddOk = s.sys.vddOk
  raw : t.sys.raw = s.sys.raw
  failedEngines : t.sys.failedEngines = s.sys.failedEngines
  port : ∀ p : Port, PortStays (s.port p) (t.port p)
  holm : ∀ b : Bank, LinkStays (s.heard b) (s.holm b) (t.holm b)
  completions : ∀ x ∈ s.completions, x ∈ t.completions
  canonical : s.canonical → t.canonical

theorem PortStays.refl (q : PortSt) : PortStays q q := ⟨rfl, rfl, rfl, fun _ => id⟩

theorem PortStays.trans {q r x : PortSt} (a : PortStays q r) (b : PortStays r x) : PortStays q x :=
  ⟨b.evmask.trans a.evmask, b.rdy.trans a.rdy, b.wdExpired.trans a.wdExpired, fun k h => b.pending k (a.pending k h)⟩

theorem EventsOnly.stay {q r : PortSt} (h : EventsOnly q r) : PortStays q r :=
  ⟨h.evmask, (congrArg PortSt.rdy h.besides :), (congrArg PortSt.wdExpired h.besides :), h.pending⟩

theorem LinkStays.refl (heard : Bool) (h : Holm) : LinkStays heard h h := ⟨rfl, rfl, rfl, rfl, fun _ => rfl, fun _ => rfl⟩

theorem LinkStays.trans {heard : Bool} {h k x : Holm} (a : LinkStays heard h k) (b : LinkStays heard k x) :
    LinkStays heard h x :=
  ⟨b.link.trans a.link, b.deaf.trans a.deaf, b.restarted.trans a.restarted, b.beacons.trans a.beacons,
   fun e => (b.held e).trans (a.held e), fun e => (b.notices e).trans (a.notices e)⟩

theorem Calm.heard {s t : State} (h : Calm s t) (b : Bank) : t.heard b = s.heard b := by
  simp only [State.heard, State.whole, (h.holm b).link, (h.holm b).deaf, h.vddOk]

theorem Calm.refl (s : State) : Calm s s :=
  ⟨rfl, rfl, rfl, fun _ => .refl _, fun _ => .refl _ _, fun _ => id, id⟩

theorem Calm.trans {s t u : State} (a : Calm s t) (b : Calm t u) : Calm s u :=
  ⟨b.vddOk.trans a.vddOk, b.raw.trans a.raw, b.failedEngines.trans a.failedEngines,
   fun p => (a.port p).trans (b.port p), fun e => (a.holm e).trans (a.heard e ▸ b.holm e),
   fun x h => b.completions x (a.completions x h), fun h => b.canonical (a.canonical h)⟩

theorem Calm.latched {s t : State} (h : Calm s t) {k : Nat} (hk : s.latched k) : t.latched k :=
  fun p hm => (h.port p).pending k (hk p ((h.port p).evmask ▸ hm))

/-- A reflexive and transitive relation between states that everything calm keeps. -/
structure Frame where
  rel : State → State → Prop
  refl : ∀ s, rel s s
  trans : ∀ {s t u}, rel s t → rel t u → rel s u
  calm : ∀ {s t}, Calm s t → rel s t

/-- The relation itself, whatever state comes first; no rule of `simp` looks into it. -/
def Frame.chance (F : Frame) (s t : State) : Prop := F.rel s t

/-- t stands to every earlier state as s does: an equivalence, so that `simp` goes back from the result of a function to the state
before it without a side condition, through any number of functions and under binders. -/
abbrev Frame.Stays (F : Frame) (s t : State) : Prop := ∀ s₀, F.rel s₀ t ↔ F.rel s₀ s ∨ F.chance s₀ t

theorem Frame.Stays.intro {F : Frame} {s t : State} (h : F.rel s t) : F.Stays s t :=
  fun _ => ⟨.inr, fun k => k.elim (fun a => F.trans a h) id⟩

theorem Frame.keeps (F : Frame) {s t : State} (k : F.rel s t ↔ F.rel s s ∨ F.chance s t) : F.rel s t := k.mpr (.inl (F.refl s))

theorem Calm.stays {F : Frame} {s t : State} (h : Calm s t) : F.Stays s t := .intro (F.calm h)

@[simp] theorem Frame.rel_refl (F : Frame) (s : State) : F.rel s s := F.refl s

/-- The relation of calm itself. -/
def calm : Frame := ⟨Calm, Calm.refl, Calm.trans, id⟩

/-- A second state that is canonical where the first is. -/
def memory : Frame := ⟨fun s t => s.canonical → t.canonical, fun _ => id, fun a b h => b (a h), Calm.canonical⟩

section
variable (F : Frame)

/-! ### What stays: updates of the state, loops and branches -/

/-- A record update that writes neither the system state, the ports, the Holms, what has completed nor the MRAM. -/
@[simp] theorem State.stays_mk (s : State) (chans badger den crc upd sec legal pending) :
    F.Stays s ⟨s.sys, chans, s.holms, s.ports, s.completions, badger, den, crc, upd, sec, legal, s.mram, pending⟩ :=
  Calm.stays ⟨rfl, rfl, rfl, fun _ => .refl _, fun _ => .refl _ _, fun _ => id, id⟩

/-- A record update that has operations complete. -/
@[simp] theorem State.stays_mk_completions (s : State) (l : List Completion) (chans badger den crc upd sec legal pending) :
    F.Stays s ⟨s.sys, chans, s.holms, s.ports, s.completions ++ l, badger, den, crc, upd, sec, legal, s.mram, pending⟩ :=
  Calm.stays ⟨rfl, rfl, rfl, fun _ => .refl _, fun _ => .refl _ _, fun _ => List.mem_append_left l, id⟩

/-- A record update that stores bytes in the MRAM. -/
@[simp] theorem State.stays_mk_store (s : State) (a l chans badger den crc upd sec legal pending) :
    F.Stays s ⟨s.sys, chans, s.holms, s.ports, s.completions, badger, den, crc, upd, sec, legal, mramStore s.mram a l,
      pending⟩ :=
  Calm.stays ⟨rfl, rfl, rfl, fun _ => .refl _, fun _ => .refl _ _, fun _ => id, mramStore_wf⟩

@[simp] theorem State.setCh_stays (s : State) (c f) : F.Stays s (s.setCh c f) := State.stays_mk F s _ _ _ _ _ _ _ _
@[simp] theorem State.setUnit_stays (s : State) (u f) : F.Stays s (s.setUnit u f) := State.stays_mk F s _ _ _ _ _ _ _ _
@[simp] theorem State.setBadger_stays (s : State) (f) : F.Stays s (s.setBadger f) := State.stays_mk F s _ _ _ _ _ _ _ _
@[simp] theorem State.setDen_stays (s : State) (f) : F.Stays s (s.setDen f) := State.stays_mk F s _ _ _ _ _ _ _ _
@[simp] theorem State.setUpd_stays (s : State) (f) : F.Stays s (s.setUpd f) := State.stays_mk F s _ _ _ _ _ _ _ _

/-- An update of the system state that leaves power, time and failed engines alone. -/
@[simp] theorem State.setSys_stays (s : State) (f : Sys → Sys) (hv : ∀ y, (f y).vddOk = y.vddOk) (hr : ∀ y, (f y).raw = y.raw)
    (he : ∀ y, (f y).failedEngines = y.failedEngines) : F.Stays s (s.setSys f) :=
  Calm.stays ⟨hv _, hr _, he _, fun _ => .refl _, fun b => by simpa using .refl _ _, fun _ => id, id⟩

theorem Calm.setPort {s : State} {p : Port} {f : PortSt → PortSt} (h : PortStays (s.port p) (f (s.port p))) :
    Calm s (s.setPort p f) := by
  refine ⟨rfl, rfl, rfl, fun d => ?_, fun _ => .refl _ _, fun _ => id, id⟩
  by_cases e : d = p
  · subst e
    rwa [State.setPort_port_self]
  · rw [State.setPort_port_ne s p f d e]
    exact .refl _

/-- An update of a port that leaves its events, RDY and watchdog alone. -/
@[simp] theorem State.setPort_stays (s : State) (p : Port) (f : PortSt → PortSt) (hm : ∀ q, (f q).evmask = q.evmask)
    (hr : ∀ q, (f q).rdy = q.rdy) (hw : ∀ q, (f q).wdExpired = q.wdExpired) (hp : ∀ q, (f q).evpend = q.evpend) :
    F.Stays s (s.setPort p f) := (Calm.setPort ⟨hm _, hr _, hw _, fun k h => by rwa [hp]⟩).stays

@[simp] theorem setSlot_stays (p r f s) : F.Stays s (setSlot p r f s) :=
  State.setPort_stays F s p _ (fun _ => rfl) (fun _ => rfl) (fun _ => rfl) (fun _ => rfl)

theorem Calm.setHolm {s : State} {b : Bank} {f : Holm → Holm} (h : LinkStays (s.heard b) (s.holm b) (f (s.holm b))) :
    Calm s (s.setHolm b f) := by
  refine ⟨rfl, rfl, rfl, fun _ => .refl _, fun d => ?_, fun _ => id, id⟩
  by_cases e : d = b
  · subst e
    rwa [State.setHolm_holm_self]
  · rw [State.setHolm_holm_ne s b f d e]
    exact .refl _ _

/-- An update of a Holm that leaves its link and what waits for it alone. -/
@[simp] theorem State.setHolm_stays (s : State) (b : Bank) (f : Holm → Holm) (hl : ∀ h, (f h).link = h.link)
    (hd : ∀ h, (f h).deaf = h.deaf) (hr : ∀ h, (f h).restarted = h.restarted) (hb : ∀ h, (f h).beacons = h.beacons)
    (hh : ∀ h, (f h).held = h.held) (hn : ∀ h, (f h).notices = h.notices) : F.Stays s (s.setHolm b f) :=
  (Calm.setHolm ⟨hl _, hd _, hr _, hb _, fun _ => hh _, fun _ => hn _⟩).stays

@[simp] theorem overAll_stays {α : Type} (l : List α) (f : α → State → State) (s : State) (h : ∀ a u, F.rel u (f a u)) :
    F.Stays s (overAll l f s) := by
  refine .intro ?_
  unfold overAll
  induction l generalizing s with
  | nil => exact F.refl s
  | cons a l ih => exact F.trans (h a s) (ih _)

@[simp] theorem ite_stays (p : Prop) {_ : Decidable p} (s₀ s t : State) :
    F.rel s₀ (if p then s else t) ↔ if p then F.rel s₀ s else F.rel s₀ t := by split <;> rfl

@[simp] theorem checked_stays (l) (s : State) (k : Res) (h : F.rel s k.state) : F.Stays s (checked l s k).state := by
  refine .intro ?_
  unfold checked
  split
  · exact F.refl s
  · exact h

/-! ### What stays: raising events, records of the Den, completions and the outputs -/

theorem RecordsOnly.calm {s t : State} (h : RecordsOnly s t) (hp : ∀ p, PortStays (s.port p) (t.port p)) : Calm s t where
  vddOk := by rw [h.sys]
  raw := by rw [h.sys]
  failedEngines := by rw [h.sys]
  port := hp
  holm b := by simpa [State.holm, h.holms] using .refl _ _
  completions _ := by rw [h.completions]; exact id
  canonical := h.wf

@[simp] theorem raiseAt_stays (src payload ts s) : F.Stays s (raiseAt src payload ts s) :=
  ((raiseAt_records ..).calm fun p =>
    ((raiseOnce_events src payload ts s p).trans (overAll_events (fun q s => noteDrop_events q s p) _)).stay).stays

@[simp] theorem raise_stays (src payload s) : F.Stays s (raise src payload s) := raiseAt_stays F src payload _ s

@[simp] theorem noteDrop_stays (p s) : F.Stays s (noteDrop p s) :=
  ((noteDrop_records p s).calm fun q => (noteDrop_events p s q).stay).stays

@[simp] theorem arise_stays (o s) : F.Stays s (arise o s) := .intro (by simp [arise])
@[simp] theorem endInternal_stays (o s) : F.Stays s (endInternal o s) := .intro (by simp [endInternal])

@[simp] theorem noteEdge_stays (b t switchOn s) : F.Stays s (noteEdge b t switchOn s) :=
  State.setHolm_stays F s b _ (fun _ => rfl) (fun _ => rfl) (fun _ => rfl) (fun _ => rfl) (fun _ => rfl) (fun _ => rfl)

@[simp] theorem assertFault_stays (s) : F.Stays s (assertFault s) := .intro (by simp [assertFault])
@[simp] theorem State.draw_stays (s) : F.Stays s (State.draw s).2 := .intro (by simp [State.draw])

/-- The Den's buffer is written to the MRAM. -/
@[simp] theorem State.stays_mk_flushed (s : State) (den) :
    F.Stays s { s with den := den, mram := (flushAll s).mram } :=
  Calm.stays ⟨rfl, rfl, rfl, fun _ => .refl _, fun _ => .refl _ _, fun _ => id, flushAll_wf s⟩

@[simp] theorem noteLeg90_stays (s) : F.Stays s (noteLeg90 s) := .intro (by simp [noteLeg90])
@[simp] theorem flushBuf_stays (s) : F.Stays s (flushBuf s) := .intro (by simp [flushBuf])

@[simp] theorem noteDenDrop_stays (n s) : F.Stays s (noteDenDrop n s) := by
  refine .intro ?_
  unfold noteDenDrop
  dsimp only
  split
  · simp
  · split
    · split <;> simp
    · simp

@[simp] theorem makeRoom_stays (n m sev s) : F.Stays s (makeRoom n m sev s) := .intro (by simp [makeRoom])
@[simp] theorem nextSeq_stays (s) : F.Stays s (nextSeq s).2 := by
  refine .intro ?_
  unfold nextSeq
  dsimp only
  split
  · exact F.keeps (State.stays_mk ..)
  · exact (F.trans (F.keeps (State.stays_mk ..)) (F.keeps (raise_stays ..)))

@[simp] theorem enterRec_stays (typ sev ovfl payload rep last s) :
    F.Stays s (enterRec typ sev ovfl payload rep last s) := by
  refine .intro ?_
  unfold enterRec
  extract_lets s1 trl q r s2 s3
  have h2 : F.rel s s2 := by simp [s2, q, s1]
  refine F.trans h2 ?_
  clear_value s2
  split
  · simp [s3]
  · simp

theorem mergeOrEnter_stays (typ : BitVec 16) (sev : Nat) (payload : List Byte) (u : State) :
    F.rel u (match mergeRec typ sev payload u.sys.now u.den.buf with
      | some l =>
        let s := (nextSeq u).2.setDen (fun d => { d with buf := l })
        if s.den.bufBytes ≥ 8192 then flushBuf s else s
      | none => enterRec typ sev false payload 0 0 u) := by
  split
  · next l _ =>
    have h : F.rel u ((nextSeq u).2.setDen (fun d => { d with buf := l })) := by simp
    dsimp only
    split
    · exact F.trans h (F.keeps (flushBuf_stays ..))
    · exact h
  · exact F.keeps (enterRec_stays ..)

@[simp] theorem denWrite_stays (typ sev payload s) : F.Stays s (denWrite typ sev payload s) := by
  refine .intro ?_
  unfold denWrite
  split
  · exact F.refl s
  · refine F.trans (t := if s.den.bufBytes + 16 ≤ s.badger.bufLimit then s else flushBuf s) (by simp) ?_
    exact mergeOrEnter_stays F typ sev payload _

@[simp] theorem denEvent_stays (sev src obj content s) :
    F.Stays s (denEvent sev src obj content s) := denWrite_stays F _ _ _ s

@[simp] theorem violation_stays (p domain code s) : F.Stays s (violation p domain code s) := by
  refine .intro ?_
  unfold violation
  dsimp only
  split <;> simp

@[simp] theorem legalEnter_stays (x lec reserve s) : F.Stays s (legalEnter x lec reserve s) := .intro (by simp [legalEnter])
@[simp] theorem flush_stays (s) : F.Stays s (flush s) := .intro (by simp [flush])

@[simp] theorem legalWrite_stays (typ sev content port lec reserve s) :
    F.Stays s (legalWrite typ sev content port lec reserve s) := .intro (by simp [legalWrite])

@[simp] theorem legalTakes_stays (obj s) : F.Stays s (legalTakes obj s) := .intro (by simp [legalTakes])
@[simp] theorem legalCutOff_stays (obj s) : F.Stays s (legalCutOff obj s) := .intro (by simp [legalCutOff])
@[simp] theorem recordInternal_stays (op obj s) : F.Stays s (recordInternal op obj s) := .intro (by simp [recordInternal])

@[simp] theorem notify_stays (b src payload den obj s) : F.Stays s (notify b src payload den obj s) := by
  refine .intro ?_
  unfold notify
  split
  · split <;> simp
  · next h =>
    have hb : s.heard b ≠ true := fun k => h (by simp_all [State.heard, State.whole])
    refine F.calm (Calm.setHolm ?_)
    dsimp only
    split <;> exact ⟨rfl, rfl, rfl, rfl, (absurd · hb), (absurd · hb)⟩

@[simp] theorem notifyCh_stays (c k payload den s) : F.Stays s (notifyCh c k payload den s) := .intro (by simp [notifyCh])

@[simp] theorem notifyHolm_stays (b k kind pos value den s) :
    F.Stays s (notifyHolm b k kind pos value den s) := .intro (by simp [notifyHolm])

@[simp] theorem finishHere_stays (op r st data delay s) : F.Stays s (finishHere op r st data delay s) :=
  .intro (by simp [finishHere])

@[simp] theorem finish_stays (op r st data delay s) : F.Stays s (finish op r st data delay s) := by
  refine .intro ?_
  unfold finish
  split
  · next b _ =>
    dsimp only
    split
    · simp
    · next h =>
      have hs : F.rel s (s.setHolm b fun h => { h with
          linkOp := h.linkOp + 1, journal := ((h.linkOp, st) :: h.journal).take 256 }) := by simp
      refine F.trans hs (F.calm (Calm.setHolm ?_))
      refine ⟨rfl, rfl, rfl, rfl, fun k => absurd k ?_, fun _ => rfl⟩
      simp [State.heard, State.whole, h]
  · simp

@[simp] theorem endTrim_stays (c s) : F.Stays s (endTrim c s) := by
  refine .intro ?_
  unfold endTrim
  split
  · simp
  · refine (overAll_stays F _ _ _ (fun h u => ?_) s).mpr (.inl (by simp))
    split <;> simp

@[simp] theorem setL5_stays (c d s) : F.Stays s (setL5 c d s) := .intro (by simp [setL5])
@[simp] theorem dropL5_stays (c s) : F.Stays s (dropL5 c s) := .intro (by simp [dropL5])
@[simp] theorem evalOne_stays (c s) : F.Stays s (evalOne c s) := .intro (by simp [evalOne])
@[simp] theorem evalOut_stays (c s) : F.Stays s (evalOut c s) := .intro (by simp [evalOut])
@[simp] theorem evalBank_stays (b s) : F.Stays s (evalBank b s) := .intro (by simp [evalBank])
@[simp] theorem swEvent_stays (c k kind sev s) : F.Stays s (swEvent c k kind sev s) := .intro (by simp [swEvent])
@[simp] theorem cancelRestore_stays (c s) : F.Stays s (cancelRestore c s) := .intro (by simp [cancelRestore])
@[simp] theorem setLock_stays (c f s) : F.Stays s (setLock c f s) := .intro (by simp [setLock])
@[simp] theorem clampPulse_stays (c m s) : F.Stays s (clampPulse c m s) := .intro (by simp [clampPulse])

@[simp] theorem clampAfter_stays (c m before after) :
    F.Stays after (clampAfter c m before after) := .intro (by simp [clampAfter])

@[simp] theorem hostLoss_stays (c s) : F.Stays s (hostLoss c s) := by
  refine .intro ?_
  unfold hostLoss
  dsimp only
  split <;> simp

@[simp] theorem hostLossAll_stays (l s) : F.Stays s (hostLossAll l s) := .intro (by simp [hostLossAll])
@[simp] theorem supplyLock_stays (c f s) : F.Stays s (supplyLock c f s) := .intro (by simp [supplyLock])
@[simp] theorem supplyUnlock_stays (c f s) : F.Stays s (supplyUnlock c f s) := .intro (by simp [supplyUnlock])
@[simp] theorem supplyUnlockBank_stays (b f s) : F.Stays s (supplyUnlockBank b f s) := .intro (by simp [supplyUnlockBank])

/-! ### What stays: running a mailbox command -/

theorem sendUnheard_stays (b op r s) (h : (s.holm b).deaf = true) : F.rel s (sendUnheard b op r s) := by
  have hs : F.rel s (setSlot r.port r (fun sl => { sl with st := .executing }) s) := by simp
  refine F.trans hs (F.calm (Calm.setHolm ⟨rfl, rfl, rfl, rfl, fun k => absurd k ?_, fun _ => rfl⟩))
  simp [State.heard, State.whole, setSlot, h]

theorem unheard_deaf {s : State} {obj : BitVec 16} {b : Bank} (h : s.unheard obj = some b) : (s.holm b).deaf = true := by
  unfold State.unheard at h
  split at h
  · split at h
    · next hd => obtain rfl := Option.some.inj h; exact hd
    · cases h
  · cases h

@[simp] theorem Res.ends_stays (op r) (x : Res) : F.Stays x.state (x.ends op r) := by
  refine .intro ?_
  cases x with
  | done s st d n => exact F.keeps (finish_stays ..)
  | held s => exact F.refl s

@[simp] theorem runMail_stays (op r s) (body : State → Res) (hb : ∀ u, F.rel u (body u).state) :
    F.Stays s (runMail op r s body) := by
  refine .intro ?_
  unfold runMail
  split
  · split
    · simp
    · split
      · next hu => exact sendUnheard_stays F _ _ _ _ (unheard_deaf hu)
      · have hs : F.rel s (setSlot r.port r (fun sl => { sl with st := .executing }) s) := by simp
        exact F.trans (F.trans hs (hb _)) (F.keeps (Res.ends_stays ..))
  · simp

@[simp] theorem runCh_stays (op r s) (body : _ → State → Res) (hb : ∀ a u, F.rel u (body a u).state) :
    F.Stays s (runCh op r s body) :=
  runMail_stays F op r s _ fun u => by split <;> simp [hb]

@[simp] theorem runHolm_stays (op r s) (body : _ → State → Res) (hb : ∀ a u, F.rel u (body a u).state) :
    F.Stays s (runHolm op r s body) :=
  runMail_stays F op r s _ fun u => by split <;> simp [hb]

@[simp] theorem runUnit_stays (op r s) (body : _ → State → Res) (hb : ∀ a u, F.rel u (body a u).state) :
    F.Stays s (runUnit op r s body) :=
  runMail_stays F op r s _ fun u => by split <;> simp [hb]

@[simp] theorem legalNote_stays (op r isLegal after s) :
    F.Stays s (legalNote op r isLegal after s).2 := by
  refine .intro ?_
  unfold legalNote
  dsimp only
  repeat' split
  all_goals simp

@[simp] theorem legalChange_stays (op r b) (f : State → State) (k : State → Res) (s : State)
    (hf : ∀ u, F.rel u (f u)) (hk : ∀ u, F.rel u (k u).state) :
    F.Stays s (legalChange op r b f k s).state := by
  refine .intro ?_
  unfold legalChange
  dsimp only
  split
  · simp
  · refine F.trans ?_ (hk _)
    exact F.trans (F.trans (F.keeps (legalNote_stays ..)) (hf _)) (F.keeps (legalTakes_stays ..))

/-! ### What stays: filter chains, plans, modes and levels -/

@[simp] theorem disturbAt_stays (c t s) : F.Stays s (disturbAt c t s) := .intro (by simp [disturbAt])
@[simp] theorem disturb_stays (c s) : F.Stays s (disturb c s) := .intro (by simp [disturb])
@[simp] theorem planCommit_stays (b rates w s) : F.Stays s (planCommit b rates w s) := .intro (by simp [planCommit])
@[simp] theorem measAtGrid_stays (c w op r s) : F.Stays s (measAtGrid c w op r s) := .intro (by simp [measAtGrid])

@[simp] theorem measTick_stays (c s) : F.Stays s (measTick c s) := by
  refine .intro ?_
  unfold measTick
  split <;> simp

@[simp] theorem measApply_stays (c w op r s) : F.Stays s (measApply c w op r s) := by
  refine .intro ?_
  unfold measApply
  dsimp only
  split <;> simp

/-- A record update that writes channels and, in every Holm, what a link does not keep. -/
theorem Calm.holms (s : State) (chans) (f : Holm → Holm) (h : ∀ x, LinkStays true x (f x)) :
    Calm s { s with chans := chans, holms := s.holms.map f } := by
  refine ⟨rfl, rfl, rfl, fun _ => .refl _, fun b => ?_, fun _ => id, id⟩
  have e : ({ s with chans := chans, holms := s.holms.map f } : State).holm b = f (s.holm b) := by simp [State.holm]
  obtain ⟨hl, hd, hr, hb, hh, hn⟩ := h (s.holm b)
  rw [e]
  exact ⟨hl, hd, hr, hb, fun _ => hh rfl, fun _ => hn rfl⟩

@[simp] theorem dropHolds_stays (src k s) : F.Stays s (dropHolds src k s) := by
  refine .intro ?_
  unfold dropHolds
  extract_lets f t
  have ht : F.rel s t := F.calm (Calm.holms s _ _ fun _ => ⟨rfl, rfl, rfl, rfl, fun _ => rfl, fun _ => rfl⟩)
  exact F.trans ht (by simp)

@[simp] theorem disarm_stays (c k s) : F.Stays s (disarm c k s) := .intro (by simp [disarm])
@[simp] theorem tbRelease_stays (b s) : F.Stays s (tbRelease b s) := .intro (by simp [tbRelease])

@[simp] theorem placePhase_stays (c s) : F.Stays s (placePhase c s) := by
  refine .intro ?_
  unfold placePhase
  dsimp only
  repeat' split
  all_goals simp

@[simp] theorem tbSet_stays (b k period s) : F.Stays s (tbSet b k period s) := .intro (by simp [tbSet])

@[simp] theorem tbTake_stays (c s) : F.Stays s (tbTake c s) := by
  refine .intro ?_
  unfold tbTake
  split
  · split <;> simp
  · simp

@[simp] theorem tbSettle_stays (b s) : F.Stays s (tbSettle b s) := .intro (by simp [tbSettle])
@[simp] theorem tbTick_stays (b s) : F.Stays s (tbTick b s) := .intro (by simp [tbTick])
@[simp] theorem divide_stays (c s) : F.Stays s (divide c s) := .intro (by simp [divide])
@[simp] theorem loopEvent_stays (c kind s) : F.Stays s (loopEvent c kind s) := .intro (by simp [loopEvent])
@[simp] theorem mdmEvent_stays (c kind s) : F.Stays s (mdmEvent c kind s) := .intro (by simp [mdmEvent])
@[simp] theorem mdmPush_stays (c e s) : F.Stays s (mdmPush c e s) := .intro (by simp [mdmPush])
@[simp] theorem mdmAbort_stays (c s) : F.Stays s (mdmAbort c s) := .intro (by simp [mdmAbort])
@[simp] theorem enterMode_stays (c m wiring s) : F.Stays s (enterMode c m wiring s) := .intro (by simp [enterMode])
@[simp] theorem noteClearedLock_stays (c s) : F.Stays s (noteClearedLock c s) := .intro (by simp [noteClearedLock])
@[simp] theorem breakCh_stays (g s c) : F.Stays s (breakCh g s c) := .intro (by simp [breakCh])
@[simp] theorem modeRun_stays (c m wiring mm op r s) : F.Stays s (modeRun c m wiring mm op r s) := .intro (by simp [modeRun])
@[simp] theorem setChanging_stays (mem f s) : F.Stays s (setChanging mem f s) := .intro (by simp [setChanging])

@[simp] theorem modeFinish_stays (g s) : F.Stays s (modeFinish g s) := by
  refine .intro ?_
  unfold modeFinish
  split <;> simp

@[simp] theorem modeEnter_stays (c g s) : F.Stays s (modeEnter c g s) := .intro (by simp [modeEnter])
@[simp] theorem modeDone_stays (c g s) : F.Stays s (modeDone c g s) := .intro (by simp [modeDone])

@[simp] theorem modeTick_stays (c s) : F.Stays s (modeTick c s) := by
  refine .intro ?_
  unfold modeTick
  split <;> simp

@[simp] theorem releaseShare_stays (c s) : F.Stays s (releaseShare c s) := .intro (by simp [releaseShare])

@[simp] theorem modeAccept_stays (c m wiring mm op r s) :
    F.Stays s (modeAccept c m wiring mm op r s) := by
  refine .intro ?_
  unfold modeAccept
  dsimp only
  repeat' split
  all_goals simp

@[simp] theorem setDemand_stays (c d alarm s) : F.Stays s (setDemand c d alarm s) := .intro (by simp [setDemand])

@[simp] theorem levelRun_stays (c d alarm mm op r s) : F.Stays s (levelRun c d alarm mm op r s) :=
  .intro (by simp [levelRun])

@[simp] theorem levelChange_stays (c d alarm mm op r s) :
    F.Stays s (levelChange c d alarm mm op r s) := by
  refine .intro ?_
  unfold levelChange
  split
  · simp
  · split <;> simp

/-! ### What stays: the boot record and what an admitted operation does -/

@[simp] theorem beginNow_stays (p len resume s) : F.Stays s (beginNow p len resume s) := .intro (by simp [beginNow])
@[simp] theorem bootBegin_stays (what s) : F.Stays s (bootBegin what s) := .intro (by simp [bootBegin])

@[simp] theorem bootRecorded_stays (what s) : F.Stays s (bootRecorded what s) := by
  refine .intro ?_
  unfold bootRecorded
  split <;> simp

@[simp] theorem bootApply_stays (w s) : F.Stays s (bootApply w s) := .intro (by simp [bootApply])

@[simp] theorem bootFollow_stays (what s) : F.Stays s (bootFollow what s) := by
  refine .intro ?_
  unfold bootFollow
  split <;> simp

@[simp] theorem bootFailed_stays (what s) : F.Stays s (bootFailed what s) := by
  refine .intro ?_
  unfold bootFailed
  split <;> simp

@[simp] theorem bootStage_stays (w s) : F.Stays s (bootStage w s) := by
  refine .intro ?_
  unfold bootStage
  split <;> simp

@[simp] theorem bootTick_stays (s) : F.Stays s (bootTick s) := by
  refine .intro ?_
  unfold bootTick
  split <;> simp

@[simp] theorem resolveBoot_stays (s) : F.Stays s (resolveBoot s) := by
  refine .intro ?_
  unfold resolveBoot
  split <;> simp

@[simp] theorem bootNow_stays (what s) : F.Stays s (bootNow what s) := .intro (by simp [bootNow])
@[simp] theorem beginApply_stays (r s) : F.Stays s (beginApply r s).state := .intro (by simp [beginApply])
@[simp] theorem activateNow_stays (r twin tboot s) : F.Stays s (activateNow r twin tboot s) := .intro (by simp [activateNow])
@[simp] theorem confirmNow_stays (r s) : F.Stays s (confirmNow r s) := .intro (by simp [confirmNow])

@[simp] theorem checkedLegal_stays (l op typ content r) (s : State) (k : Res) (hk : F.rel s k.state) :
    F.Stays s (checkedLegal l op typ content r s k).state :=
  checked_stays F l s _ (by split <;> simp [hk])

@[simp] theorem activateIf_stays (r s) (k : Res) (hk : F.rel s k.state) :
    F.Stays s (activateIf r s k).state := checkedLegal_stays F _ _ _ _ _ _ _ hk

@[simp] theorem activateApply_stays (r s) : F.Stays s (activateApply r s).state := .intro (by simp [activateApply])

@[simp] theorem confirmIf_stays (r s) (k : Res) (hk : F.rel s k.state) :
    F.Stays s (confirmIf r s k).state := checkedLegal_stays F _ _ _ _ _ _ _ hk

@[simp] theorem confirmApply_stays (r s) : F.Stays s (confirmApply r s).state := .intro (by simp [confirmApply])
@[simp] theorem exciteReturn_stays (c op r s) : F.Stays s (exciteReturn c op r s) := .intro (by simp [exciteReturn])

@[simp] theorem swapAccept_stays (c w op r s) : F.Stays s (swapAccept c w op r s) := by
  refine .intro ?_
  unfold swapAccept
  dsimp only
  split <;> simp

@[simp] theorem configFailed_stays (op r s) : F.Stays s (configFailed op r s) := .intro (by simp [configFailed])

@[simp] theorem trimApply_stays (c m4 m20 factory op r s) :
    F.Stays s (trimApply c m4 m20 factory op r s) := .intro (by simp [trimApply])

@[simp] theorem setCeiling_stays (cause new s) : F.Stays s (setCeiling cause new s) := .intro (by simp [setCeiling])

@[simp] theorem bdgApply_stays (op r s) : F.Stays s (bdgApply op r s) := by
  refine .intro ?_
  unfold bdgApply
  dsimp only
  repeat' split
  all_goals simp

@[simp] theorem chunkApply_stays (op r s) : F.Stays s (chunkApply op r s) := .intro (by simp [chunkApply])
@[simp] theorem fieldApply_stays (b op r s) : F.Stays s (fieldApply b op r s) := .intro (by simp [fieldApply])
@[simp] theorem mapApply_stays (b op r s) : F.Stays s (mapApply b op r s) := .intro (by simp [mapApply])
@[simp] theorem setInput_stays (c w s) : F.Stays s (setInput c w s) := .intro (by simp [setInput])

@[simp] theorem applyAdmitted_stays (h s) : F.Stays s (applyAdmitted h s) := by
  refine .intro ?_
  unfold applyAdmitted
  dsimp only
  split
  case h_2 => split <;> simp
  all_goals simp

/-! ### What stays: the Badger, switches and records of RSPQ -/

@[simp] theorem dropHead_stays (h s) : F.Stays s (dropHead h s) := .intro (by simp [dropHead])

@[simp] theorem budgetEvent_stays (r op ledger cause s) :
    F.Stays s (budgetEvent r op ledger cause s) := .intro (by simp [budgetEvent])

@[simp] theorem dropRestore_stays (c ledger cause s) : F.Stays s (dropRestore c ledger cause s) :=
  .intro (by simp [dropRestore])

@[simp] theorem budgetEnd_stays (h ledger cause s) : F.Stays s (budgetEnd h ledger cause s) := by
  refine .intro ?_
  unfold budgetEnd
  split <;> simp

@[simp] theorem deferHead_stays (h code s) : F.Stays s (deferHead h code s) := by
  refine .intro ?_
  unfold deferHead
  split <;> simp

@[simp] theorem letRun_stays (h p s) : F.Stays s (letRun h p s) := by
  refine .intro ?_
  unfold letRun
  dsimp only
  split <;> simp

@[simp] theorem unsendable_stays (h s) : F.Stays s (unsendable h s) := by
  refine .intro ?_
  unfold unsendable
  split <;> simp

theorem sendHead_stays (b h s) (hd : (s.holm b).deaf = true) : F.rel s (sendHead b h s) := by
  unfold sendHead
  split
  · exact F.trans (F.keeps (dropHead_stays ..)) (sendUnheard_stays F _ _ _ _ hd)
  · exact F.refl s

@[simp] theorem reserveEvent_stays (cause s) : F.Stays s (reserveEvent cause s) := .intro (by simp [reserveEvent])

@[simp] theorem turnAway_stays (h st s) : F.Stays s (turnAway h st s) := by
  refine .intro ?_
  unfold turnAway
  split <;> simp

@[simp] theorem thresholdEvents_stays (s) : F.Stays s (thresholdEvents s) := .intro (by simp [thresholdEvents])

theorem ite_evalAcc_stays {p : Prop} [Decidable p] {s : State} {x y : EvalAcc} (hx : F.rel s x.s) (hy : F.rel s y.s) :
    F.rel s (if p then x else y).s := by
  split
  · exact hx
  · exact hy

/-- One operation of an evaluation: each branch leaves the state, or ends, defers, sends or runs the head (R226). -/
theorem evalHead_stays (a : EvalAcc) (h : Head) : F.rel a.s (evalHead a h).s := by
  unfold evalHead
  extract_lets s on j p raised prio wait big
  have rest : F.rel s a.s := F.refl s
  have hw (n) : F.rel s (wait n).s := F.keeps (deferHead_stays ..)
  have hs (hu : (s.unheard h.obj).isSome = true) : F.rel s (sendHead ((s.unheard h.obj).getD 0) h s) := by
    obtain ⟨b, e⟩ := Option.isSome_iff_exists.mp hu
    exact sendHead_stays F _ _ _ (by rw [e]; exact unheard_deaf e)
  refine ite_evalAcc_stays F rest (ite_evalAcc_stays F rest (ite_evalAcc_stays F (ite_evalAcc_stays F rest (hw _))
    (ite_evalAcc_stays F (F.keeps (unsendable_stays ..)) (ite_evalAcc_stays F rest ?_))))
  split
  · next hu => exact hs hu
  refine ite_evalAcc_stays F rest (ite_evalAcc_stays F (F.keeps (turnAway_stays ..))
    (ite_evalAcc_stays F (F.keeps (letRun_stays ..)) ?_))
  clear_value wait j raised p on
  split
  · exact F.keeps (budgetEnd_stays ..)
  · refine ite_evalAcc_stays F (hw _) (ite_evalAcc_stays F (hw _) ?_)
    split
    · exact hw _
    · refine ite_evalAcc_stays F (hw _) ?_
      split
      · exact F.keeps (letRun_stays ..)
      · change F.rel s _
        simp

theorem evalHeads_stays (l : List Head) (a : EvalAcc) : F.rel a.s (l.foldl evalHead a).s := by
  induction l generalizing a with
  | nil => exact F.refl _
  | cons h l ih => exact F.trans (evalHead_stays F a h) (ih _)

@[simp] theorem evaluate_stays (s) : F.Stays s (evaluate s) := by
  refine .intro ?_
  unfold evaluate
  split
  · exact F.refl s
  · simp [evalHeads_stays F _ (EvalAcc.mk s _ _ _)]

@[simp] theorem submit_stays (op r kind m s) : F.Stays s (submit op r kind m s) := .intro (by simp [submit])

@[simp] theorem submitRestore_stays (c s) : F.Stays s (submitRestore c s) := by
  refine .intro ?_
  unfold submitRestore
  split
  · exact F.refl s
  · simp

@[simp] theorem readLedgers_stays (s) : F.Stays s (readLedgers s) := .intro (by simp [readLedgers])
@[simp] theorem noteCounterFaults_stays (s) : F.Stays s (noteCounterFaults s) := .intro (by simp [noteCounterFaults])
@[simp] theorem rebuildLedgers_stays (s) : F.Stays s (rebuildLedgers s) := .intro (by simp [rebuildLedgers])

@[simp] theorem tellShedEnd_stays (b n s) : F.Stays s (tellShedEnd b n s) := by
  refine .intro ?_
  unfold tellShedEnd
  split <;> simp

@[simp] theorem submitRestores_stays (b s) : F.Stays s (submitRestores b s) := .intro (by simp [submitRestores])

/-- A port without its streams and the records that wait in it. -/
def PortSt.besidesStreams (q : PortSt) : PortSt := { q with subs := Vector.replicate 16 .reset, rsp := [] }

theorem pushUnit_besides (p : Port) (c : Ch) (now : Nat) (u : List Byte) (q : PortSt) :
    (q.pushUnit p c now u).besidesStreams = q.besidesStreams := by
  unfold PortSt.pushUnit
  dsimp only
  split
  · unfold PortSt.closeStream
    dsimp only
    split <;> rfl
  · rfl

@[simp] theorem pushUnitList_besides (p : Port) (c : Ch) (now : Nat) (l : List (List Byte)) (q : PortSt) :
    (l.foldl (fun q u => q.pushUnit p c now u) q).besidesStreams = q.besidesStreams := by
  induction l generalizing q with
  | nil => rfl
  | cons u l ih => exact (ih _).trans (pushUnit_besides ..)

@[simp] theorem PortSt.setSub_besidesStreams (q : PortSt) (c f) : (q.setSub c f).besidesStreams = q.besidesStreams := by rfl

/-- An update of a port's streams. -/
@[simp] theorem State.setStreams_stays (s : State) (p : Port) (f : PortSt → PortSt)
    (h : ∀ q, (f q).besidesStreams = q.besidesStreams) : F.Stays s (s.setPort p f) :=
  State.setPort_stays F s p f (fun q => (congrArg PortSt.evmask (h q) :)) (fun q => (congrArg PortSt.rdy (h q) :))
    (fun q => (congrArg PortSt.wdExpired (h q) :)) (fun q => (congrArg PortSt.evpend (h q) :))

@[simp] theorem pushUnits_stays (p c units s) : F.Stays s (pushUnits p c units s) :=
  .intro (by simp [pushUnits])

@[simp] theorem pushHeld_stays (c x s) : F.Stays s (pushHeld c x s) := .intro (by simp [pushHeld])
@[simp] theorem flushStream_stays (b s) : F.Stays s (flushStream b s) := .intro (by simp [flushStream])
@[simp] theorem linkEvent_stays (b kind value s) : F.Stays s (linkEvent b kind value s) := .intro (by simp [linkEvent])
@[simp] theorem reportLost_stays (m s) : F.Stays s (reportLost m s) := .intro (by simp [reportLost])
@[simp] theorem restoreCh_stays (c s) : F.Stays s (restoreCh c s) := .intro (by simp [restoreCh])
@[simp] theorem releaseKept_stays (c s) : F.Stays s (releaseKept c s) := .intro (by simp [releaseKept])
@[simp] theorem loadSequencers_stays (l s) : F.Stays s (loadSequencers l s) := .intro (by simp [loadSequencers])

end
end Sys2Proof.Machine
end

section
/-! PROOFS. The canonical form of the MRAM (R10, R12): what else than evaluations keeps it, one lemma for each function. -/

namespace Sys2Proof.Machine

/-! ### The MRAM: updates of the state -/

/-- A record update that does not write the MRAM. -/
@[simp] theorem State.canonical_mk (s₀ s : State) (sys chans holms ports completions badger den crc upd sec legal pending) :
    memory.rel s₀ ⟨sys, chans, holms, ports, completions, badger, den, crc, upd, sec, legal, s.mram, pending⟩ ↔
      memory.rel s₀ s := by rfl
/-- A record update that stores bytes in the MRAM. -/
@[simp] theorem State.canonical_mk_store (s : State) (a l)
    (sys chans holms ports completions badger den crc upd sec legal pending) :
    memory.Stays s ⟨sys, chans, holms, ports, completions, badger, den, crc, upd, sec, legal, mramStore s.mram a l, pending⟩ :=
  .intro (mramStore_wf (m := s.mram))
@[simp] theorem State.setHolm_canonical (s₀ s : State) (b f) : memory.rel s₀ (s.setHolm b f) ↔ memory.rel s₀ s := by rfl
@[simp] theorem State.setPort_canonical (s₀ s : State) (p f) : memory.rel s₀ (s.setPort p f) ↔ memory.rel s₀ s := by rfl
@[simp] theorem State.setSys_canonical (s₀ s : State) (f) : memory.rel s₀ (s.setSys f) ↔ memory.rel s₀ s := by rfl

/-! ### The MRAM: the Badger, switches and records of RSPQ -/

@[simp] theorem clearLocks_canonical (c fl s) : memory.Stays s (clearLocks c fl s) := .intro (by simp [clearLocks])
@[simp] theorem tbRenew_canonical (b k period s) : memory.Stays s (tbRenew b k period s) := .intro (by simp [tbRenew])
@[simp] theorem tbMove_canonical (c k s) : memory.Stays s (tbMove c k s) := .intro (by simp [tbMove])

@[simp] theorem tbChange_canonical (c period s) : memory.Stays s (tbChange c period s) := by
  refine .intro ?_
  unfold tbChange
  dsimp only
  split <;> simp

@[simp] theorem setPgen_canonical (c g s) : memory.Stays s (setPgen c g s) := .intro (by simp [setPgen])

@[simp] theorem pushImmediate_canonical (p bytes s) : memory.Stays s (pushImmediate p bytes s) :=
  .intro (by simp [pushImmediate])

@[simp] theorem immediate_canonical (p op seq tag obj st data s) :
    memory.Stays s (immediate p op seq tag obj st data s) := .intro (by simp [immediate])

@[simp] theorem replayNow_canonical (p rec1 headerOnly s) :
    memory.Stays s (replayNow p rec1 headerOnly s) := .intro (by simp [replayNow])

@[simp] theorem deliverChain_canonical (c s) : memory.Stays s (deliverChain c s) := .intro (by simp [deliverChain])
@[simp] theorem deliverSlot_canonical (c sl s) : memory.Stays s (deliverSlot c sl s) := .intro (by simp [deliverSlot])

@[simp] theorem deliver_canonical (c s) : memory.Stays s (deliver c s) := by
  refine .intro ?_
  unfold deliver
  split
  · simp
  · split <;> simp

@[simp] theorem noteExcess_canonical (s) : memory.Stays s (noteExcess s) := .intro (by simp [noteExcess])
@[simp] theorem badgerTick_canonical (s) : memory.Stays s (badgerTick s) := .intro (by simp [badgerTick])

@[simp] theorem deadlineExpiry_canonical (p tag s) : memory.Stays s (deadlineExpiry p tag s) := by
  refine .intro ?_
  unfold deadlineExpiry
  split
  · split <;> simp
  · simp

@[simp] theorem queueExpiry_canonical (p tag s) : memory.Stays s (queueExpiry p tag s) := by
  refine .intro ?_
  unfold queueExpiry
  split <;> simp

@[simp] theorem completeOne_canonical (s) : memory.Stays s (completeOne s) := by
  refine .intro ?_
  unfold completeOne
  split
  · simp
  · split <;> simp

@[simp] theorem recomputeCeiling_canonical (s) : memory.Stays s (recomputeCeiling s) := by
  refine .intro ?_
  unfold recomputeCeiling
  dsimp only
  repeat' split
  all_goals simp

@[simp] theorem ledgerExcess_canonical (code c s) : memory.Stays s (ledgerExcess code c s) := by
  refine .intro ?_
  unfold ledgerExcess
  dsimp only
  split <;> simp

@[simp] theorem shedOne_canonical (c s) : memory.Stays s (shedOne c s) := .intro (by simp [shedOne])

@[simp] theorem shedSteps_canonical (b vf n s) : memory.Stays s (shedSteps b vf n s) := by
  induction n generalizing s with
  | zero => exact .intro (memory.refl s)
  | succ n ih =>
    refine .intro ?_
    unfold shedSteps
    split
    · simp
    · simp [ih]

@[simp] theorem shedNow_canonical (b vf s) : memory.Stays s (shedNow b vf s) := .intro (by simp [shedNow])
@[simp] theorem enterShed_canonical (b vf s) : memory.Stays s (enterShed b vf s) := .intro (by simp [enterShed])
@[simp] theorem shedState_canonical (b x s) : memory.Stays s (shedState b x s) := .intro (by simp [shedState])
@[simp] theorem shedStep_canonical (b vf s) : memory.Stays s (shedStep b vf s) := .intro (by simp [shedStep])
@[simp] theorem endShed_canonical (b vf s) : memory.Stays s (endShed b vf s) := .intro (by simp [endShed])
@[simp] theorem shedEnd_canonical (b x s) : memory.Stays s (shedEnd b x s) := .intro (by simp [shedEnd])

@[simp] theorem restoreNow_canonical (c s) : memory.Stays s (restoreNow c s) := by
  refine .intro ?_
  unfold restoreNow
  split <;> simp

@[simp] theorem bdgSet_canonical (r s) : memory.Stays s (bdgSet r s).state := .intro (by simp [bdgSet])
@[simp] theorem bdgShed_canonical (r c s) : memory.Stays s (bdgShed r c s).state := .intro (by simp [bdgShed])

/-! ### The MRAM: streams, supplies and comparators -/

@[simp] theorem noteStep_canonical (c s) : memory.Stays s (noteStep c s) := .intro (by simp [noteStep])
@[simp] theorem needTime_canonical (c s) : memory.Stays s (needTime c s) := .intro (by simp [needTime])
@[simp] theorem streamSample_canonical (c x s) : memory.Stays s (streamSample c x s) := .intro (by simp [streamSample])

@[simp] theorem supplyEvent_canonical (b kind vf s) : memory.Stays s (supplyEvent b kind vf s) :=
  .intro (by simp [supplyEvent])

@[simp] theorem enterWarning_canonical (b vf s) : memory.Stays s (enterWarning b vf s) := .intro (by simp [enterWarning])
@[simp] theorem warning_canonical (b x s) : memory.Stays s (warning b x s) := .intro (by simp [warning])

@[simp] theorem enterUndervoltage_canonical (b vf s) : memory.Stays s (enterUndervoltage b vf s) :=
  .intro (by simp [enterUndervoltage])

@[simp] theorem undervoltage_canonical (b x s) : memory.Stays s (undervoltage b x s) := .intro (by simp [undervoltage])
@[simp] theorem surge_canonical (b x s) : memory.Stays s (surge b x s) := .intro (by simp [surge])
@[simp] theorem groundLoss_canonical (b x s) : memory.Stays s (groundLoss b x s) := .intro (by simp [groundLoss])
@[simp] theorem afterSupply_canonical (b f s) : memory.Stays s (afterSupply b f s) := .intro (by simp [afterSupply])
@[simp] theorem leaveSag_canonical (b vf s) : memory.Stays s (leaveSag b vf s) := .intro (by simp [leaveSag])

@[simp] theorem supplyExit_canonical (b st x s) : memory.Stays s (supplyExit b st x s) := by
  refine .intro ?_
  unfold supplyExit
  split <;> simp

@[simp] theorem holmStop_canonical (b reversed s) : memory.Stays s (holmStop b reversed s) := .intro (by simp [holmStop])
@[simp] theorem holmLockout_canonical (b vf s) : memory.Stays s (holmLockout b vf s) := .intro (by simp [holmLockout])
@[simp] theorem reverse_canonical (b s) : memory.Stays s (reverse b s) := .intro (by simp [reverse])
@[simp] theorem holmRestart_canonical (b pin x s) : memory.Stays s (holmRestart b pin x s) := .intro (by simp [holmRestart])

@[simp] theorem thrEvent_canonical (c action payload s) : memory.Stays s (thrEvent c action payload s) :=
  .intro (by simp [thrEvent])

@[simp] theorem setThr_canonical (c k n s) : memory.Stays s (setThr c k n s) := .intro (by simp [setThr])
@[simp] theorem thrSet_canonical (r c s) : memory.Stays s (thrSet r c s).state := .intro (by simp [thrSet])
@[simp] theorem thrGet_canonical (r c s) : memory.Stays s (thrGet r c s).state := .intro (by simp [thrGet])
@[simp] theorem arm_canonical (c k s) : memory.Stays s (arm c k s) := .intro (by simp [arm])
@[simp] theorem thrArm_canonical (r c s) : memory.Stays s (thrArm r c s).state := .intro (by simp [thrArm])
@[simp] theorem thrDisarm_canonical (r c s) : memory.Stays s (thrDisarm r c s).state := .intro (by simp [thrDisarm])

@[simp] theorem settleEvent_canonical (c kind seq ts s) : memory.Stays s (settleEvent c kind seq ts s) :=
  .intro (by simp [settleEvent])

@[simp] theorem setStab_canonical (c d s) : memory.Stays s (setStab c d s) := .intro (by simp [setStab])
@[simp] theorem thrStab_canonical (r c s) : memory.Stays s (thrStab r c s).state := .intro (by simp [thrStab])

/-! ### The MRAM: links, samples, grid instants and bridges -/

@[simp] theorem dropUnsendable_canonical (b s) : memory.Stays s (dropUnsendable b s) := .intro (by simp [dropUnsendable])
@[simp] theorem holdCompletions_canonical (b s) : memory.Stays s (holdCompletions b s) := .intro (by simp [holdCompletions])
@[simp] theorem upLost_canonical (b s) : memory.Stays s (upLost b s) := .intro (by simp [upLost])
@[simp] theorem downLost_canonical (b s) : memory.Stays s (downLost b s) := .intro (by simp [downLost])
@[simp] theorem linkLoss_canonical (x s) : memory.Stays s (linkLoss x s) := .intro (by simp [linkLoss])
@[simp] theorem readJournal_canonical (b gone s) : memory.Stays s (readJournal b gone s) := .intro (by simp [readJournal])

@[simp] theorem deliverNotices_canonical (b s) : memory.Stays s (deliverNotices b s) :=
  .intro ((overAll_stays memory _ _ _ (fun n u => by dsimp only; split <;> simp) s).mpr (.inl (by simp)))

@[simp] theorem undelivered_canonical (m s) : memory.Stays s (undelivered m s) := .intro (by simp [undelivered])
@[simp] theorem restoreBank_canonical (b s) : memory.Stays s (restoreBank b s) := .intro (by simp [restoreBank])
@[simp] theorem afterJournal_canonical (b gone s) : memory.Stays s (afterJournal b gone s) := .intro (by simp [afterJournal])
@[simp] theorem journalNow_canonical (b s) : memory.Stays s (journalNow b s) := .intro (by simp [journalNow])

@[simp] theorem internalTick_canonical (s) : memory.Stays s (internalTick s) := by
  refine .intro ?_
  unfold internalTick
  split <;> simp

@[simp] theorem linkUp_canonical (b s) : memory.Stays s (linkUp b s) := .intro (by simp [linkUp])

@[simp] theorem linkEstablishment_canonical (b s) : memory.Stays s (linkEstablishment b s) :=
  .intro (by simp [linkEstablishment])

@[simp] theorem holdTExpiry_canonical (c s) : memory.Stays s (holdTExpiry c s) := by
  refine .intro ?_
  unfold holdTExpiry
  split
  · split <;> simp
  · simp

@[simp] theorem watchdogExpiry_canonical (p s) : memory.Stays s (watchdogExpiry p s) := .intro (by simp [watchdogExpiry])

@[simp] theorem ActMsg.report_canonical (m outcome s) : memory.Stays s (ActMsg.report m outcome s) :=
  .intro (by simp [ActMsg.report])

@[simp] theorem reportInOrder_canonical (m outcome s) : memory.Stays s (reportInOrder m outcome s) :=
  .intro (by simp [reportInOrder])

@[simp] theorem relayOne_canonical (src s) : memory.Stays s (relayOne src s) := by
  refine .intro ?_
  unfold relayOne
  split <;> simp

@[simp] theorem stabSample_canonical (c x gap s) : memory.Stays s (stabSample c x gap s) := .intro (by simp [stabSample])
@[simp] theorem flushNotes_canonical (b s) : memory.Stays s (flushNotes b s) := .intro (by simp [flushNotes])
@[simp] theorem fire_canonical (c k byFlt s) : memory.Stays s (fire c k byFlt s) := .intro (by simp [fire])
@[simp] theorem thrSample_canonical (c x gap s) : memory.Stays s (thrSample c x gap s) := .intro (by simp [thrSample])
@[simp] theorem classSample_canonical (c value s) : memory.Stays s (classSample c value s) := .intro (by simp [classSample])

@[simp] theorem sampleDone_canonical (c x y ovr gap s) : memory.Stays s (sampleDone c x y ovr gap s) :=
  .intro (by simp [sampleDone])

@[simp] theorem sampleNow_canonical (c x s) : memory.Stays s (sampleNow c x s) := by
  refine .intro ?_
  unfold sampleNow
  dsimp only
  repeat' split
  all_goals simp

@[simp] theorem applyAction_canonical (g mm s) : memory.Stays s (applyAction g mm s) := by
  refine .intro ?_
  unfold applyAction
  dsimp only
  repeat' split
  all_goals simp

@[simp] theorem actionNow_canonical (c m s) : memory.Stays s (actionNow c m s) := by
  refine .intro ?_
  unfold actionNow
  dsimp only
  split <;> simp

@[simp] theorem chainedArming_canonical (c k s) : memory.Stays s (chainedArming c k s) := by
  refine .intro ?_
  unfold chainedArming
  dsimp only
  split <;> simp

@[simp] theorem swapNow_canonical (c w s) : memory.Stays s (swapNow c w s) := .intro (by simp [swapNow])

@[simp] theorem swapBoundary_canonical (c s) : memory.Stays s (swapBoundary c s) := by
  refine .intro ?_
  unfold swapBoundary
  split <;> simp

@[simp] theorem planWaiter_canonical (w rateChanged s) : memory.Stays s (planWaiter w rateChanged s) := by
  refine .intro ?_
  unfold planWaiter
  split <;> simp

@[simp] theorem planNow_canonical (b p s) : memory.Stays s (planNow b p s) := .intro (by simp [planNow])

@[simp] theorem planEffect_canonical (b s) : memory.Stays s (planEffect b s) := by
  refine .intro ?_
  unfold planEffect
  split <;> simp

@[simp] theorem movedMode_canonical (c md wiring underLock m op r s) :
    memory.Stays s (movedMode c md wiring underLock m op r s) := .intro (by simp [movedMode])

@[simp] theorem movedChange_canonical (c m s) : memory.Stays s (movedChange c m s) := by
  refine .intro ?_
  unfold movedChange
  split
  · split
    · split <;> simp
    · exact memory.refl s
  · exact memory.refl s

@[simp] theorem datapathReload_canonical (b s) : memory.Stays s (datapathReload b s) := .intro (by simp [datapathReload])
@[simp] theorem disturbedInput_canonical (c d s) : memory.Stays s (disturbedInput c d s) := .intro (by simp [disturbedInput])

@[simp] theorem diagEvent_canonical (c src kind value s) : memory.Stays s (diagEvent c src kind value s) :=
  .intro (by simp [diagEvent])

@[simp] theorem diagReport_canonical (c d s) : memory.Stays s (diagReport c d s) := .intro (by simp [diagReport])
@[simp] theorem diagClearance_canonical (c d s) : memory.Stays s (diagClearance c d s) := .intro (by simp [diagClearance])
@[simp] theorem excitationShort_canonical (c s) : memory.Stays s (excitationShort c s) := .intro (by simp [excitationShort])

@[simp] theorem excitationSupply_canonical (b vx s) : memory.Stays s (excitationSupply b vx s) :=
  .intro (by simp [excitationSupply])

/-! ### The MRAM: commands on channels and check-value units, the Den and digital inputs -/

@[simp] theorem modeDecide_canonical (r mm c m wiring s) :
    memory.Stays s (modeDecide r mm c m wiring s).state := .intro (by simp [modeDecide])

@[simp] theorem chMode_canonical (r mm c s) : memory.Stays s (chMode r mm c s).state :=
  checked_stays memory _ _ _ (by split <;> simp)

@[simp] theorem chMeas_canonical (r c s) : memory.Stays s (chMeas r c s).state := .intro (by simp [chMeas])
@[simp] theorem setDiag_canonical (c w s) : memory.Stays s (setDiag c w s) := .intro (by simp [setDiag])
@[simp] theorem clearShort_canonical (c s) : memory.Stays s (clearShort c s) := .intro (by simp [clearShort])
@[simp] theorem chDiag_canonical (r c s) : memory.Stays s (chDiag r c s).state := .intro (by simp [chDiag])
@[simp] theorem chStream_canonical (r c s) : memory.Stays s (chStream r c s).state := .intro (by simp [chStream])
@[simp] theorem pairNow_canonical (e o s) : memory.Stays s (pairNow e o s) := .intro (by simp [pairNow])
@[simp] theorem chPair_canonical (r c s) : memory.Stays s (chPair r c s).state := .intro (by simp [chPair])
@[simp] theorem unpairNow_canonical (c s) : memory.Stays s (unpairNow c s) := .intro (by simp [unpairNow])
@[simp] theorem chUnpair_canonical (r c s) : memory.Stays s (chUnpair r c s).state := .intro (by simp [chUnpair])
@[simp] theorem chInput_canonical (r c s) : memory.Stays s (chInput r c s).state := .intro (by simp [chInput])
@[simp] theorem countChange_canonical (c fl v s) : memory.Stays s (countChange c fl v s) := .intro (by simp [countChange])
@[simp] theorem chCount_canonical (r c s) : memory.Stays s (chCount r c s).state := .intro (by simp [chCount])
@[simp] theorem chField_canonical (r b s) : memory.Stays s (chField r b s).state := .intro (by simp [chField])
@[simp] theorem chSafe_canonical (r c s) : memory.Stays s (chSafe r c s).state := .intro (by simp [chSafe])
@[simp] theorem chBmap_canonical (r b s) : memory.Stays s (chBmap r b s).state := .intro (by simp [chBmap])
@[simp] theorem crcCfg_canonical (r u s) : memory.Stays s (crcCfg r u s).state := .intro (by simp [crcCfg])
@[simp] theorem noteMismatch_canonical (u r q s) : memory.Stays s (noteMismatch u r q s) := .intro (by simp [noteMismatch])
@[simp] theorem crcRunNow_canonical (r u s) : memory.Stays s (crcRunNow r u s).state := .intro (by simp [crcRunNow])
@[simp] theorem crcRun_canonical (r u s) : memory.Stays s (crcRun r u s).state := .intro (by simp [crcRun])
@[simp] theorem crcSave_canonical (r u s) : memory.Stays s (crcSave r u s).state := .intro (by simp [crcSave])
@[simp] theorem crcLoad_canonical (r u s) : memory.Stays s (crcLoad r u s).state := .intro (by simp [crcLoad])
@[simp] theorem State.drawNonce_canonical (s) : memory.Stays s (State.drawNonce s).2 := .intro (by simp [State.drawNonce])
@[simp] theorem snapNow_canonical (p s) : memory.Stays s (snapNow p s).2 := .intro (by simp [snapNow])
@[simp] theorem denSnap_canonical (r s) : memory.Stays s (denSnap r s).state := .intro (by simp [denSnap])

@[simp] theorem denRead_canonical (r s) : memory.Stays s (denRead r s).state := by
  refine .intro ?_
  unfold denRead
  dsimp only
  split <;> simp

@[simp] theorem endSnaps_canonical (s) : memory.Stays s (endSnaps s) := .intro (by simp [endSnaps])
@[simp] theorem clearRing_canonical (r head s) : memory.Stays s (clearRing r head s).state := .intro (by simp [clearRing])
@[simp] theorem clearLegal_canonical (q head s) : memory.Stays s (clearLegal q head s).state := .intro (by simp [clearLegal])
@[simp] theorem denClear_canonical (r s) : memory.Stays s (denClear r s).state := .intro (by simp [denClear])
@[simp] theorem debounce_canonical (c s) : memory.Stays s (debounce c s) := .intro (by simp [debounce])
@[simp] theorem edgeNow_canonical (c vip held s) : memory.Stays s (edgeNow c vip held s) := .intro (by simp [edgeNow])
@[simp] theorem dinBreak_canonical (c on s) : memory.Stays s (dinBreak c on s) := .intro (by simp [dinBreak])

@[simp] theorem sensorOverload_canonical (c on s) : memory.Stays s (sensorOverload c on s) :=
  .intro (by simp [sensorOverload])

@[simp] theorem countEdge_canonical (c e g s) : memory.Stays s (countEdge c e g s) := .intro (by simp [countEdge])
@[simp] theorem captureEdge_canonical (c e s) : memory.Stays s (captureEdge c e s) := .intro (by simp [captureEdge])

/-! ### The MRAM: system commands, time, updates and starts -/

@[simp] theorem sysReset_canonical (r s) : memory.Stays s (sysReset r s).state := .intro (by simp [sysReset])
@[simp] theorem sysTsync_canonical (r s) : memory.Stays s (sysTsync r s).state := .intro (by simp [sysTsync])
@[simp] theorem sysWdog_canonical (r s) : memory.Stays s (sysWdog r s).state := .intro (by simp [sysWdog])
@[simp] theorem clockSet_canonical (p w s) : memory.Stays s (clockSet p w s) := .intro (by simp [clockSet])
@[simp] theorem sysClock_canonical (r s) : memory.Stays s (sysClock r s).state := .intro (by simp [sysClock])
@[simp] theorem timeBeacon_canonical (b m s) : memory.Stays s (timeBeacon b m s) := .intro (by simp [timeBeacon])
@[simp] theorem timeUncertain_canonical (b s) : memory.Stays s (timeUncertain b s) := .intro (by simp [timeUncertain])
@[simp] theorem burEn_canonical (b x s) : memory.Stays s (burEn b x s) := .intro (by simp [burEn])
@[simp] theorem burIn_canonical (b k x s) : memory.Stays s (burIn b k x s) := .intro (by simp [burIn])
@[simp] theorem updBegin_canonical (r s) : memory.Stays s (updBegin r s).state := .intro (by simp [updBegin])
@[simp] theorem updChunk_canonical (r s) : memory.Stays s (updChunk r s).state := .intro (by simp [updChunk])
@[simp] theorem verifyNow_canonical (s) : memory.Stays s (verifyNow s).state := .intro (by simp [verifyNow])
@[simp] theorem updVerify_canonical (r s) : memory.Stays s (updVerify r s).state := .intro (by simp [updVerify])
@[simp] theorem updActivate_canonical (r s) : memory.Stays s (updActivate r s).state := .intro (by simp [updActivate])
@[simp] theorem updConfirm_canonical (r s) : memory.Stays s (updConfirm r s).state := .intro (by simp [updConfirm])
@[simp] theorem overPorts_canonical (f s) : memory.Stays s (overPorts f s) := .intro (by simp [overPorts])

@[simp] theorem raiseAcross_canonical (src payload s) : memory.Stays s (raiseAcross src payload s) :=
  .intro (by simp [raiseAcross])

@[simp] theorem scheduleStart_canonical (kind cause s) : memory.Stays s (scheduleStart kind cause s) :=
  .intro (by simp [scheduleStart])

@[simp] theorem writeLegrev_canonical (slot why s) : memory.Stays s (writeLegrev slot why s) :=
  .intro (by simp [writeLegrev])

@[simp] theorem revertTrial_canonical (why s) : memory.Stays s (revertTrial why s) := .intro (by simp [revertTrial])
@[simp] theorem revertAndStart_canonical (why s) : memory.Stays s (revertAndStart why s) := .intro (by simp [revertAndStart])

@[simp] theorem failStart_canonical (kind step next cause left s) :
    memory.Stays s (failStart kind step next cause left s) := .intro (by simp [failStart])

@[simp] theorem leaveOperation_canonical (cause s) : memory.Stays s (leaveOperation cause s) :=
  .intro (by simp [leaveOperation])

@[simp] theorem endOps_canonical (s) : memory.Stays s (endOps s) := .intro id
@[simp] theorem settleOwners_canonical (keep s) : memory.Stays s (settleOwners keep s) := .intro (by simp [settleOwners])
@[simp] theorem bootCount_canonical (s) : memory.Stays s (bootCount s) := .intro (by simp [bootCount])

@[simp] theorem startRecord_canonical (kind cause first last s) :
    memory.Stays s (startRecord kind cause first last s) := .intro (by simp [startRecord])

@[simp] theorem serveAll_canonical (kind cause s) : memory.Stays s (serveAll kind cause s) := .intro (by simp [serveAll])

@[simp] theorem checkLegact_canonical (s) : memory.Stays s (checkLegact s) := by
  refine .intro ?_
  unfold checkLegact
  split <;> simp

@[simp] theorem noteReserve_canonical (s) : memory.Stays s (noteReserve s) := .intro (by simp [noteReserve])

@[simp] theorem engineStops_canonical (e s) : memory.Stays s (engineStops e s) := by
  refine .intro ?_
  unfold engineStops
  split <;> simp

@[simp] theorem failEngine_canonical (e cause s) : memory.Stays s (failEngine e cause s) := .intro (by simp [failEngine])
@[simp] theorem heartbeatMiss_canonical (e s) : memory.Stays s (heartbeatMiss e s) := .intro (by simp [heartbeatMiss])

@[simp] theorem noteRecovery_canonical (e cause us s) : memory.Stays s (noteRecovery e cause us s) :=
  .intro (by simp [noteRecovery])

@[simp] theorem engineResumes_canonical (e s) : memory.Stays s (engineResumes e s) := by
  refine .intro ?_
  unfold engineResumes
  split <;> simp

@[simp] theorem engineRecovery_canonical (e checkOk s) : memory.Stays s (engineRecovery e checkOk s) := by
  refine .intro ?_
  unfold engineRecovery
  split <;> simp

@[simp] theorem lockstepFault_canonical (s) : memory.Stays s (lockstepFault s) := .intro (by simp [lockstepFault])
@[simp] theorem recordDbe_canonical (code s) : memory.Stays s (recordDbe code s) := .intro (by simp [recordDbe])

@[simp] theorem loseRecord_canonical (hit s) : memory.Stays s (loseRecord hit s) := by
  refine .intro ?_
  unfold loseRecord
  split <;> simp

@[simp] theorem doubleBitError_canonical (place s) : memory.Stays s (doubleBitError place s) := by
  refine .intro ?_
  unfold doubleBitError
  split
  · simp
  · split <;> simp

@[simp] theorem supervisorWatchdog_canonical (s) : memory.Stays s (supervisorWatchdog s) :=
  .intro (by simp [supervisorWatchdog])

/-! ### The MRAM: filters, ownership, loops and the modem -/

@[simp] theorem fltLoad_canonical (r c s) : memory.Stays s (fltLoad r c s).state := .intro (by simp [fltLoad])
@[simp] theorem fltRom_canonical (r c s) : memory.Stays s (fltRom r c s).state := .intro (by simp [fltRom])
@[simp] theorem fltSwap_canonical (r c s) : memory.Stays s (fltSwap r c s).state := .intro (by simp [fltSwap])
@[simp] theorem unlink_canonical (changed s) : memory.Stays s (unlink changed s) := .intro (by simp [unlink])

@[simp] theorem setOwner_canonical (obj o s) : memory.Stays s (setOwner obj o s) := by
  refine .intro ?_
  unfold setOwner
  dsimp only
  repeat' split
  all_goals simp

@[simp] theorem ownClaim_canonical (r s) : memory.Stays s (ownClaim r s).state := by
  refine .intro ?_
  unfold ownClaim
  split <;> simp

@[simp] theorem ownRelease_canonical (r s) : memory.Stays s (ownRelease r s).state := .intro (by simp [ownRelease])

@[simp] theorem resume_canonical (keep c s) : memory.Stays s (resume keep c s) := by
  refine .intro ?_
  unfold resume
  split <;> simp

@[simp] theorem ownResume_canonical (r s) : memory.Stays s (ownResume r s).state := .intro (by simp [ownResume])
@[simp] theorem setLoopWord_canonical (c w s) : memory.Stays s (setLoopWord c w s) := .intro (by simp [setLoopWord])
@[simp] theorem loopCfg_canonical (r c s) : memory.Stays s (loopCfg r c s).state := .intro (by simp [loopCfg])
@[simp] theorem loopSet_canonical (r c s) : memory.Stays s (loopSet r c s).state := .intro (by simp [loopSet])
@[simp] theorem setSession_canonical (c t s) : memory.Stays s (setSession c t s) := .intro (by simp [setSession])

@[simp] theorem trimStep_canonical (r c s) : memory.Stays s (trimStep r c s).state := by
  refine .intro ?_
  unfold trimStep
  dsimp only
  split <;> simp

@[simp] theorem loopTrim_canonical (r c s) : memory.Stays s (loopTrim r c s).state := .intro (by simp [loopTrim])
@[simp] theorem setModem_canonical (c w uid s) : memory.Stays s (setModem c w uid s) := .intro (by simp [setModem])
@[simp] theorem mdmCfg_canonical (r c s) : memory.Stays s (mdmCfg r c s).state := .intro (by simp [mdmCfg])
@[simp] theorem queueTx_canonical (c d s) : memory.Stays s (queueTx c d s) := .intro (by simp [queueTx])
@[simp] theorem mdmSend_canonical (r c s) : memory.Stays s (mdmSend r c s).state := .intro (by simp [mdmSend])
@[simp] theorem mdmRead_canonical (r c s) : memory.Stays s (mdmRead r c s).state := .intro (by simp [mdmRead])
@[simp] theorem sendReply_canonical (c d s) : memory.Stays s (sendReply c d s) := .intro (by simp [sendReply])
@[simp] theorem mdmReply_canonical (r c s) : memory.Stays s (mdmReply r c s).state := .intro (by simp [mdmReply])
@[simp] theorem compliance_canonical (c on s) : memory.Stays s (compliance c on s) := .intro (by simp [compliance])
@[simp] theorem alarmFallback_canonical (c s) : memory.Stays s (alarmFallback c s) := .intro (by simp [alarmFallback])
@[simp] theorem readbackFault_canonical (c s) : memory.Stays s (readbackFault c s) := .intro (by simp [readbackFault])
@[simp] theorem loopBreak_canonical (c on s) : memory.Stays s (loopBreak c on s) := .intro (by simp [loopBreak])
@[simp] theorem loopShort_canonical (c on s) : memory.Stays s (loopShort c on s) := .intro (by simp [loopShort])

@[simp] theorem foldRetry_canonical (c recovered s) : memory.Stays s (foldRetry c recovered s) :=
  .intro (by simp [foldRetry])

@[simp] theorem setMdm_canonical (c f s) : memory.Stays s (setMdm c f s) := .intro (by simp [setMdm])

@[simp] theorem State.quiet_canonical (s c until_) : memory.Stays s (State.quiet s c until_) :=
  .intro (by simp [State.quiet])

@[simp] theorem mdmFail_canonical (c reason t s) : memory.Stays s (mdmFail c reason t s) := by
  refine .intro ?_
  unfold mdmFail
  split <;> simp

@[simp] theorem masterHears_canonical (c f s) : memory.Stays s (masterHears c f s) := by
  refine .intro ?_
  unfold masterHears
  dsimp only
  repeat' split
  all_goals simp

@[simp] theorem deviceHears_canonical (c f s) : memory.Stays s (deviceHears c f s) := .intro (by simp [deviceHears])
@[simp] theorem frameHeard_canonical (c f s) : memory.Stays s (frameHeard c f s) := .intro (by simp [frameHeard])
@[simp] theorem modemFrame_canonical (c f s) : memory.Stays s (modemFrame c f s) := .intro (by simp [modemFrame])

@[simp] theorem transaction_canonical (c s) : memory.Stays s (transaction c s) := by
  refine .intro ?_
  unfold transaction
  dsimp only
  repeat' split
  all_goals simp

@[simp] theorem replyTimeout_canonical (c s) : memory.Stays s (replyTimeout c s) := by
  refine .intro ?_
  unfold replyTimeout
  split <;> simp

/-! ### The MRAM: operations on slots, output commands and the ports -/

@[simp] theorem runOp_canonical (op r s) (body : State → State) (hb : memory.rel s (body s)) :
    memory.Stays s (runOp op r s body) := .intro (by simp [runOp, hb])

@[simp] theorem answer_canonical (op r st data s) : memory.Stays s (answer op r st data s) := .intro (by simp [answer])
@[simp] theorem opQuery_canonical (r s) : memory.Stays s (opQuery r s) := .intro (by simp [opQuery])
@[simp] theorem withdraw_canonical (sl s) : memory.Stays s (withdraw sl s) := .intro (by simp [withdraw])
@[simp] theorem abortSlot_canonical (sl s) : memory.Stays s (abortSlot sl s) := .intro (by simp [abortSlot])

@[simp] theorem abortTag_canonical (p tag s) : memory.Stays s (abortTag p tag s).2 := by
  refine .intro ?_
  unfold abortTag
  split
  · split <;> simp
  · split <;> exact memory.refl s

@[simp] theorem opAbort_canonical (r s) : memory.Stays s (opAbort r s) := .intro (by simp [opAbort])

@[simp] theorem releaseTag_canonical (p tag s) : memory.Stays s (releaseTag p tag s).2 := by
  refine .intro ?_
  unfold releaseTag
  split
  · split <;> simp
  · exact memory.refl s

@[simp] theorem releaseTags_canonical (p l s) : memory.Stays s (releaseTags p l s).2 := by
  induction l generalizing s with
  | nil => exact .intro (memory.refl s)
  | cons t l ih => exact .intro (by simp [releaseTags, ih])

@[simp] theorem opRelease_canonical (r s) : memory.Stays s (opRelease r s) := .intro (by simp [opRelease])

@[simp] theorem opFetch_canonical (r s) : memory.Stays s (opFetch r s) := by
  refine .intro ?_
  unfold opFetch
  dsimp only
  repeat' split
  all_goals simp

@[simp] theorem outSetRun_canonical (r m c on s) : memory.Stays s (outSetRun r m c on s).state :=
  .intro (by simp [outSetRun])

@[simp] theorem outSet_canonical (r m c s) : memory.Stays s (outSet r m c s).state := .intro (by simp [outSet])
@[simp] theorem setSw_canonical (c f s) : memory.Stays s (setSw c f s) := .intro (by simp [setSw])
@[simp] theorem outProt_canonical (r c s) : memory.Stays s (outProt r c s).state := .intro (by simp [outProt])
@[simp] theorem outWire_canonical (r c s) : memory.Stays s (outWire r c s).state := .intro (by simp [outWire])
@[simp] theorem outFuse_canonical (r c s) : memory.Stays s (outFuse r c s).state := .intro (by simp [outFuse])
@[simp] theorem outClear_canonical (r c s) : memory.Stays s (outClear r c s).state := .intro (by simp [outClear])
@[simp] theorem outPgen_canonical (r c s) : memory.Stays s (outPgen r c s).state := .intro (by simp [outPgen])
@[simp] theorem setSwDiag_canonical (c w s) : memory.Stays s (setSwDiag c w s) := .intro (by simp [setSwDiag])
@[simp] theorem outDiag_canonical (r c s) : memory.Stays s (outDiag r c s).state := .intro (by simp [outDiag])
@[simp] theorem refuse_canonical (p op r st k s) : memory.Stays s (refuse p op r st k s) := .intro (by simp [refuse])

@[simp] theorem serveOp_canonical (op r s) : memory.Stays s (serveOp op r s) := by
  refine .intro ?_
  unfold serveOp
  split <;> simp

@[simp] theorem takeSlot_canonical (op r check s) : memory.Stays s (takeSlot op r check s) := .intro (by simp [takeSlot])

@[simp] theorem admitCommand_canonical (op r check s) : memory.Stays s (admitCommand op r check s) := by
  refine .intro ?_
  unfold admitCommand
  dsimp only
  repeat' split
  all_goals simp

@[simp] theorem accept_canonical (p b s) : memory.Stays s (accept p b s) := .intro (by simp [accept])

@[simp] theorem drainCmd_canonical (p n s) : memory.Stays s (drainCmd p n s) := by
  induction n generalizing s with
  | zero => exact .intro (memory.refl s)
  | succ n ih => exact .intro (by simp [drainCmd, ih])

@[simp] theorem feedCmd_canonical (p data s) : memory.Stays s (feedCmd p data s) := .intro (by simp [feedCmd])
@[simp] theorem readLatch_canonical (p a n s) : memory.Stays s (readLatch p a n s) := .intro (by simp [readLatch])
@[simp] theorem commitWrite_canonical (p l s) : memory.Stays s (commitWrite p l s) := .intro (by simp [commitWrite])

@[simp] theorem noteResult_canonical (p fseq code s) : memory.Stays s (noteResult p fseq code s) :=
  .intro (by simp [noteResult])

@[simp] theorem restartWatchdog_canonical (p s) : memory.Stays s (restartWatchdog p s) := .intro (by simp [restartWatchdog])
@[simp] theorem refuseBit_canonical (p s) : memory.Stays s (refuseBit p s) := .intro (by simp [refuseBit])

@[simp] theorem chainSubmit_canonical (op p c d) (body : Req → Ch → State → Res) (s : State)
    (hb : ∀ r c u, memory.rel u (body r c u).state) : memory.Stays s (chainSubmit op p c d body s) :=
  .intro (by simp [chainSubmit, hb])

@[simp] theorem chainSet_canonical (p c on s) : memory.Stays s (chainSet p c on s) := .intro (by simp [chainSet])

@[simp] theorem chainDone_canonical (n p c s) : memory.Stays s (chainDone n p c s) := by
  refine .intro ?_
  unfold chainDone
  split <;> simp

@[simp] theorem slotDuty_canonical (p k c s) : memory.Stays s (slotDuty p k c s) := .intro (by simp [slotDuty])

@[simp] theorem slotBit_canonical (p c on s) : memory.Stays s (slotBit p c on s) := by
  refine .intro ?_
  unfold slotBit
  dsimp only
  repeat' split
  all_goals simp

@[simp] theorem applySlot_canonical (p b s) : memory.Stays s (applySlot p b s) := by
  refine .intro ?_
  unfold applySlot
  split <;> simp

@[simp] theorem rejectSlot_canonical (p s) : memory.Stays s (rejectSlot p s) := .intro (by simp [rejectSlot])

@[simp] theorem slotTransfer_canonical (p edges bytes rdyAtFall s) :
    memory.Stays s (slotTransfer p edges bytes rdyAtFall s) := .intro (by simp [slotTransfer])

@[simp] theorem chainFrameSlot_canonical (p b s) : memory.Stays s (chainFrameSlot p b s) := .intro (by simp [chainFrameSlot])

@[simp] theorem frame_canonical (p f s) : memory.Stays s (frame p f s) := by
  refine .intro ?_
  unfold frame
  dsimp only
  repeat' split
  all_goals simp

@[simp] theorem transfer_canonical (p f s) : memory.Stays s (transfer p f s) := .intro (by simp [transfer])
@[simp] theorem sendBytes_canonical (p l s) : memory.Stays s (sendBytes p l s) := .intro (by simp [sendBytes])
@[simp] theorem sendWrite_canonical (p fseq a d s) : memory.Stays s (sendWrite p fseq a d s) := .intro (by simp [sendWrite])

@[simp] theorem sendRead_canonical (p fseq a n good s) : memory.Stays s (sendRead p fseq a n good s) :=
  .intro (by simp [sendRead])

@[simp] theorem sendSlot_canonical (p b s) : memory.Stays s (sendSlot p b s) := .intro (by simp [sendSlot])

/-! ### The MRAM: starts, rows of records, security and switches -/

@[simp] theorem resetPulse_canonical (s) : memory.Stays s (resetPulse s) := .intro (by simp [resetPulse])
@[simp] theorem nreset_canonical (lowNs s) : memory.Stays s (nreset lowNs s) := .intro (by simp [nreset])
@[simp] theorem firstFlush_canonical (s) : memory.Stays s (firstFlush s) := .intro (by simp [firstFlush])

@[simp] theorem settlePlans_canonical (s) : memory.Stays s (settlePlans s) :=
  overAll_stays memory _ _ _ fun b u => by split <;> simp

@[simp] theorem reloadDatapaths_canonical (s) : memory.Stays s (reloadDatapaths s) := .intro (by simp [reloadDatapaths])
@[simp] theorem noteWarmLost_canonical (s) : memory.Stays s (noteWarmLost s) := .intro (by simp [noteWarmLost])
@[simp] theorem countTrial_canonical (s) : memory.Stays s (countTrial s) := .intro (by simp [countTrial])
@[simp] theorem warmNow_canonical (cause b s) : memory.Stays s (warmNow cause b s) := .intro (by simp [warmNow])
@[simp] theorem scanLegal_canonical (s) : memory.Stays s (scanLegal s) := .intro (by simp [scanLegal])
@[simp] theorem writeTorn_canonical (s) : memory.Stays s (writeTorn s) := .intro (by simp [writeTorn])
@[simp] theorem coldLinks_canonical (was s) : memory.Stays s (coldLinks was s) := .intro (by simp [coldLinks])
@[simp] theorem coldTimes_canonical (tunc s) : memory.Stays s (coldTimes tunc s) := .intro (by simp [coldTimes])

@[simp] theorem coldPlant_canonical (held f powered now s) : memory.Stays s (coldPlant held f powered now s) :=
  .intro (by simp [coldPlant])

@[simp] theorem coldRecord_canonical (kind cause s) : memory.Stays s (coldRecord kind cause s) :=
  .intro (by simp [coldRecord])

@[simp] theorem noteTrial_canonical (s) : memory.Stays s (noteTrial s) := .intro (by simp [noteTrial])

@[simp] theorem tearRecord_canonical (left r s) : memory.Stays s (tearRecord left r s) := by
  refine .intro ?_
  unfold tearRecord
  dsimp only
  repeat' split
  all_goals simp

@[simp] theorem loseSeal_canonical (lost waiting s) : memory.Stays s (loseSeal lost waiting s) := by
  refine .intro ?_
  unfold loseSeal
  split <;> exact memory.refl s

@[simp] theorem powerFlush_canonical (s) : memory.Stays s (powerFlush s) := by
  refine .intro ?_
  unfold powerFlush
  extract_lets t lost s1 s2 s3 s4
  have h2 : memory.rel s s2 := by simp [s2, s1]
  refine memory.trans h2 ?_
  clear_value s2 lost
  have h3 : memory.rel s2 s3 := by
    simp only [s3]
    split <;> simp
  have h4 : memory.rel s2 s4 := h3
  refine memory.trans h4 ?_
  clear_value s4
  split
  · split <;> simp
  · simp

@[simp] theorem powerFail_canonical (s) : memory.Stays s (powerFail s) := .intro (by simp [powerFail])
@[simp] theorem linksBack_canonical (before s) : memory.Stays s (linksBack before s) := .intro (by simp [linksBack])
@[simp] theorem leaveMarks_canonical (kind f s) : memory.Stays s (leaveMarks kind f s) := .intro (by simp [leaveMarks])
@[simp] theorem recoveryNow_canonical (cause s) : memory.Stays s (recoveryNow cause s) := .intro (by simp [recoveryNow])

@[simp] theorem recoveryStart_canonical (s) : memory.Stays s (recoveryStart s) := by
  refine .intro ?_
  unfold recoveryStart
  split <;> simp

@[simp] theorem flushRow_canonical (s) : memory.Stays s (flushRow s) := .intro (by simp [flushRow])

@[simp] theorem trialRevert_canonical (why s) : memory.Stays s (trialRevert why s) := by
  refine .intro ?_
  unfold trialRevert
  split
  · simp
  · split <;> simp

@[simp] theorem trialWarning_canonical (s) : memory.Stays s (trialWarning s) := .intro (by simp [trialWarning])
@[simp] theorem clearFails_canonical (s) : memory.Stays s (clearFails s) := .intro (by simp [clearFails])
@[simp] theorem eventBlockClose_canonical (p s) : memory.Stays s (eventBlockClose p s) := .intro (by simp [eventBlockClose])

@[simp] theorem streamBlockClose_canonical (p c s) : memory.Stays s (streamBlockClose p c s) :=
  .intro (by simp [streamBlockClose])

@[simp] theorem openLoadFrame_canonical (h c s) : memory.Stays s (openLoadFrame h c s) := .intro (by simp [openLoadFrame])
@[simp] theorem watchChan_canonical (c s) : memory.Stays s (watchChan c s) := .intro (by simp [watchChan])
@[simp] theorem seqFrame_canonical (c s) : memory.Stays s (seqFrame c s) := .intro (by simp [seqFrame])
@[simp] theorem meterFrame_canonical (b h s) : memory.Stays s (meterFrame b h s) := .intro (by simp [meterFrame])
@[simp] theorem refreshImage_canonical (b s) : memory.Stays s (refreshImage b s) := .intro (by simp [refreshImage])
@[simp] theorem noteAllOff_canonical (b s) : memory.Stays s (noteAllOff b s) := .intro (by simp [noteAllOff])
@[simp] theorem housekeeping_canonical (b raw s) : memory.Stays s (housekeeping b raw s) := .intro (by simp [housekeeping])

@[simp] theorem vholdCharged_canonical (capUf vholdMv s) : memory.Stays s (vholdCharged capUf vholdMv s) :=
  .intro (by simp [vholdCharged])

@[simp] theorem commonFaultExpiry_canonical (s) : memory.Stays s (commonFaultExpiry s) :=
  .intro (by simp [commonFaultExpiry])

@[simp] theorem secAttest_canonical (r s) : memory.Stays s (secAttest r s).state := .intro (by simp [secAttest])
@[simp] theorem secCert_canonical (r s) : memory.Stays s (secCert r s).state := .intro (by simp [secCert])
@[simp] theorem setKey_canonical (act key s) : memory.Stays s (setKey act key s) := .intro (by simp [setKey])
@[simp] theorem readKey_canonical (r s) : memory.Stays s (readKey r s).state := .intro (by simp [readKey])
@[simp] theorem spendNonce_canonical (p s) : memory.Stays s (spendNonce p s) := .intro (by simp [spendNonce])

@[simp] theorem secOwnerkey_canonical (r s) : memory.Stays s (secOwnerkey r s).state := by
  refine .intro ?_
  unfold secOwnerkey
  dsimp only
  split <;> simp

@[simp] theorem fuseTrip_canonical (c kind s) : memory.Stays s (fuseTrip c kind s) := .intro (by simp [fuseTrip])
@[simp] theorem wireTrip_canonical (c s) : memory.Stays s (wireTrip c s) := .intro (by simp [wireTrip])
@[simp] theorem fuseTableTrip_canonical (c s) : memory.Stays s (fuseTableTrip c s) := .intro (by simp [fuseTableTrip])
@[simp] theorem currentLimit_canonical (c on s) : memory.Stays s (currentLimit c on s) := .intro (by simp [currentLimit])
@[simp] theorem thermLatch_canonical (c kind s) : memory.Stays s (thermLatch c kind s) := .intro (by simp [thermLatch])
@[simp] theorem endHold_canonical (c s) : memory.Stays s (endHold c s) := .intro (by simp [endHold])
@[simp] theorem autoRestart_canonical (c s) : memory.Stays s (autoRestart c s) := .intro (by simp [autoRestart])

@[simp] theorem thermalDecide_canonical (c s) : memory.Stays s (thermalDecide c s) := by
  refine .intro ?_
  unfold thermalDecide
  split <;> simp

@[simp] theorem setDt_canonical (c dt s) : memory.Stays s (setDt c dt s) := .intro (by simp [setDt])
@[simp] theorem thermalAgain_canonical (c dt s) : memory.Stays s (thermalAgain c dt s) := .intro (by simp [thermalAgain])

@[simp] theorem thermalAbsolute_canonical (c tj dt s) : memory.Stays s (thermalAbsolute c tj dt s) :=
  .intro (by simp [thermalAbsolute])

@[simp] theorem sensingChanged_canonical (c was s) : memory.Stays s (sensingChanged c was s) :=
  .intro (by simp [sensingChanged])

@[simp] theorem sensingFault_canonical (c wholeBank s) : memory.Stays s (sensingFault c wholeBank s) :=
  .intro (by simp [sensingFault])

@[simp] theorem swReport_canonical (c k kind f on s) : memory.Stays s (swReport c k kind f on s) :=
  .intro (by simp [swReport])

@[simp] theorem onOpenLoad_canonical (c on s) : memory.Stays s (onOpenLoad c on s) := .intro (by simp [onOpenLoad])
@[simp] theorem offOpenLoad_canonical (c on s) : memory.Stays s (offOpenLoad c on s) := .intro (by simp [offOpenLoad])
@[simp] theorem shortSupply_canonical (c on s) : memory.Stays s (shortSupply c on s) := .intro (by simp [shortSupply])
@[simp] theorem reverseHold_canonical (c vp s) : memory.Stays s (reverseHold c vp s) := .intro (by simp [reverseHold])
@[simp] theorem reverseHoldEnd_canonical (c x s) : memory.Stays s (reverseHoldEnd c x s) := .intro (by simp [reverseHoldEnd])
@[simp] theorem pulseTo_canonical (c on s) : memory.Stays s (pulseTo c on s) := .intro (by simp [pulseTo])

@[simp] theorem pulseOn_canonical (c m t s) : memory.Stays s (pulseOn c m t s) := by
  refine .intro ?_
  unfold pulseOn
  dsimp only
  split <;> simp

@[simp] theorem pulseOff_canonical (c m s) : memory.Stays s (pulseOff c m s) := .intro (by simp [pulseOff])

@[simp] theorem pulseEdge_canonical (c on m s) : memory.Stays s (pulseEdge c on m s) := by
  refine .intro ?_
  unfold pulseEdge
  split
  · simp
  · split <;> simp

@[simp] theorem inrushLearning_canonical (c ipk qin i100 s) :
    memory.Stays s (inrushLearning c ipk qin i100 s) := .intro (by simp [inrushLearning])

@[simp] theorem parityFlaw_canonical (c s) : memory.Stays s (parityFlaw c s) := .intro (by simp [parityFlaw])

@[simp] theorem sequencerFault_canonical (c watchdog s) : memory.Stays s (sequencerFault c watchdog s) :=
  .intro (by simp [sequencerFault])

@[simp] theorem sequencerReloaded_canonical (c s) : memory.Stays s (sequencerReloaded c s) :=
  .intro (by simp [sequencerReloaded])

@[simp] theorem tickEffects_canonical (s) : memory.Stays s (tickEffects s) := .intro (by simp [tickEffects])

/-! ### The MRAM: the seal, LGL.DECLARE, TSYNC, the starts and the tick -/

@[simp] theorem takeSeal_canonical (v s) : memory.Stays s (takeSeal v s) := .intro (by simp [takeSeal, setSeal])
@[simp] theorem sealChange_canonical (x s) : memory.Stays s (sealChange x s) := .intro (by simp [sealChange])
@[simp] theorem compareSeal_canonical (v s) : memory.Stays s (compareSeal v s) := .intro (by simp [compareSeal])
@[simp] theorem stepForward_canonical (k s) : memory.Stays s (stepForward k s) := .intro id
@[simp] theorem align_canonical (target now s) : memory.Stays s (align target now s) := .intro (by simp [align])
@[simp] theorem tsyncEdge_canonical (ns s) : memory.Stays s (tsyncEdge ns s) := .intro (by simp [tsyncEdge])
@[simp] theorem declareNow_canonical (p mask s) : memory.Stays s (declareNow p mask s) := .intro (by simp [declareNow])
@[simp] theorem lglDeclare_canonical (r s) : memory.Stays s (lglDeclare r s).state := .intro (by simp [lglDeclare])
@[simp] theorem coldBegin_canonical (f s) : memory.Stays s (coldBegin f s) := .intro (by simp [coldBegin])
@[simp] theorem coldRecords_canonical (f cause s) : memory.Stays s (coldRecords f cause s) := .intro (by simp [coldRecords])
@[simp] theorem coldNow_canonical (f cause s) : memory.Stays s (coldNow f cause s) := .intro (by simp [coldNow])
@[simp] theorem cutStart_canonical (k f cause s) : memory.Stays s (cutStart k f cause s) := .intro (by simp [cutStart])

@[simp] theorem beginStart_canonical (k f s) : memory.Stays s (beginStart k f s) := by
  refine .intro ?_
  cases k <;> simp [beginStart]

@[simp] theorem startFails_canonical (k n f s) : memory.Stays s (startFails k n f s) := .intro (by simp [startFails])

@[simp] theorem warmStart_canonical (ok s) : memory.Stays s (warmStart ok s) := by
  refine .intro ?_
  unfold warmStart
  split <;> simp

@[simp] theorem coldRun_canonical (f cause s) : memory.Stays s (coldRun f cause s) := by
  refine .intro ?_
  unfold coldRun
  dsimp only
  split <;> simp

@[simp] theorem coldStart_canonical (f s) : memory.Stays s (coldStart f s) := by
  refine .intro ?_
  unfold coldStart
  split
  · simp
  · split <;> simp

@[simp] theorem failedStart_canonical (x s) : memory.Stays s (failedStart x s) := by
  refine .intro ?_
  unfold failedStart
  split
  · simp
  · split <;> simp

@[simp] theorem tickClocks_canonical (s) : memory.Stays s (tickClocks s) := .intro id
@[simp] theorem tick_canonical (s) : memory.Stays s (tick s) := .intro (by simp [tick])

/-! ### What every command keeps of it -/

theorem exec_canonical (c : Instr) {s t : State} (h : exec c s = .next t) : memory.rel s t := by
  cases c
  all_goals
    obtain rfl := Host.Outcome.next.inj h
    simp

/-- Settles O5: the tick and every command keep the MRAM canonical. -/
theorem stepKeepsMemoryCanonical : Obligations.StepKeepsMemoryCanonical := by
  intro s t hs h
  unfold step at h
  split at h
  · obtain rfl := Host.Outcome.next.inj h
    exact memory.keeps (tick_canonical ..) hs
  · next c rest _ => exact exec_canonical c (s := { s with pending := rest }) h hs

end Sys2Proof.Machine
end

section
/-! PROOFS. What leaves every output where it stands: ends of modem transactions, internal operations, streams, records and events.
Of the channels modems, restores and what governs them at levels 4 and 5 may change, of the system state the internal slots. -/

namespace Sys2Proof.Machine

/-- The system state without its internal operations. -/
def Sys.besidesInternal (y : Sys) : Sys := { y with internal := [], accepted := 0 }

/-- A channel without its modem's buffers, its restore and what levels 4 and 5 demand. -/
def Chan.poise (ch : Chan) : Chan :=
  { ch with
    l5 := .off
    acts := []
    presag := none
    shedOff := false
    restore := .none
    mdm := .reset .off
    loop := { ch.loop with alarm := false, fallback := false } }

/-- Every output stands as it stood. -/
structure Poised (s t : State) : Prop where
  sys : t.sys.besidesInternal = s.sys.besidesInternal
  chan : ∀ c : Ch, (t.ch c).poise = (s.ch c).poise

theorem Poised.refl (s : State) : Poised s s := ⟨rfl, fun _ => rfl⟩

theorem Poised.trans {s t u : State} (a : Poised s t) (b : Poised t u) : Poised s u :=
  ⟨b.sys.trans a.sys, fun c => (b.chan c).trans (a.chan c)⟩

theorem Poised.out {s t : State} (h : Poised s t) (c : Ch) : (t.ch c).out = (s.ch c).out := (congrArg Chan.out (h.chan c) :)

theorem Poised.conducting {s t : State} (h : Poised s t) (c : Ch) : (t.ch c).conducting = (s.ch c).conducting :=
  (congrArg Chan.conducting (h.chan c) :)

theorem Poised.failedEngines {s t : State} (h : Poised s t) : t.sys.failedEngines = s.sys.failedEngines :=
  (congrArg Sys.failedEngines h.sys :)

theorem Poised.startDue {s t : State} (h : Poised s t) : t.sys.startDue = s.sys.startDue := (congrArg Sys.startDue h.sys :)

theorem Poised.startAt {s t : State} (h : Poised s t) : t.sys.startAt = s.sys.startAt := (congrArg Sys.startAt h.sys :)

theorem Poised.now {s t : State} (h : Poised s t) : t.sys.now = s.sys.now := (congrArg Sys.now h.sys :)

theorem RecordsOnly.poised {s t : State} (h : RecordsOnly s t) : Poised s t :=
  ⟨by rw [h.sys], fun c => by rw [State.ch, State.ch, h.chans]⟩

theorem setCh_poised (c : Ch) (f : Chan → Chan) (s : State) (h : ∀ ch, (f ch).poise = ch.poise) : Poised s (s.setCh c f) := by
  refine ⟨rfl, fun d => ?_⟩
  by_cases e : d = c
  · subst e
    rw [State.setCh_ch_self, h]
  · rw [State.setCh_ch_ne s c f d e]

theorem setHolm_poised (b : Bank) (f : Holm → Holm) (s : State) : Poised s (s.setHolm b f) := ⟨rfl, fun _ => rfl⟩

theorem overAll_poised {α : Type} {l : List α} {f : α → State → State} (h : ∀ a s, Poised s (f a s)) (s : State) :
    Poised s (overAll l f s) := by
  unfold overAll
  induction l generalizing s with
  | nil => exact .refl s
  | cons a l ih => exact (h a s).trans (ih (f a s))

theorem mdmEvent_records (c : Ch) (kind : Byte) (s : State) : RecordsOnly s (mdmEvent c kind s) :=
  (raise_records ..).trans (denEvent_records ..)

theorem mdmPush_poised (c : Ch) (e : MdmEntry) (s : State) : Poised s (mdmPush c e s) := by
  unfold mdmPush
  split
  · exact (setCh_poised c (fun ch => { ch with mdm := { ch.mdm with rx := ch.mdm.rx ++ [e] } }) s fun _ => rfl).trans
      (mdmEvent_records ..).poised
  · exact (mdmEvent_records ..).poised

theorem mdmAbort_poised (c : Ch) (s : State) : Poised s (mdmAbort c s) := by
  unfold mdmAbort
  extract_lets m ts u
  have h : Poised s u := setCh_poised c _ s fun _ => rfl
  exact h.trans (overAll_poised (fun _ _ => mdmPush_poised ..) u)

theorem setInternal_poised (f : List IntOp → List IntOp) (s : State) :
    Poised s (s.setSys (fun y => { y with internal := f y.internal })) := ⟨rfl, fun _ => rfl⟩

theorem arise_poised (o : IntOp) (s : State) : Poised s (arise o s) := by
  have h := setInternal_poised (· ++ [o]) s
  unfold arise
  dsimp only
  split
  · exact h.trans (raise_records ..).poised
  · exact h

theorem pushUnits_records (p : Port) (c : Ch) (l : List (List Byte)) (s : State) : RecordsOnly s (pushUnits p c l s) := by
  unfold pushUnits
  split
  · exact .refl s
  · split
    · exact (setPort_records ..).trans (noteDrop_records ..)
    · exact setPort_records ..

theorem pushHeld_records (c : Ch) (x : HeldUnits) (s : State) : RecordsOnly s (pushHeld c x s) := by
  unfold pushHeld
  extract_lets late t
  have h : RecordsOnly s t := pushUnits_records ..
  split
  · exact h.trans (setPort_records ..)
  · exact h

/-- Late stream records reach their ports: nothing besides records and the Holm's buffer. -/
theorem flushStream_poised (b : Bank) (s : State) : Poised s (flushStream b s) := by
  unfold flushStream
  split
  · exact (setHolm_poised ..).trans (overAll_records (fun e u => overAll_records (fun x v => pushHeld_records ..) u) _).poised
  · exact .refl s

end Sys2Proof.Machine
end

section
/-! PROOFS. Engine failures and recoveries (R11, R17 to R19, R385, R390, R391): what a failure stops, what a recovery ends and what
schedules a warm start. -/

namespace Sys2Proof.Machine

/-! ### What stops with an engine -/

/-- The engine is noted as failed, stops, and its reload asks for an internal slot (R19, R314, R390). -/
def failing (e : Engine) (cause : Byte) (s : State) : State :=
  arise (.load e) (engineStops e (s.setSys (fun y => { y with failedEngines := y.failedEngines ++ [FailedEngine.mk e cause y.now] })))

theorem engineStops_poised (e : Engine) (s : State) : Poised s (engineStops e s) := by
  unfold engineStops
  split
  · split
    · exact (setPort_records ..).poised
    · split
      · exact overAll_poised (fun c u => mdmAbort_poised c u) s
      · split
        · exact overAll_poised (fun c u => mdmAbort_poised c u) s
        · exact .refl s
  · exact .refl s
  · exact setHolm_poised ..

theorem failing_poised (e : Engine) (cause : Byte) (s : State) :
    Poised (s.setSys (fun y => { y with failedEngines := y.failedEngines ++ [FailedEngine.mk e cause y.now] }))
      (failing e cause s) := (engineStops_poised ..).trans (arise_poised ..)

theorem failing_failedEngines (e : Engine) (cause : Byte) (s : State) :
    (failing e cause s).sys.failedEngines = s.sys.failedEngines ++ [FailedEngine.mk e cause s.sys.now] :=
  (failing_poised e cause s).failedEngines

theorem failing_startDue (e : Engine) (cause : Byte) (s : State) : (failing e cause s).sys.startDue = s.sys.startDue :=
  (failing_poised e cause s).startDue

theorem failing_outputs (e : Engine) (cause : Byte) (s : State) (c : Ch) :
    ((failing e cause s).ch c).out = (s.ch c).out ∧ ((failing e cause s).ch c).conducting = (s.ch c).conducting :=
  ⟨(failing_poised e cause s).out c, (failing_poised e cause s).conducting c⟩

theorem arise_besides (o : IntOp) (s : State) (p : Port) : ((arise o s).port p).besidesEvents = (s.port p).besidesEvents := by
  unfold arise
  dsimp only
  split
  · exact (raise_events ..).besides
  · rfl

theorem engineStops_portCore (p : Port) (s : State) :
    engineStops (.core (portCore p)) s = s.setPort p (fun q => { q.freeze s.sys.now with cmdBuf := [] }) := by
  fin_cases p <;> rfl

/-- A port core that fails takes RDY from its port and drops the command that is partly written (R19, R293). -/
theorem failing_port (p : Port) (cause : Byte) (s : State) :
    ((failing (.core (portCore p)) cause s).port p).rdy = false ∧
      ((failing (.core (portCore p)) cause s).port p).cmdBuf = [] := by
  have h := arise_besides (.load (.core (portCore p))) (engineStops (.core (portCore p)) (s.setSys (fun y =>
    { y with failedEngines := y.failedEngines ++ [FailedEngine.mk (.core (portCore p)) cause y.now] }))) p
  rw [engineStops_portCore, State.setPort_port_self, ← engineStops_portCore] at h
  refine ⟨(congrArg PortSt.rdy h).trans ?_, (congrArg PortSt.cmdBuf h :)⟩
  simp only [PortSt.besidesEvents, PortSt.freeze]
  split
  · rfl
  · simp_all

theorem arise_chans (o : IntOp) (s : State) : (arise o s).chans = s.chans := by
  unfold arise
  dsimp only
  split
  · exact (raise_records ..).chans
  · rfl

theorem failing_core0_chans (cause : Byte) (s : State) : (failing (.core 0) cause s).chans = s.chans := arise_chans ..

/-! ### Failure and escalation -/

theorem engineDown_of_none {s : State} (h : s.sys.failedEngines = []) (e : Engine) : s.engineDown e = false := by
  simp [State.engineDown, h]

theorem failEngine_first {e : Engine} (cause : Byte) {s : State} (h : s.sys.failedEngines = [])
    (hr : s.recentlyRecovered e = false) : failEngine e cause s = failing e cause s := by
  simp [failEngine, failing, engineDown_of_none h, h, hr]

theorem failEngine_escalates {e : Engine} (cause : Byte) {s : State} (hd : s.engineDown e = false)
    (h : s.recentlyRecovered e = true ∨ s.sys.failedEngines ≠ []) :
    failEngine e cause s = leaveOperation 3 (failing e cause s) := by
  have he : (!s.sys.failedEngines.isEmpty || s.recentlyRecovered e) = true := by
    rcases h with h | h <;> simp [h]
  simp [failEngine, failing, hd, he]

/-- More than 1 s after RDY and with no start due, the device leaves operation by a warm start (R385, R392). -/
theorem leaveOperation_late {s : State} (k : BitVec 8) (hd : s.sys.startDue = []) (ha : s.sys.startAt + 10000000 ≤ s.sys.now) :
    leaveOperation k s = scheduleStart .warm k s := by
  simp [leaveOperation, hd, Nat.not_lt.mpr ha]

/-- A warm start of a cause is the one start that is due, now, and every output is as it was. -/
def Warm (s : State) (k : BitVec 8) (t : State) : Prop :=
  t.sys.startDue = [StartDue.mk .warm s.sys.now k] ∧
    ∀ c : Ch, (t.ch c).out = (s.ch c).out ∧ (t.ch c).conducting = (s.ch c).conducting

theorem Poised.warm {s t : State} (h : Poised s t) (k : BitVec 8) (hd : s.sys.startDue = [])
    (ha : s.sys.startAt + 10000000 ≤ s.sys.now) : Warm s k (leaveOperation k t) := by
  rw [leaveOperation_late k (h.startDue.trans hd) (by rw [h.startAt, h.now]; exact ha)]
  refine ⟨?_, fun c => ⟨h.out c, h.conducting c⟩⟩
  simp [scheduleStart, h.startDue, hd, h.now]

theorem failing_warm (e : Engine) (cause : Byte) {s : State} (k : BitVec 8) (hd : s.sys.startDue = [])
    (ha : s.sys.startAt + 10000000 ≤ s.sys.now) : Warm s k (leaveOperation k (failing e cause s)) :=
  (failing_poised e cause s).warm k hd ha

theorem recordDbe_records (code : Byte) (s : State) : RecordsOnly s (recordDbe code s) := denEvent_records ..

theorem loseRecord_records (hit : Option Nat) (s : State) : RecordsOnly s (loseRecord hit s) := by
  unfold loseRecord
  split
  · split
    · exact setDen_records ..
    · exact .refl s
  · exact .refl s

/-- The lockstep checker fires again within 1 s or during another recovery, C0's own included (R391). -/
theorem lockstepFault_warm {s : State} (hv : s.sys.vddOk = true) (hd : s.sys.startDue = [])
    (ha : s.sys.startAt + 10000000 ≤ s.sys.now) (h : s.recentlyRecovered (.core 0) = true ∨ s.sys.failedEngines ≠ []) :
    Warm s 3 (lockstepFault s) := by
  rw [lockstepFault, if_neg (by simp [hv])]
  split
  · exact (Poised.refl s).warm 3 hd ha
  · next hn =>
    rw [failEngine_escalates _ (by simpa using hn) h]
    exact failing_warm _ _ 3 hd ha

/-! ### Recovery -/

/-- The failed engine is noted no longer, and its internal slot is free (R314, R390). -/
def reloaded (e : Engine) (s : State) : State :=
  endInternal (.load e) (s.setSys (fun y => { y with failedEngines := y.failedEngines.filter (fun x => x.engine != e) }))

theorem engineRecovery_good {f : FailedEngine} {s : State} (hv : s.sys.vddOk = true) (h : s.sys.failedEngines = [f])
    (hw : s.internalWaits (.load f.engine) = false) (hl : s.loadWaits f.engine = false) :
    engineRecovery f.engine true s = noteRecovery f.engine f.cause (detectUs f.engine f.cause + (s.sys.now - f.at_) / 10)
      (engineResumes f.engine (reloaded f.engine s)) := by
  simp [engineRecovery, reloaded, h, hv, hw, hl]

theorem engineRecovery_bad {f : FailedEngine} {s : State} (hv : s.sys.vddOk = true) (h : s.sys.failedEngines = [f])
    (hw : s.internalWaits (.load f.engine) = false) (hl : s.loadWaits f.engine = false) :
    engineRecovery f.engine false s = leaveOperation 3 s := by
  simp [engineRecovery, h, hv, hw, hl]

theorem noteRecovery_sys (e : Engine) (cause : Byte) (us : Nat) (s : State) : (noteRecovery e cause us s).sys =
    { s.sys with recoveries := (e, s.sys.now) :: s.sys.recoveries.filter (fun r => r.1 != e) } :=
  ((denWrite_records ..).trans (raise_records ..)).sys

theorem noteRecovery_chans (e : Engine) (cause : Byte) (us : Nat) (s : State) : (noteRecovery e cause us s).chans = s.chans :=
  ((denWrite_records ..).trans (raise_records ..)).chans

theorem noteRecovery_latched (e : Engine) (cause : Byte) (us : Nat) (s : State) : (noteRecovery e cause us s).latched 248 :=
  raise_latched 248 _ _ (by decide)

theorem noteRecovery_calm (e : Engine) (cause : Byte) (us : Nat) (s : State) : calm.rel s (noteRecovery e cause us s) := by
  simp [noteRecovery]

theorem engineResumes_portCore (p : Port) (s : State) :
    engineResumes (.core (portCore p)) s = s.setPort p (·.serve s.sys.now) := by
  fin_cases p <;> rfl

theorem engineResumes_failedEngines (e : Engine) (s : State) : (engineResumes e s).sys.failedEngines = s.sys.failedEngines := by
  unfold engineResumes
  split
  · split
    · rfl
    · refine (?_ : calm.rel s _).failedEngines
      simp
  · rfl
  · rfl

theorem engineResumes_now (e : Engine) (s : State) : (engineResumes e s).sys.now = s.sys.now := now_of_anchor (engineResumes_anchor e s)

/-- C6 raises EV206 for its ledgers (R218). -/
theorem engineResumes_core6_latched (s : State) : (engineResumes (.core 6) s).latched 206 := by
  have h : (raise 206 [2, 0xFF, 0, 0] (readLedgers s)).latched 206 := raise_latched 206 _ _ (by decide)
  have hc : calm.rel (raise 206 [2, 0xFF, 0, 0] (readLedgers s)) (engineResumes (.core 6) s) := by
    change calm.rel _ (submitRestores 0 (submitRestores 1 (evaluate (raise 206 [2, 0xFF, 0, 0] (readLedgers s)))))
    simp
  exact Calm.latched hc h

theorem flush_poised (s : State) : Poised s (flush s) := (flush_records s).poised

/-- What resumes with any engine but C6 leaves the outputs. -/
theorem engineResumes_poised {e : Engine} (s : State) (h : e ≠ .core 6) : Poised s (engineResumes e s) := by
  unfold engineResumes
  split
  · next n =>
    have h6 : n ≠ 6 := fun k => h (by rw [k])
    rw [if_neg h6]
    split
    · exact (setPort_records ..).poised
    · split
      · exact flushStream_poised ..
      · split
        · exact flushStream_poised ..
        · split
          · split
            · exact .refl s
            · exact flush_poised s
          · exact .refl s
  · exact .refl s
  · exact .refl s

theorem thresholdEvents_chans (s : State) : (thresholdEvents s).chans = s.chans := by
  unfold thresholdEvents
  refine overAll_keeps (·.chans) (fun k u => ?_) s
  dsimp only
  split
  · split
    · exact (raise_records ..).chans
    · rfl
  · split
    · exact (raise_records ..).chans
    · rfl

theorem thresholdEvents_sys (s : State) : (thresholdEvents s).sys = s.sys := by
  unfold thresholdEvents
  refine overAll_keeps (·.sys) (fun k u => ?_) s
  dsimp only
  split
  · split
    · exact (raise_records ..).sys
    · rfl
  · split
    · exact (raise_records ..).sys
    · rfl

/-- An evaluation without a head reports and no more (R240, R241). -/
theorem evaluate_headless {s : State} (h : s.badger.heads = []) :
    (evaluate s).chans = s.chans ∧ (evaluate s).sys = s.sys := by
  unfold evaluate
  split
  · exact ⟨rfl, rfl⟩
  · simp [h, sortHeads, thresholdEvents_chans, thresholdEvents_sys]

theorem rebuildLedgers_headless {s : State} (h : s.badger.heads = []) :
    (rebuildLedgers s).chans = s.chans ∧ (rebuildLedgers s).sys = s.sys := by
  have r := raise_records 206 [2, 0xFF, 0, 0] (readLedgers s)
  have e := evaluate_headless (s := raise 206 [2, 0xFF, 0, 0] (readLedgers s)) (by rw [r.badger]; exact h)
  exact ⟨e.1.trans r.chans, e.2.trans r.sys⟩

theorem tellShedEnd_poised (b : Bank) (n : Nat) (s : State) : Poised s (tellShedEnd b n s) := by
  unfold tellShedEnd
  split
  · split
    · exact (setHolm_poised ..).trans (raise_records ..).poised
    · exact .refl s
  · exact .refl s

/-- No channel waits for a restore. -/
def State.unsagged (s : State) : Prop := ∀ c : Ch, (s.ch c).presag = none

theorem submitRestore_unsagged {s : State} (h : s.unsagged) (c : Ch) : submitRestore c s = s := by simp [submitRestore, h c]

theorem submitRestoreList_unsagged {s : State} (h : s.unsagged) (l : List Ch) : overAll l submitRestore s = s := by
  unfold overAll
  induction l with
  | nil => rfl
  | cons c l ih => rwa [List.foldl_cons, submitRestore_unsagged h]

theorem tellShedEnd_chans (b : Bank) (n : Nat) (s : State) : (tellShedEnd b n s).chans = s.chans := by
  unfold tellShedEnd
  split
  · split
    · exact (raise_records ..).chans
    · rfl
  · rfl

/-- The pre-sag state of a channel that waits for no restore is dropped (R252). -/
def dropSag (c : Ch) (s : State) : State :=
  if (s.ch c).restore == .none && !(s.ch c).locks.anySupply then
    s.setCh c (fun ch => { ch with presag := none, shedOff := false })
  else s.setCh c (fun ch => { ch with shedOff := false })

theorem dropSag_poised (c : Ch) (s : State) : Poised s (dropSag c s) := by
  unfold dropSag
  split
  · exact setCh_poised c _ s fun _ => rfl
  · exact setCh_poised c _ s fun _ => rfl

theorem setCh_unsagged {s : State} (h : s.unsagged) (c : Ch) (f : Chan → Chan) (hf : ∀ ch, ch.presag = none → (f ch).presag = none) :
    (s.setCh c f).unsagged := by
  intro d
  by_cases e : d = c
  · subst e
    rw [State.setCh_ch_self]
    exact hf _ (h d)
  · rw [State.setCh_ch_ne s c f d e]
    exact h d

theorem dropSag_unsagged {s : State} (h : s.unsagged) (c : Ch) : (dropSag c s).unsagged := by
  unfold dropSag
  split
  · exact setCh_unsagged h c _ fun _ _ => rfl
  · exact setCh_unsagged h c _ fun _ k => k

theorem dropSags_unsagged {s : State} (h : s.unsagged) (l : List Ch) : (overAll l dropSag s).unsagged := by
  unfold overAll
  induction l generalizing s with
  | nil => exact h
  | cons c l ih => exact ih (dropSag_unsagged h c)

theorem unsagged_of_chans {s t : State} (h : s.unsagged) (e : t.chans = s.chans) : t.unsagged := by
  intro c
  rw [State.ch, e]
  exact h c

theorem submitRestores_eq {s : State} (h : s.unsagged) (b : Bank) : submitRestores b s =
    if !s.restoresFree b then tellShedEnd b 0 s
    else tellShedEnd b (restoreList s b).length (overAll (bankChs b) dropSag s) := by
  unfold submitRestores
  dsimp only
  rw [submitRestoreList_unsagged h]
  rfl

/-- Where no channel waits for a restore none is submitted, and the outputs stand. -/
theorem submitRestores_unsagged {s : State} (h : s.unsagged) (b : Bank) :
    Poised s (submitRestores b s) ∧ (submitRestores b s).unsagged := by
  rw [submitRestores_eq h]
  split
  · exact ⟨tellShedEnd_poised .., unsagged_of_chans h (tellShedEnd_chans ..)⟩
  · exact ⟨(overAll_poised dropSag_poised s).trans (tellShedEnd_poised ..),
      unsagged_of_chans (dropSags_unsagged h _) (tellShedEnd_chans ..)⟩

theorem engineResumes_core6_poised {s : State} (hb : s.badger.heads = []) (hs : s.unsagged) :
    Poised s (engineResumes (.core 6) s) := by
  obtain ⟨hc, hy⟩ := rebuildLedgers_headless hb
  obtain ⟨p1, u1⟩ := submitRestores_unsagged (unsagged_of_chans hs hc) 1
  have p0 : Poised s (rebuildLedgers s) := ⟨by rw [hy], fun c => by rw [State.ch, State.ch, hc]⟩
  exact p0.trans (p1.trans (submitRestores_unsagged u1 0).1)

/-! ### The statement -/

/-- What the end of a reload leaves (R390, R391). -/
theorem engineRecovery_recovers {f : FailedEngine} {s : State} (hv : s.sys.vddOk = true) (h : s.sys.failedEngines = [f])
    (hw : s.internalWaits (.load f.engine) = false) (hl : s.loadWaits f.engine = false) :
    let t := engineRecovery f.engine true s
    t.sys.failedEngines = [] ∧ t.sys.recoveries.head? = some (f.engine, s.sys.now) ∧ t.latched 248 ∧
      (f.engine = .core 6 → t.latched 206) ∧
      (f.engine ≠ .core 6 ∨ (s.badger.heads = [] ∧ s.unsagged) →
        ∀ c : Ch, (t.ch c).out = (s.ch c).out ∧ (t.ch c).conducting = (s.ch c).conducting) ∧
      ∀ p : Port, f.engine = .core (portCore p) → (t.port p).rdy = true := by
  intro t
  have et : t = noteRecovery f.engine f.cause (detectUs f.engine f.cause + (s.sys.now - f.at_) / 10)
      (engineResumes f.engine (reloaded f.engine s)) := engineRecovery_good hv h hw hl
  clear_value t
  generalize detectUs f.engine f.cause + (s.sys.now - f.at_) / 10 = us at et
  subst et
  refine ⟨?_, ?_, noteRecovery_latched _ _ _ _, fun e => ?_, fun k c => ?_, fun p e => ?_⟩
  · rw [noteRecovery_sys]
    refine (engineResumes_failedEngines ..).trans ?_
    simp [reloaded, endInternal, h]
  · rw [noteRecovery_sys]
    simp only [List.head?_cons, engineResumes_now]
    rfl
  · rw [e]
    exact Calm.latched (noteRecovery_calm ..) (engineResumes_core6_latched _)
  · have hp : Poised (reloaded f.engine s) (engineResumes f.engine (reloaded f.engine s)) := by
      by_cases e : f.engine = .core 6
      · obtain ⟨hb, hs⟩ := k.resolve_left (not_not_intro e)
        rw [e]
        exact engineResumes_core6_poised hb hs
      · exact engineResumes_poised _ e
    rw [State.ch, noteRecovery_chans]
    exact ⟨hp.out c, hp.conducting c⟩
  · rw [e, ((noteRecovery_calm ..).port p).rdy, engineResumes_portCore, State.setPort_port_self]
    unfold PortSt.serve
    split
    · assumption
    · rfl

/-- Settles O54: a first failure stops its engine alone, the end of its reload brings it back, and a second one or a fault of the
whole device schedules one warm start. -/
theorem engineFailuresRecoverOrEscalate : Obligations.EngineFailuresRecoverOrEscalate := by
  intro s hv outputs warm
  refine ⟨fun h => ⟨fun e hb hr => ?_, fun n hr => ?_, fun hr => ?_⟩, fun f h hw hl => ?_, fun hd ha => ?_, fun ns hns => ?_⟩
  · have e1 : heartbeatMiss e s = failing e 1 s := by
      rw [heartbeatMiss, if_pos (by simp [hv, hb])]
      exact failEngine_first _ h hr
    refine ⟨_, rfl, ?_⟩
    rw [e1]
    refine ⟨by simp [failing_failedEngines, h], failing_startDue .., failing_outputs e 1 s, ?_⟩
    rintro p rfl
    exact failing_port p 1 s
  · have r := recordDbe_records (BitVec.ofNat 8 (n.val + 1)) s
    have e1 : doubleBitError (.engine n) s =
        failing (.core ⟨n.val + 1, by omega⟩) 3 (recordDbe (BitVec.ofNat 8 (n.val + 1)) s) := by
      rw [doubleBitError, if_neg (by simp [hv])]
      exact failEngine_first _ (by rw [r.sys, h]) (by rw [← hr]; simp only [State.recentlyRecovered, r.sys])
    refine ⟨_, rfl, ?_⟩
    rw [e1]
    refine ⟨by simp [failing_failedEngines, r.sys, h], (failing_startDue ..).trans (by rw [r.sys]), fun c => ?_⟩
    obtain ⟨ho, hc⟩ := failing_outputs (.core ⟨n.val + 1, by omega⟩) 3 (recordDbe (BitVec.ofNat 8 (n.val + 1)) s) c
    exact ⟨ho.trans (r.poised.out c), hc.trans (r.poised.conducting c)⟩
  · have e1 : lockstepFault s = failing (.core 0) 2 s := by
      rw [lockstepFault, if_neg (by simp [hv]), if_neg (by simp [engineDown_of_none h])]
      exact failEngine_first _ h hr
    refine ⟨_, rfl, ?_⟩
    rw [e1]
    exact ⟨by simp [failing_failedEngines, h], failing_startDue .., failing_core0_chans 2 s⟩
  · exact ⟨_, rfl, engineRecovery_recovers hv h hw hl⟩
  · refine ⟨⟨_, rfl, ?_⟩, ⟨_, rfl, ?_⟩, fun f h hw hl => ⟨_, rfl, ?_⟩, fun h => ⟨_, rfl, ?_⟩, fun e hb he h => ⟨_, rfl, ?_⟩,
      fun ns hns => ⟨_, rfl, ?_⟩⟩
    · rw [supervisorWatchdog, if_pos hv]
      exact (Poised.refl s).warm 3 hd ha
    · rw [doubleBitError, if_neg (by simp [hv])]
      exact ((loseRecord_records none s).trans (recordDbe_records ..)).poised.warm 4 hd ha
    · rw [engineRecovery_bad hv h hw hl]
      exact (Poised.refl s).warm 3 hd ha
    · exact lockstepFault_warm hv hd ha h
    · rw [heartbeatMiss, if_pos (by simp [hv, hb]), failEngine_escalates _ he h]
      exact failing_warm _ _ 3 hd ha
    · rw [nreset, if_neg (by simp [hv]; omega), if_pos hns]
      exact ⟨⟨by simp [resetPulse, scheduleStart, hd], fun _ => ⟨rfl, rfl⟩⟩, rfl⟩
  · change Host.Outcome.next (nreset ns s) = _
    rw [nreset, if_pos (by simp [hns])]

end Sys2Proof.Machine
end

section
/-! PROOFS. Host loss of outputs (R254 to R256): level 3 of every output that is lost holds the state that the output had before, and
no other channel changes. -/

namespace Sys2Proof.Machine

/-! ### Loops over channels -/

theorem overAll_keeps_mem {α β : Type} (g : State → β) {l : List α} {f : α → State → State}
    (h : ∀ a ∈ l, ∀ s, g (f a s) = g s) (s : State) : g (overAll l f s) = g s := by
  unfold overAll
  induction l generalizing s with
  | nil => rfl
  | cons a l ih =>
    exact (ih (fun b hb => h b (List.mem_cons_of_mem a hb)) (f a s)).trans (h a (List.mem_cons_self ..) s)

theorem bankOf_evenOf (c : Ch) : bankOf (evenOf c) = bankOf c := by revert c; decide

theorem bankOf_partnerOf (c : Ch) : bankOf (partnerOf (evenOf c)) = bankOf c := by revert c; decide

theorem bankOf_lead (s : State) (c : Ch) : bankOf (s.lead c) = bankOf c := by
  unfold State.lead
  split
  · exact bankOf_evenOf c
  · rfl

theorem bankOf_member {s : State} {c d : Ch} (h : d ∈ s.members c) : bankOf d = bankOf c := by
  unfold State.members at h
  split at h
  · rcases List.mem_cons.mp h with rfl | h
    · exact bankOf_evenOf c
    · obtain rfl := List.mem_singleton.mp h
      exact bankOf_partnerOf c
  · rw [List.mem_singleton.mp h]

/-- An evaluation leaves the channels of the other bank. -/
theorem evalOne_ch_other (c e : Ch) (s : State) (h : bankOf e ≠ bankOf c) : (evalOne c s).ch e = s.ch e :=
  evalOne_ch_ne c e s (fun k => h (k ▸ rfl)) (fun k => h (k ▸ bankOf_lead s c))

theorem evalOut_ch_other (c e : Ch) (s : State) (h : bankOf e ≠ bankOf c) : (evalOut c s).ch e = s.ch e :=
  overAll_keeps_mem (·.ch e) (fun m hm u => evalOne_ch_other m e u (by rwa [bankOf_member hm])) s

/-- An evaluation of one channel leaves every other as it stood. -/
theorem evalOne_poise (c d : Ch) (s : State) (h : d ≠ c) : ((evalOne c s).ch d).poise = (s.ch d).poise := by
  unfold evalOne
  extract_lets ch g now on ramp moved from_ s1 s2 s3
  have e1 : s1.ch d = s.ch d := State.setCh_ch_ne s c _ d h
  have e2 : s2.ch d = s.ch d := by
    simp only [s2]
    split <;> exact e1
  have e3 : s3.ch d = s.ch d := by
    simp only [s3]
    split
    · exact (endTrim_ch_ne c d s2 h).trans e2
    · exact e2
  rw [← e3]
  split
  · refine Poised.chan (setCh_poised _ _ s3 fun _ => ?_) d
    rfl
  · rfl

theorem OutputsOnly.l3 {s t : State} (h : OutputsOnly s t) (c : Ch) : (t.ch c).l3 = (s.ch c).l3 :=
  (congrArg Chan.l3 (h.chan c) :)

theorem OutputsOnly.holdT {s t : State} (h : OutputsOnly s t) (b : Bank) : (t.holm b).holdT = (s.holm b).holdT :=
  (congrArg Holm.holdT (h.holm b) :)

/-! ### Cancelled restores -/

theorem cancelRestore_poised (c : Ch) (s : State) : Poised s (cancelRestore c s) := by
  unfold cancelRestore
  extract_lets ch submitted isR s1 t
  have h1 : Poised s s1 := by
    simp only [s1]
    split
    · exact ⟨rfl, fun _ => rfl⟩
    · exact .refl s
  have h2 : Poised s t := h1.trans (setCh_poised c _ s1 fun _ => rfl)
  split
  · exact h2.trans (denEvent_records ..).poised
  · exact h2

theorem cancelRestore_holms (c : Ch) (s : State) : (cancelRestore c s).holms = s.holms := by
  unfold cancelRestore
  extract_lets ch submitted isR s1 t
  have h1 : s1.holms = s.holms := by
    simp only [s1]
    split <;> rfl
  split
  · exact (denEvent_records ..).holms.trans h1
  · exact h1

theorem cancelRestore_ch_ne (c d : Ch) (s : State) (h : d ≠ c) : (cancelRestore c s).ch d = s.ch d := by
  unfold cancelRestore
  extract_lets ch submitted isR s1 t
  have h1 : t.ch d = s.ch d := by
    simp only [t, State.setCh_ch_ne _ _ _ _ h, s1]
    split <;> rfl
  split
  · rw [State.ch, (denEvent_records ..).chans]
    exact h1
  · exact h1

/-! ### Host loss of one channel -/

/-- What level 3 of a channel holds that is lost now (R256). -/
def State.lossOf (s : State) (c : Ch) : HostLoss :=
  let t := (s.holm (bankOf c)).holdT.toNat
  { held := s.stateNow c
    due := if t = 0xFFFF || t = 0 then none else some (s.sys.raw + msTicks t)
    safe := t = 0
    atEnd := s.stateNow c }

/-- Level 3 of a channel takes what it holds. -/
def setLoss (c : Ch) (s : State) : State := s.setCh c (fun ch => { ch with l3 := some (s.lossOf c) })

theorem hostLoss_of_some {c : Ch} {s : State} {x : HostLoss} (h : (s.ch c).l3 = some x) :
    hostLoss c s = if s.holmLive (bankOf c) then cancelRestore c s else s := by simp [hostLoss, h]

theorem hostLoss_of_idle {c : Ch} {s : State} (h : (s.ch c).l3 = none) (hm : (s.ch c).mode.isOutput = false) :
    hostLoss c s = s := by simp [hostLoss, h, hm]

theorem hostLoss_of_output {c : Ch} {s : State} (h : (s.ch c).l3 = none) (hm : (s.ch c).mode.isOutput = true) :
    hostLoss c s = evalOne c (if s.holmLive (bankOf c) then cancelRestore c (setLoss c s) else setLoss c s) := by
  unfold hostLoss
  simp only [h, hm]
  rfl

/-- A channel loses its host in one of three ways: its restore ends, nothing happens, or level 3 takes its state. -/
theorem hostLoss_cases (c : Ch) (s : State) : hostLoss c s = s ∨ hostLoss c s = cancelRestore c s ∨
    hostLoss c s = evalOne c (cancelRestore c (setLoss c s)) ∨ hostLoss c s = evalOne c (setLoss c s) := by
  rcases hl : (s.ch c).l3 with _ | x
  · rcases hm : (s.ch c).mode.isOutput
    · exact .inl (hostLoss_of_idle hl hm)
    · rw [hostLoss_of_output hl hm]
      split <;> simp
  · rw [hostLoss_of_some hl]
    split <;> simp

theorem hostLoss_holdT (c : Ch) (s : State) (b : Bank) : ((hostLoss c s).holm b).holdT = (s.holm b).holdT := by
  have hc (u : State) : ((cancelRestore c u).holm b).holdT = (u.holm b).holdT := by rw [State.holm, cancelRestore_holms]; rfl
  rcases hostLoss_cases c s with h | h | h | h <;> rw [h]
  · exact hc s
  · exact ((evalOne_outputs ..).holdT b).trans (hc _)
  · exact (evalOne_outputs ..).holdT b

/-- Host loss of one channel leaves every other as it stood. -/
theorem hostLoss_poise (c d : Ch) (s : State) (h : d ≠ c) : ((hostLoss c s).ch d).poise = (s.ch d).poise := by
  have hs : ((setLoss c s).ch d).poise = (s.ch d).poise := by rw [setLoss, State.setCh_ch_ne s c _ d h]
  rcases hostLoss_cases c s with k | k | k | k <;> rw [k]
  · exact (cancelRestore_poised c s).chan d
  · exact (evalOne_poise c d _ h).trans (((cancelRestore_poised c _).chan d).trans hs)
  · exact (evalOne_poise c d _ h).trans hs

theorem hostLoss_ch_other (c e : Ch) (s : State) (h : bankOf e ≠ bankOf c) : (hostLoss c s).ch e = s.ch e := by
  have hn : e ≠ c := fun k => h (k ▸ rfl)
  have hs : (setLoss c s).ch e = s.ch e := State.setCh_ch_ne s c _ e hn
  rcases hostLoss_cases c s with k | k | k | k <;> rw [k]
  · exact cancelRestore_ch_ne c e s hn
  · exact (evalOne_ch_other c e _ h).trans ((cancelRestore_ch_ne c e _ hn).trans hs)
  · exact (evalOne_ch_other c e _ h).trans hs

/-- Level 3 of an output that is lost holds its state (R256). -/
theorem hostLoss_l3 {c : Ch} {s : State} (h : (s.ch c).l3 = none) (hm : (s.ch c).mode.isOutput = true) :
    ((hostLoss c s).ch c).l3 = some (s.lossOf c) := by
  have hs : ((setLoss c s).ch c).l3 = some (s.lossOf c) := by simp [setLoss]
  rw [hostLoss_of_output h hm, (evalOne_outputs ..).l3]
  split
  · exact (congrArg Chan.l3 ((cancelRestore_poised c _).chan c) :).trans hs
  · exact hs

/-- Level 3 that is active keeps what it holds. -/
theorem hostLoss_l3_kept (d : Ch) {c : Ch} {s : State} {x : HostLoss} (h : (s.ch c).l3 = some x) :
    ((hostLoss d s).ch c).l3 = some x := by
  by_cases e : c = d
  · subst e
    rw [hostLoss_of_some h]
    split
    · exact (congrArg Chan.l3 ((cancelRestore_poised c s).chan c) :).trans h
    · exact h
  · exact (congrArg Chan.l3 (hostLoss_poise d c s e) :).trans h

/-! ### Host loss of several channels -/

theorem rampNow_poise (ch : Chan) (now : Nat) : ch.poise.rampNow now = ch.rampNow now := rfl

theorem stateNow_of_poise {s t : State} {c : Ch} (h : (t.ch c).poise = (s.ch c).poise) (hn : t.sys.now = s.sys.now) :
    t.stateNow c = s.stateNow c := by
  have hm : (t.ch c).mode = (s.ch c).mode := (congrArg Chan.mode h :)
  have ho : (t.ch c).out = (s.ch c).out := (congrArg Chan.out h :)
  have hr : (t.ch c).rampNow s.sys.now = (s.ch c).rampNow s.sys.now := by rw [← rampNow_poise, h, rampNow_poise]
  simp only [State.stateNow, hm, ho, hn, hr]

theorem lossOf_of_poise {s t : State} {c : Ch} (h : (t.ch c).poise = (s.ch c).poise) (hn : t.sys.now = s.sys.now)
    (hr : t.sys.raw = s.sys.raw) (ht : (t.holm (bankOf c)).holdT = (s.holm (bankOf c)).holdT) : t.lossOf c = s.lossOf c := by
  simp only [State.lossOf, stateNow_of_poise h hn, hr, ht]

theorem hostLoss_lossOf (d c : Ch) (s : State) (h : c ≠ d) : (hostLoss d s).lossOf c = s.lossOf c :=
  lossOf_of_poise (hostLoss_poise d c s h) (now_of_anchor (hostLoss_anchor d s)) (calm.keeps (hostLoss_stays ..)).raw
    (hostLoss_holdT ..)

theorem hostLosses_l3_kept (l : List Ch) {c : Ch} {s : State} {x : HostLoss} (h : (s.ch c).l3 = some x) :
    ((overAll l hostLoss s).ch c).l3 = some x := by
  unfold overAll
  induction l generalizing s with
  | nil => exact h
  | cons d l ih => exact ih (hostLoss_l3_kept d h)

theorem hostLosses_l3 {l : List Ch} {c : Ch} (hc : c ∈ l) {s : State} (h : (s.ch c).l3 = none)
    (hm : (s.ch c).mode.isOutput = true) : ((overAll l hostLoss s).ch c).l3 = some (s.lossOf c) := by
  induction l generalizing s with
  | nil => simp at hc
  | cons d l ih =>
    change ((overAll l hostLoss (hostLoss d s)).ch c).l3 = _
    by_cases e : c = d
    · subst e
      exact hostLosses_l3_kept l (hostLoss_l3 h hm)
    · have k := hostLoss_poise d c s e
      have km : ((hostLoss d s).ch c).mode = (s.ch c).mode := (congrArg Chan.mode k :)
      rw [← hostLoss_lossOf d c s e]
      exact ih ((List.mem_cons.mp hc).resolve_left e) ((congrArg Chan.l3 k :).trans h) (by rwa [km])

theorem evalOuts_outputs (l : List Ch) (s : State) : OutputsOnly s (overAll l (fun c s => evalOut c s) s) :=
  overAll_outputs evalOut_outputs s

/-- Every output that is lost has its state held at level 3 (R256). -/
theorem hostLossAll_l3 {l : List Ch} {c : Ch} (hc : c ∈ l) {s : State} (h : (s.ch c).l3 = none)
    (hm : (s.ch c).mode.isOutput = true) : ((hostLossAll l s).ch c).l3 = some (s.lossOf c) :=
  ((evalOuts_outputs ..).l3 c).trans (hostLosses_l3 hc h hm)

theorem hostLossAll_l3_kept (l : List Ch) {c : Ch} {s : State} {x : HostLoss} (h : (s.ch c).l3 = some x) :
    ((hostLossAll l s).ch c).l3 = some x := ((evalOuts_outputs ..).l3 c).trans (hostLosses_l3_kept l h)

/-- Channels that are not lost keep their mode and level 3. -/
theorem hostLossAll_spared {l : List Ch} {c : Ch} (hc : c ∉ l) (s : State) :
    ((hostLossAll l s).ch c).l3 = (s.ch c).l3 ∧ ((hostLossAll l s).ch c).mode = (s.ch c).mode := by
  have h : ((overAll l hostLoss s).ch c).poise = (s.ch c).poise :=
    overAll_keeps_mem (fun u => (u.ch c).poise) (fun d hd u => hostLoss_poise d c u fun e => hc (e ▸ hd)) s
  exact ⟨((evalOuts_outputs ..).l3 c).trans (congrArg Chan.l3 h :), ((evalOuts_outputs ..).mode c).trans (congrArg Chan.mode h :)⟩

theorem hostLossAll_ch_other {l : List Ch} {e : Ch} (h : ∀ c ∈ l, bankOf e ≠ bankOf c) (s : State) :
    (hostLossAll l s).ch e = s.ch e :=
  (overAll_keeps_mem (·.ch e) (fun c hc u => evalOut_ch_other c e u (h c hc)) _).trans
    (overAll_keeps_mem (·.ch e) (fun c hc u => hostLoss_ch_other c e u (h c hc)) s)

end Sys2Proof.Machine
end

section
/-! PROOFS. The lanes of a link (R29, R30): what Mainland and a Holm make of a lane that is lost, and what a link that returns
delivers. -/

namespace Sys2Proof.Machine

/-! ### A lane is lost -/

/-- Operations that cannot be sent complete on Mainland: system state, channels and Holms stand. -/
theorem unsendable_leaves (h : Head) (s : State) : (unsendable h s).sys = s.sys ∧ (unsendable h s).chans = s.chans ∧
    (unsendable h s).holms = s.holms := by
  unfold unsendable
  split <;> exact ⟨rfl, rfl, rfl⟩

theorem dropUnsendable_leaves (b : Bank) (s : State) : (dropUnsendable b s).sys = s.sys ∧
    (dropUnsendable b s).chans = s.chans ∧ (dropUnsendable b s).holms = s.holms :=
  ⟨overAll_keeps (·.sys) (fun h u => (unsendable_leaves h u).1) s, overAll_keeps (·.chans) (fun h u => (unsendable_leaves h u).2.1) s,
   overAll_keeps (·.holms) (fun h u => (unsendable_leaves h u).2.2) s⟩

theorem dropUnsendable_calm (b : Bank) (s : State) : calm.rel s (dropUnsendable b s) :=
  calm.keeps (overAll_stays calm _ _ _ (fun h _ => calm.keeps (unsendable_stays calm h _ _)) s)

theorem linkEvent_records (b : Bank) (kind : Byte) (value : Nat) (s : State) : RecordsOnly s (linkEvent b kind value s) := by
  unfold linkEvent
  split
  · exact raise_records ..
  · exact .refl s

/-- The link's event is raised while Mainland is powered (R452). -/
theorem linkEvent_latched (b : Bank) (kind : Byte) (value : Nat) {s : State} (h : s.sys.vddOk = true) :
    (linkEvent b kind value s).latched (holmSrc b 1) := by
  rw [linkEvent, if_pos h]
  exact raise_latched _ _ _ (by revert b; decide)

/-- The lane from the Holm is noted as lost (R29). -/
def upNoted (b : Bank) (s : State) : State :=
  (assertFault s).setHolm b (fun h => { h with link := false, lostAt := if h.deaf then h.lostAt else s.sys.now })

theorem assertFault_leaves (s : State) : (assertFault s).chans = s.chans ∧ (assertFault s).holms = s.holms ∧
    (assertFault s).sys.now = s.sys.now ∧ (assertFault s).sys.raw = s.sys.raw ∧ (assertFault s).sys.vddOk = s.sys.vddOk := by
  unfold assertFault
  split <;> exact ⟨rfl, rfl, rfl, rfl, rfl⟩

/-- Channels, system state, the lanes of a Holm and pending events stand. -/
structure LaneKept (b : Bank) (s t : State) : Prop where
  chans : t.chans = s.chans
  sys : t.sys = s.sys
  link : (t.holm b).link = (s.holm b).link
  deaf : (t.holm b).deaf = (s.holm b).deaf
  holdT : (t.holm b).holdT = (s.holm b).holdT
  latched : ∀ k, s.latched k → t.latched k

theorem LaneKept.trans {b : Bank} {s t u : State} (h : LaneKept b s t) (k : LaneKept b t u) : LaneKept b s u :=
  ⟨k.chans.trans h.chans, k.sys.trans h.sys, k.link.trans h.link, k.deaf.trans h.deaf, k.holdT.trans h.holdT,
   fun n e => k.latched n (h.latched n e)⟩

theorem holdCompletions_lane (b : Bank) (s : State) : LaneKept b s (holdCompletions b s) := by
  have h := State.setHolm_holm_self s b (fun h => { h with
    held := h.held ++ s.completions.filter (fun c => objBank c.req.obj == some b && decide (s.sys.now < c.tdone)) })
  exact ⟨rfl, rfl, (congrArg Holm.link h :), (congrArg Holm.deaf h :), (congrArg Holm.holdT h :), fun _ => id⟩

theorem dropUnsendable_lane (b : Bank) (s : State) : LaneKept b s (dropUnsendable b s) := by
  obtain ⟨hs, hc, hh⟩ := dropUnsendable_leaves b s
  have e : (dropUnsendable b s).holm b = s.holm b := by rw [State.holm, hh]; rfl
  exact ⟨hc, hs, by rw [e], by rw [e], by rw [e], fun _ => Calm.latched (dropUnsendable_calm b s)⟩

/-- What Mainland makes of the lane from a Holm that is lost. -/
structure UpLost (b : Bank) (s t : State) : Prop where
  chans : t.chans = s.chans
  now : t.sys.now = s.sys.now
  raw : t.sys.raw = s.sys.raw
  link : (t.holm b).link = false
  deaf : (t.holm b).deaf = (s.holm b).deaf
  holdT : (t.holm b).holdT = (s.holm b).holdT
  latched : s.sys.vddOk = true → t.latched (holmSrc b 1)

theorem upLost_eq {b : Bank} {s : State} (h : (s.holm b).link = true) :
    upLost b s = dropUnsendable b (holdCompletions b (linkEvent b 1 0 (upNoted b s))) := by
  rw [upLost, if_pos h, upNoted]

theorem upLost_spec {b : Bank} {s : State} (h : (s.holm b).link = true) : UpLost b s (upLost b s) := by
  obtain ⟨fc, fh, fn, fr, fv⟩ := assertFault_leaves s
  have he := linkEvent_records b 1 0 (upNoted b s)
  have hn : (linkEvent b 1 0 (upNoted b s)).holm b = (upNoted b s).holm b := by rw [State.holm, he.holms]; rfl
  have hl : (upNoted b s).holm b = { s.holm b with
      link := false, lostAt := if (s.holm b).deaf then (s.holm b).lostAt else s.sys.now } := by
    rw [upNoted, State.setHolm_holm_self, State.holm, fh]
    rfl
  have k := (holdCompletions_lane b (linkEvent b 1 0 (upNoted b s))).trans (dropUnsendable_lane b _)
  rw [upLost_eq h]
  refine ⟨k.chans.trans (he.chans.trans fc), ?_, ?_, k.link.trans (by rw [hn, hl]), k.deaf.trans (by rw [hn, hl]),
    k.holdT.trans (by rw [hn, hl]), fun hv => k.latched _ (linkEvent_latched b 1 0 (fv.trans hv))⟩
  · rw [k.sys, he.sys]
    exact fn
  · rw [k.sys, he.sys]
    exact fr

/-! ### A link is lost -/

theorem mdmPush_ch_ne (c d : Ch) (e : MdmEntry) (s : State) (h : d ≠ c) : (mdmPush c e s).ch d = s.ch d := by
  unfold mdmPush
  split
  · rw [State.ch, (mdmEvent_records ..).chans]
    exact State.setCh_ch_ne s c _ d h
  · rw [State.ch, (mdmEvent_records ..).chans]
    rfl

theorem mdmAbort_ch_ne (c d : Ch) (s : State) (h : d ≠ c) : (mdmAbort c s).ch d = s.ch d := by
  unfold mdmAbort
  extract_lets m ts u
  have hu : u.ch d = s.ch d := State.setCh_ch_ne s c _ d h
  exact (overAll_ch (fun a v => mdmPush_ch_ne c d _ v h) u).trans hu

/-- Every output of a bank that was not in host loss holds its state at level 3. -/
def Held (b : Bank) (s t : State) : Prop :=
  ∀ c : Ch, bankOf c = b → (s.ch c).mode.isOutput = true → (s.ch c).l3 = none → (t.ch c).l3 = some (s.lossOf c)

/-- The lane to the Holm is noted as lost (R29). -/
def downNoted (b : Bank) (s : State) : State :=
  s.setHolm b (fun h => { h with deaf := true, lostAt := if h.link then s.sys.now else h.lostAt })

theorem downNoted_holm (b : Bank) (s : State) : (downNoted b s).holm b =
    { s.holm b with deaf := true, lostAt := if (s.holm b).link then s.sys.now else (s.holm b).lostAt } :=
  State.setHolm_holm_self ..

/-- A Holm that loses the lane to it takes its outputs into host loss, and the other bank's channels stand. -/
theorem downLost_spec {b : Bank} {s : State} (h : (s.holm b).deaf = false) :
    calm.rel (downNoted b s) (downLost b s) ∧ Held b s (downLost b s) ∧
      ∀ c : Ch, bankOf c ≠ b → (downLost b s).ch c = s.ch c := by
  have e : downLost b s = hostLossAll (bankChs b) (downNoted b s) := by rw [downLost, if_neg (by simp [h])]; rfl
  rw [e]
  refine ⟨by simp, fun c hb hm hl => ?_, fun c hb => hostLossAll_ch_other (fun d hd => by rwa [mem_bankChs.mp hd]) _⟩
  refine (hostLossAll_l3 (s := downNoted b s) (mem_bankChs.mpr hb) hl hm).trans (congrArg some (lossOf_of_poise rfl rfl rfl ?_))
  subst hb
  rw [downNoted_holm]

/-- The bank's modems stop with a link that was whole and is no longer (R160): no output changes. -/
theorem linkLoss_ends (x : LostLanes) (s : State) :
    let t := if x.down then downLost x.bank (if x.up then upLost x.bank s else s) else if x.up then upLost x.bank s else s
    Poised t (linkLoss x s) ∧ calm.rel t (linkLoss x s) ∧
      ∀ c : Ch, bankOf c ≠ x.bank → (linkLoss x s).ch c = t.ch c := by
  intro t
  have e : linkLoss x s = if s.whole x.bank && !t.whole x.bank then overAll (bankChs x.bank) mdmAbort t else t := rfl
  rw [e]
  split
  · exact ⟨overAll_poised (fun c u => mdmAbort_poised c u) t, by simp, fun c hc =>
      overAll_keeps_mem (·.ch c) (fun d hd u => mdmAbort_ch_ne d c u fun k => hc (k ▸ mem_bankChs.mp hd)) t⟩
  · exact ⟨.refl t, calm.refl t, fun _ _ => rfl⟩

theorem lossOf_eq (s : State) (c : Ch) :
    let k := (s.holm (bankOf c)).holdT.toNat
    let held := if (s.ch c).mode.isLoopOut then .cur ((s.ch c).rampNow s.sys.now) else (s.ch c).out
    s.lossOf c = HostLoss.mk held (if k = 0xFFFF ∨ k = 0 then none else some (s.sys.raw + 10000 * k)) (decide (k = 0)) held := by
  simp [State.lossOf, State.stateNow, msTicks]

theorem Poised.l3 {s t : State} (h : Poised s t) (c : Ch) : (t.ch c).l3 = (s.ch c).l3 := (congrArg Chan.l3 (h.chan c) :)

/-- Only the lane to a Holm is lost: its outputs go into host loss (R29, R256). -/
theorem linkLoss_down {b : Bank} {s : State} (h : (s.holm b).deaf = false) :
    let t := linkLoss ⟨b, true, false⟩ s
    (t.holm b).link = (s.holm b).link ∧ (t.holm b).deaf = true ∧ (∀ c : Ch, bankOf c ≠ b → t.ch c = s.ch c) ∧ Held b s t := by
  intro t
  obtain ⟨hp, hc, ho⟩ : Poised (downLost b s) t ∧ calm.rel (downLost b s) t ∧ ∀ c : Ch, bankOf c ≠ b → t.ch c = (downLost b s).ch c :=
    linkLoss_ends ⟨b, true, false⟩ s
  obtain ⟨dc, dh, dn⟩ := downLost_spec h
  refine ⟨?_, ?_, fun c hb => (ho c hb).trans (dn c hb), fun c hb hm hl => (hp.l3 c).trans (dh c hb hm hl)⟩
  · rw [(hc.holm b).link, (dc.holm b).link, downNoted_holm]
  · rw [(hc.holm b).deaf, (dc.holm b).deaf, downNoted_holm]

/-- Both lanes are lost. -/
theorem linkLoss_both {b : Bank} {s : State} (hl : (s.holm b).link = true) (hd : (s.holm b).deaf = false) :
    let t := linkLoss ⟨b, true, true⟩ s
    (t.holm b).link = false ∧ (t.holm b).deaf = true ∧ (s.sys.vddOk = true → t.latched (holmSrc b 1)) ∧
      (∀ c : Ch, bankOf c ≠ b → t.ch c = s.ch c) ∧ Held b s t := by
  intro t
  have u := upLost_spec hl
  have uch (c : Ch) : (upLost b s).ch c = s.ch c := by rw [State.ch, u.chans]; rfl
  obtain ⟨hp, hc, ho⟩ : Poised (downLost b (upLost b s)) t ∧ calm.rel (downLost b (upLost b s)) t ∧
      ∀ c : Ch, bankOf c ≠ b → t.ch c = (downLost b (upLost b s)).ch c := linkLoss_ends ⟨b, true, true⟩ s
  obtain ⟨dc, dh, dn⟩ := downLost_spec (u.deaf.trans hd)
  refine ⟨?_, ?_, fun hv => ?_, fun c hb => (ho c hb).trans ((dn c hb).trans (uch c)), fun c hb hm hn => ?_⟩
  · rw [(hc.holm b).link, (dc.holm b).link, downNoted_holm]
    exact u.link
  · rw [(hc.holm b).deaf, (dc.holm b).deaf, downNoted_holm]
  · have k : (downNoted b (upLost b s)).latched (holmSrc b 1) := u.latched hv
    exact Calm.latched hc (Calm.latched dc k)
  · rw [hp.l3 c, dh c hb (by rwa [uch]) (by rwa [uch])]
    exact congrArg some (lossOf_of_poise (by rw [uch]) u.now u.raw (hb ▸ u.holdT))

/-- Only the lane from a Holm is lost: no output changes and none is lost (R29). -/
theorem linkLoss_up {b : Bank} {s : State} (hl : (s.holm b).link = true) :
    let t := linkLoss ⟨b, false, true⟩ s
    (t.holm b).link = false ∧ (t.holm b).deaf = (s.holm b).deaf ∧ (s.sys.vddOk = true → t.latched (holmSrc b 1)) ∧
      ∀ c : Ch, (t.ch c).poise = (s.ch c).poise := by
  intro t
  have u := upLost_spec hl
  obtain ⟨hp, hc, -⟩ : Poised (upLost b s) t ∧ calm.rel (upLost b s) t ∧ ∀ c : Ch, bankOf c ≠ b → t.ch c = (upLost b s).ch c :=
    linkLoss_ends ⟨b, false, true⟩ s
  refine ⟨(hc.holm b).link.trans u.link, (hc.holm b).deaf.trans u.deaf, fun hv => Calm.latched hc (u.latched hv), fun c => ?_⟩
  rw [hp.chan c, State.ch, u.chans]
  rfl

/-- A lane that is lost already is not lost again. -/
theorem linkLoss_again {b : Bank} {down up : Bool} {s : State} (hu : up = true → (s.holm b).link = false)
    (hd : down = true → (s.holm b).deaf = true) : linkLoss ⟨b, down, up⟩ s = s := by
  have eu : (if up then upLost b s else s) = s := by
    split
    · next h => rw [upLost, if_neg (by simp [hu h])]
    · rfl
  have ed : (if down then downLost b s else s) = s := by
    split
    · next h => rw [downLost, if_pos (hd h)]
    · rfl
  simp [linkLoss, eu, ed]

end Sys2Proof.Machine
end

section
/-! PROOFS. The return of a link (R25, R30, R31, R245; log entry 151): its notices are delivered, and behind its journal what waited in
the Holm completes. -/

namespace Sys2Proof.Machine

/-- A Holm without what its link's return delivers to Mainland before the journal (R19, R33, R245). -/
def Holm.besidesWaiting (h : Holm) : Holm := { h with notices := [], lost := [], buf := [] }

/-- What waited in a Holm is delivered, and nothing else changes but records: no notice is added. -/
structure Delivers (b : Bank) (s t : State) : Prop where
  sys : t.sys = s.sys
  holm : (t.holm b).besidesWaiting = (s.holm b).besidesWaiting
  notices : (s.holm b).notices = [] → (t.holm b).notices = []
  latched : ∀ k, s.latched k → t.latched k

theorem Delivers.refl (b : Bank) (s : State) : Delivers b s s := ⟨rfl, rfl, id, fun _ => id⟩

theorem Delivers.trans {b : Bank} {s t u : State} (h : Delivers b s t) (k : Delivers b t u) : Delivers b s u :=
  ⟨k.sys.trans h.sys, k.holm.trans h.holm, fun e => k.notices (h.notices e), fun n e => k.latched n (h.latched n e)⟩

section
variable {b : Bank} {s t : State} (h : Delivers b s t)
include h

theorem Delivers.link : (t.holm b).link = (s.holm b).link := (congrArg Holm.link h.holm :)
theorem Delivers.deaf : (t.holm b).deaf = (s.holm b).deaf := (congrArg Holm.deaf h.holm :)
theorem Delivers.restarted : (t.holm b).restarted = (s.holm b).restarted := (congrArg Holm.restarted h.holm :)
theorem Delivers.beacons : (t.holm b).beacons = (s.holm b).beacons := (congrArg Holm.beacons h.holm :)
theorem Delivers.held : (t.holm b).held = (s.holm b).held := (congrArg Holm.held h.holm :)

end

theorem RecordsOnly.delivers {s t : State} (r : RecordsOnly s t) (c : Calm s t) (b : Bank) : Delivers b s t := by
  have e : t.holm b = s.holm b := by rw [State.holm, r.holms]; rfl
  exact ⟨r.sys, by rw [e], fun k => by rwa [e], fun _ => Calm.latched c⟩

theorem setHolm_delivers (b : Bank) (f : Holm → Holm) (s : State) (h : ∀ x, (f x).besidesWaiting = x.besidesWaiting)
    (hn : ∀ x, x.notices = [] → (f x).notices = []) : Delivers b s (s.setHolm b f) := by
  refine ⟨rfl, ?_, fun k => ?_, fun _ => id⟩
  · rw [State.setHolm_holm_self, h]
  · rw [State.setHolm_holm_self]
    exact hn _ k

theorem overAll_delivers {α : Type} {b : Bank} {l : List α} {f : α → State → State} (h : ∀ a s, Delivers b s (f a s)) (s : State) :
    Delivers b s (overAll l f s) := by
  unfold overAll
  induction l generalizing s with
  | nil => exact .refl b s
  | cons a l ih => exact (h a s).trans (ih (f a s))

/-! ### What is delivered before the journal -/

theorem deliverNotice_records (n : Notice) (s : State) :
    RecordsOnly s (match n.den with
      | some sev => denEvent sev n.src n.obj n.payload (raiseAt n.src.toNat n.payload n.ts s)
      | none => raiseAt n.src.toNat n.payload n.ts s) := by
  split
  · exact (raiseAt_records ..).trans (denEvent_records ..)
  · exact raiseAt_records ..

theorem deliverNotice_calm (n : Notice) (s : State) :
    calm.rel s (match n.den with
      | some sev => denEvent sev n.src n.obj n.payload (raiseAt n.src.toNat n.payload n.ts s)
      | none => raiseAt n.src.toNat n.payload n.ts s) := by
  split <;> simp

/-- Every notice of the Holm is delivered (R245). -/
theorem deliverNotices_delivers (b : Bank) (s : State) :
    Delivers b s (deliverNotices b s) ∧ ((deliverNotices b s).holm b).notices = [] := by
  have h0 : Delivers b s (s.setHolm b (fun h => { h with notices := [] })) := setHolm_delivers b _ s (fun _ => rfl) fun _ _ => rfl
  have h1 : Delivers b (s.setHolm b (fun h => { h with notices := [] })) (deliverNotices b s) :=
    overAll_delivers (fun n u => (deliverNotice_records n u).delivers (deliverNotice_calm n u) b) _
  exact ⟨h0.trans h1, h1.notices (by rw [State.setHolm_holm_self])⟩

theorem reportLost_records (m : ActMsg) (s : State) : RecordsOnly s (reportLost m s) := by
  unfold reportLost
  extract_lets d u
  have h : RecordsOnly s u := raiseAt_records ..
  split
  · exact h
  · exact h.trans (denEvent_records ..)

theorem reportLost_delivers (b : Bank) (m : ActMsg) (s : State) : Delivers b s (reportLost m s) :=
  (reportLost_records m s).delivers (calm.keeps (reportLost_stays ..)) b

theorem flushStream_delivers (b : Bank) (s : State) : Delivers b s (flushStream b s) := by
  unfold flushStream
  split
  · have h : Delivers b s (s.setHolm b (fun h => { h with buf := [] })) := setHolm_delivers b _ s (fun _ => rfl) fun _ k => k
    refine h.trans (overAll_delivers (fun e u => ?_) _)
    exact overAll_delivers (fun x v => (pushHeld_records ..).delivers (calm.keeps (pushHeld_stays ..)) b) u
  · exact .refl b s

/-- Both lanes are there again, and the slave copy has to be locked anew after a long loss or a restart (R25, R30). -/
def lanesBack (b : Bank) (s : State) : State :=
  let h := s.holm b
  let lost50 := decide (h.lostAt + 500000 < s.sys.now)
  s.setHolm b (fun h => { h with
    link := true
    deaf := false
    beacons := if lost50 || h.restarted then 0 else h.beacons
    tunc := h.tunc || lost50
    dropped := 0 })

theorem lanesBack_holm (b : Bank) (s : State) : (lanesBack b s).holm b = { s.holm b with
    link := true
    deaf := false
    beacons := if decide ((s.holm b).lostAt + 500000 < s.sys.now) || (s.holm b).restarted then 0 else (s.holm b).beacons
    tunc := (s.holm b).tunc || decide ((s.holm b).lostAt + 500000 < s.sys.now)
    dropped := 0 } := State.setHolm_holm_self ..

/-- What reaches Mainland before the journal is read. -/
def beforeJournal (b : Bank) (s : State) : State :=
  let h := s.holm b
  let lost50 := decide (h.lostAt + 500000 < s.sys.now)
  let u := lanesBack b s
  let u := if h.link then u else linkEvent b 2 h.dropped u
  let u := if lost50 && !h.tunc then notifyHolm b 8 1 0xFF 0 none u else u
  let u := deliverNotices b u
  let u := overAll h.lost reportLost (u.setHolm b (fun h => { h with lost := [] }))
  flushStream b u

theorem linkUp_eq (b : Bank) (s : State) : linkUp b s = journalNow b (beforeJournal b s) := rfl

/-- Neither the lanes nor what waits for the journal changes before it is read, and Mainland's event tells of its own loss. -/
theorem beforeJournal_delivers {b : Bank} {s : State} (hv : s.sys.vddOk = true) :
    Delivers b (lanesBack b s) (beforeJournal b s) ∧ ((beforeJournal b s).holm b).notices = [] ∧
      ((s.holm b).link = false → (beforeJournal b s).latched (holmSrc b 1)) := by
  unfold beforeJournal
  extract_lets h lost50 u1 u2 u3 u4 u5
  have d2 : Delivers b u1 u2 := by
    simp only [u2]
    split
    · exact .refl b u1
    · exact (linkEvent_records ..).delivers (calm.keeps (linkEvent_stays ..)) b
  have l2 : (s.holm b).link = false → u2.latched (holmSrc b 1) := fun e => by
    simp only [u2, h, e]
    exact linkEvent_latched b 2 _ hv
  have d3 : Delivers b u2 u3 := by
    simp only [u3]
    split
    · have hl : (u2.holm b).link = true := by
        have e : (u2.holm b).link = (u1.holm b).link := (congrArg Holm.link d2.holm :)
        simp [e, u1, lanesBack]
      have h2 : u2.sys.vddOk = true := by rw [d2.sys]; exact hv
      exact (notify_live b _ _ _ _ u2 hl h2).delivers (calm.keeps (notifyHolm_stays ..)) b
    · exact .refl b u2
  obtain ⟨d4, n4⟩ := deliverNotices_delivers b u3
  have d5 : Delivers b u4 u5 :=
    (setHolm_delivers b (fun h => { h with lost := [] }) u4 (fun _ => rfl) fun _ k => k).trans
      (overAll_delivers (reportLost_delivers b) _)
  have d6 := d5.trans (flushStream_delivers b u5)
  exact ⟨d2.trans (d3.trans (d4.trans d6)), d6.notices n4, fun e => (d3.trans (d4.trans d6)).latched _ (l2 e)⟩

/-! ### The journal is read -/

/-- The journal has been read, and the map is there (R30, R265). -/
def journalRead (b : Bank) (gone : Bool) (s : State) : State := (readJournal b gone s).setHolm b (fun h => { h with mapHere := true })

theorem journalRead_holm (b : Bank) (gone : Bool) (s : State) :
    (journalRead b gone s).holm b = { s.holm b with held := [], mapHere := true } := by
  have h : (readJournal b gone s).holm b = { s.holm b with held := [] } :=
    State.setHolm_holm_self s b (fun h => { h with held := [] })
  rw [journalRead, State.setHolm_holm_self, h]

theorem setHolm_same (b : Bank) (f : Holm → Holm) (s : State) (h : f (s.holm b) = s.holm b) : s.setHolm b f = s := by
  have e : s.holms.set b.val (f s.holms[b]) b.isLt = s.holms := by
    rw [show f s.holms[b] = s.holms[b] from h]
    exact Vector.set_getElem_self ..
  rw [State.setHolm, e]

/-- The journal has been read, and a Holm that had restarted counts as restored (R267). -/
def journalTaken (b : Bank) (s : State) : State :=
  (journalRead b (s.holm b).restarted s).setHolm b (fun h => { h with restarted := false })

theorem journalTaken_holm (b : Bank) (s : State) :
    (journalTaken b s).holm b = { s.holm b with held := [], mapHere := true, restarted := false } := by
  rw [journalTaken, State.setHolm_holm_self, journalRead_holm]

theorem journalTaken_latched {b : Bank} {s : State} {k : Nat} (h : s.latched k) : (journalTaken b s).latched k := h

theorem journalTaken_completions {b : Bank} {s : State} (h : (s.holm b).restarted = false) :
    ∀ x ∈ (s.holm b).held, x ∈ (journalTaken b s).completions := by
  intro x hx
  have e : (journalTaken b s).completions = s.completions ++ (s.holm b).held := by
    simp [journalTaken, journalRead, readJournal, h]
  rw [e]
  exact List.mem_append_right _ hx

/-- What follows the journal is calm (R30, R267). -/
theorem journalNow_calm {b : Bank} {s : State} (hi : s.sys.internal.length < 32) :
    calm.rel (journalTaken b s) (journalNow b s) := by
  have e : journalNow b s = evaluate (submitRestores b (if ((journalRead b (s.holm b).restarted s).holm b).restarted then
      restoreBank b (journalRead b (s.holm b).restarted s) else evalBank b (journalRead b (s.holm b).restarted s))) := by
    rw [journalNow, if_neg (by omega)]
    rfl
  rw [e, journalTaken]
  split
  · simp [restoreBank]
  · next h =>
    rw [setHolm_same _ _ _ (by rw [← Bool.eq_false_of_not_eq_true h])]
    simp

theorem linkEstablishment_eq {b : Bank} {s : State} (hw : s.whole b = false) (hu : (s.holm b).up = true)
    (hv : s.sys.vddOk = true) : linkEstablishment b s = journalNow b (beforeJournal b s) := by
  rw [linkEstablishment, if_pos (by simp [hw, hu, hv]), linkUp_eq]

/-- The link returns while an internal slot is free: what waited is delivered (R25, R30, R245). -/
theorem linkEstablishment_spec {b : Bank} {s : State} (hw : s.whole b = false) (hu : (s.holm b).up = true)
    (hv : s.sys.vddOk = true) (hi : s.sys.internal.length < 32) :
    let t := linkEstablishment b s
    (t.holm b).link = true ∧ (t.holm b).deaf = false ∧ (t.holm b).restarted = false ∧
      (t.holm b).beacons = (if (s.holm b).lostAt + 500000 < s.sys.now ∨ (s.holm b).restarted = true then 0
        else (s.holm b).beacons) ∧
      (t.holm b).held = [] ∧ (t.holm b).notices = [] ∧ ((s.holm b).link = false → t.latched (holmSrc b 1)) ∧
      ((s.holm b).restarted = false → ∀ x ∈ (s.holm b).held, x ∈ t.completions) := by
  intro t
  obtain ⟨d, hn, hl⟩ := beforeJournal_delivers (b := b) hv
  have hy : (beforeJournal b s).sys = s.sys := d.sys
  have c : Calm (journalTaken b (beforeJournal b s)) t := by
    rw [show t = _ from linkEstablishment_eq hw hu hv]
    exact journalNow_calm (hy ▸ hi)
  have k := journalTaken_holm b (beforeJournal b s)
  have klink : ((journalTaken b (beforeJournal b s)).holm b).link = true := by rw [k, d.link, lanesBack_holm]
  have kdeaf : ((journalTaken b (beforeJournal b s)).holm b).deaf = false := by rw [k, d.deaf, lanesBack_holm]
  have heard : (journalTaken b (beforeJournal b s)).heard b = true := by
    have e : (journalTaken b (beforeJournal b s)).sys.vddOk = true := (congrArg Sys.vddOk hy).trans hv
    simp [State.heard, State.whole, klink, kdeaf, e]
  refine ⟨(c.holm b).link.trans klink, (c.holm b).deaf.trans kdeaf, (c.holm b).restarted.trans (by rw [k]), ?_,
    ((c.holm b).held heard).trans (by rw [k]), ((c.holm b).notices heard).trans (by rw [k]; exact hn),
    fun e => c.latched (journalTaken_latched (hl e)), fun e x hx => c.completions x (journalTaken_completions ?_ x ?_)⟩
  · rw [(c.holm b).beacons, k, d.beacons, lanesBack_holm]
    simp
  · rw [d.restarted, lanesBack_holm]
    exact e
  · rw [d.held, lanesBack_holm]
    exact hx

end Sys2Proof.Machine
end

section
/-! PROOFS. Host loss as a whole (R25, R29, R30, R254 to R259): the end of HOLD_T, the watchdog of a port, and the commands of the
link's lanes. -/

namespace Sys2Proof.Machine

/-! ### HOLD_T ends -/

theorem OutputsOnly.safety {s t : State} (h : OutputsOnly s t) (c : Ch) : (t.ch c).safety = (s.ch c).safety :=
  (congrArg Chan.safety (h.chan c) :)

theorem OutputsOnly.holmLive {s t : State} (h : OutputsOnly s t) (b : Bank) : t.holmLive b = s.holmLive b := by
  simp only [State.holmLive, (h.burrow b).restarted]

theorem OutputsOnly.locked {s t : State} (h : OutputsOnly s t) (c : Ch) : t.locked c = s.locked c := by
  simp only [State.locked, State.members, h.paired, h.locks]

theorem OutputsOnly.l3Demand {s t : State} (h : OutputsOnly s t) (c : Ch) (x : HostLoss) : t.l3Demand c x = s.l3Demand c x := by
  simp only [State.l3Demand, State.safeDemand, h.mode, h.lead, h.safety, h.bmap, h.burDemand]

/-- Outputs do not decide what governs a channel in host loss (R35). -/
theorem OutputsOnly.govern {s t : State} (h : OutputsOnly s t) {c : Ch} {x : HostLoss} (hl : (s.ch (s.lead c)).l3 = some x) :
    t.govern c = s.govern c := by
  simp only [State.govern, h.mode, h.holmLive, h.locked, h.inBreak, h.burrowOn, h.burDemand, h.lead, h.l3, hl, h.l3Demand]

theorem lead_of_unpaired {s : State} {c : Ch} (h : (s.ch c).paired = false) : s.lead c = c := by simp [State.lead, h]

theorem evalOut_of_unpaired {s : State} {c : Ch} (h : (s.ch c).paired = false) : evalOut c s = evalOne c s := by
  rw [evalOut, State.members, if_neg (by simp [h])]
  rfl

/-- Its safe state is in force at level 3 of a channel (R257). -/
def takeSafe (c : Ch) (x : HostLoss) (s : State) : State :=
  s.setCh c (fun ch => { ch with l3 := some { x with safe := true, atEnd := s.stateNow c } })

theorem holdTExpiry_eq {c : Ch} {s : State} {x : HostLoss} {d : Nat} (hl : (s.ch c).l3 = some x) (hd : x.due = some d) :
    holdTExpiry c s =
      if !x.safe && decide (d ≤ s.sys.raw) && s.holmLive (bankOf c) then evalOut c (takeSafe c x s) else s := by
  simp only [holdTExpiry, hl, hd, takeSafe]

/-- HOLD_T that has run puts the safe state of the channel in force, and no other channel changes (R257). -/
theorem holdTExpiry_spec {c : Ch} {s : State} {x : HostLoss} {d : Nat} (hl : (s.ch c).l3 = some x) (hd : x.due = some d)
    (hs : x.safe = false) (hr : d ≤ s.sys.raw) (hp : (s.ch c).paired = false) (hm : s.holmLive (bankOf c) = true) :
    let t := holdTExpiry c s
    (t.ch c).l3 = some { x with safe := true, atEnd := s.stateNow c } ∧ t.settled c ∧ ∀ e : Ch, e ≠ c → t.ch e = s.ch e := by
  intro t
  have kc : (takeSafe c x s).ch c = { s.ch c with l3 := some { x with safe := true, atEnd := s.stateNow c } } :=
    State.setCh_ch_self ..
  have kp : ((takeSafe c x s).ch c).paired = false := by rw [kc]; exact hp
  have kl : (takeSafe c x s).lead c = c := lead_of_unpaired kp
  have ht : t = evalOne c (takeSafe c x s) := by
    change holdTExpiry c s = _
    rw [holdTExpiry_eq hl hd, if_pos (by simp [hs, hr, hm]), evalOut_of_unpaired kp]
  have ho : OutputsOnly (takeSafe c x s) t := ht ▸ evalOne_outputs ..
  have hg : t.standing c = (takeSafe c x s).govern c := by rw [ht, evalOne_standing, if_pos rfl]
  refine ⟨(ho.l3 c).trans (by rw [kc]), hg.trans (ho.govern (by rw [kl, kc])).symm, fun e he => ?_⟩
  rw [ht, evalOne_ch_ne c e _ he (kl.symm ▸ he)]
  exact State.setCh_ch_ne s c _ e he

theorem holdTExpiry_early {c : Ch} {s : State} {x : HostLoss} {d : Nat} (hl : (s.ch c).l3 = some x) (hd : x.due = some d)
    (hr : s.sys.raw < d) : holdTExpiry c s = s := by
  rw [holdTExpiry_eq hl hd, if_neg (by simp [hr])]

/-! ### The watchdog of a port -/

/-- The expiry of a port's watchdog is noted, with its event and its Den record (R254). -/
def wdNoted (p : Port) (s : State) : State :=
  denEvent 2 (BitVec.ofNat 8 (portSrc p 2)) (portObj p) []
    (raise (portSrc p 2) [] (s.setPort p (fun q => { q with wdExpired := true })))

theorem wdNoted_ch (p : Port) (s : State) (c : Ch) : (wdNoted p s).ch c = s.ch c := by
  have h := (raise_records (portSrc p 2) [] (s.setPort p (fun q => { q with wdExpired := true }))).trans
    (denEvent_records 2 (BitVec.ofNat 8 (portSrc p 2)) (portObj p) [] _)
  rw [State.ch, wdNoted, h.chans]
  rfl

theorem watchdogExpiry_eq {p : Port} {s : State} (h : s.wdDue p = true) :
    watchdogExpiry p s = hostLossAll (allCh.filter (fun c => ((wdNoted p s).ch c).owner == some p)) (wdNoted p s) := by
  rw [watchdogExpiry, if_pos h]
  rfl

theorem wdNoted_expired (p : Port) (s : State) : ((wdNoted p s).port p).wdExpired = true := by
  have h : calm.rel (s.setPort p (fun q => { q with wdExpired := true })) (wdNoted p s) := by simp [wdNoted]
  rw [(h.port p).wdExpired, State.setPort_port_self]

theorem wdNoted_latched (p : Port) (s : State) : (wdNoted p s).latched (portSrc p 2) :=
  Calm.latched (calm.keeps (denEvent_stays ..)) (raise_latched _ _ _ (by revert p; decide))

/-- An output that is lost is in host loss, whether it was before or not (R256). -/
theorem hostLossAll_active {l : List Ch} {c : Ch} (hc : c ∈ l) {s : State} (hm : (s.ch c).mode.isOutput = true) :
    ((hostLossAll l s).ch c).l3.isSome = true := by
  rcases h : (s.ch c).l3 with _ | x
  · rw [hostLossAll_l3 hc h hm]
    rfl
  · rw [hostLossAll_l3_kept l h]
    rfl

/-- A watchdog that has run out puts every output that its port owns into host loss, and no other channel (R254). -/
theorem watchdogExpiry_spec {p : Port} {s : State} (h : s.wdDue p = true) :
    let t := watchdogExpiry p s
    (t.port p).wdExpired = true ∧ t.latched (portSrc p 2) ∧
      (∀ c : Ch, (s.ch c).owner = some p → (s.ch c).mode.isOutput = true → (t.ch c).l3.isSome = true) ∧
      ∀ c : Ch, (s.ch c).owner ≠ some p → (t.ch c).l3 = (s.ch c).l3 ∧ (t.ch c).mode = (s.ch c).mode := by
  intro t
  have ht : t = _ := watchdogExpiry_eq h
  have hc : calm.rel (wdNoted p s) t := by
    rw [ht]
    simp
  refine ⟨((hc.port p).wdExpired).trans (wdNoted_expired p s), Calm.latched hc (wdNoted_latched p s), fun c ho hm => ?_, fun c ho => ?_⟩
  · rw [ht]
    exact hostLossAll_active (by simp [allCh, wdNoted_ch, ho]) (by rwa [wdNoted_ch])
  · rw [ht, ← wdNoted_ch p s c]
    exact hostLossAll_spared (by simp [wdNoted_ch, ho]) _

theorem watchdogExpiry_unset {p : Port} {s : State} (h : (s.port p).wdt = 0) : watchdogExpiry p s = s := by
  rw [watchdogExpiry, if_neg (by simp [State.wdDue, h])]

/-! ### The statement -/

/-- Settles O44: a lane that is lost lands in `hostLossAll`, whose evaluations keep level 3 and leave the other bank; the expiries
evaluate once, and the link's return delivers what waited before it reads the journal. -/
theorem hostLossHoldsThenTakesTheSafeState : Obligations.HostLossHoldsThenTakesTheSafeState := by
  intro s held3
  have held (b : Bank) (t : State) (h : Held b s t) : held3 b t := by
    intro c hb hm hl
    subst hb
    exact (h c rfl hm hl).trans (congrArg some (lossOf_eq s c))
  refine ⟨fun b hl hd => ⟨?_, ?_, ?_⟩, fun b down up hu hd => ?_, fun b hw hu hv hi => ?_,
    fun c x d hx hd hs => ⟨fun hr hp hm _ => ?_, fun hr => ?_⟩, fun p => ⟨fun h => ?_, fun h => ?_⟩⟩
  · obtain ⟨k, kd, kv, ko, kh⟩ := linkLoss_both hl hd
    exact ⟨_, rfl, k, kd, kv, ko, held b _ kh⟩
  · obtain ⟨k, kd, ko, kh⟩ := linkLoss_down hd
    exact ⟨_, rfl, k.trans hl, kd, ko, held b _ kh⟩
  · obtain ⟨k, kd, kv, kc⟩ := linkLoss_up hl
    exact ⟨_, rfl, k, kd.trans hd, kv, fun c => ⟨(congrArg Chan.l3 (kc c) :), (congrArg Chan.out (kc c) :),
      (congrArg Chan.level (kc c) :), (congrArg Chan.mode (kc c) :)⟩⟩
  · exact congrArg Host.Outcome.next (linkLoss_again hu hd)
  · exact ⟨_, rfl, linkEstablishment_spec hw hu hv hi⟩
  · exact ⟨_, rfl, holdTExpiry_spec hx hd hs hr hp hm⟩
  · exact congrArg Host.Outcome.next (holdTExpiry_early hx hd hr)
  · have hk : portSrc p 2 = 162 + 8 * p.val := by rw [portSrc]; omega
    exact ⟨_, rfl, hk ▸ watchdogExpiry_spec h⟩
  · exact congrArg Host.Outcome.next (watchdogExpiry_unset h)

end Sys2Proof.Machine
end

section
/-! PROOFS. Pulse timebases and evaluations (R36, R199, R202): what giving the timebases anew leaves of a channel, and when an
evaluation leaves level 5 as it was set (R35, R38). -/

namespace Sys2Proof.Machine

/-! ### Timebases -/

/-- A switch without its place on a timebase and the settings of its pulse generator (R199 to R202). -/
def Sw.besidesTb (w : Sw) : Sw := { w with tb := none, tbNext := none, edgeFrom := 0, pgen := .reset, prun := .reset }

def Chan.besidesTb (ch : Chan) : Chan := { ch with sw := ch.sw.besidesTb }

/-- What an update of one channel leaves of it, it leaves of every channel. -/
theorem setCh_keeps {β : Type} (g : Chan → β) (c : Ch) (f : Chan → Chan) (s : State) (d : Ch) (h : ∀ ch, g (f ch) = g ch) :
    g ((s.setCh c f).ch d) = g (s.ch d) := by
  by_cases e : d = c
  · subst e
    rw [State.setCh_ch_self, h]
  · rw [State.setCh_ch_ne s c f d e]

/-- A loop of updates, each of one channel, that leave the same of a channel. -/
theorem setChs_keeps {β : Type} (g : Chan → β) (l : List Ch) (f : State → Chan → Chan) (s : State) (d : Ch)
    (h : ∀ u ch, g (f u ch) = g ch) : g ((overAll l (fun m u => u.setCh m (f u)) s).ch d) = g (s.ch d) :=
  overAll_keeps (fun u => g (u.ch d)) (f := fun m u => u.setCh m (f u)) (fun m u => setCh_keeps g m (f u) u d (h u)) s

theorem placePhase_besidesTb (c : Ch) (s : State) (d : Ch) :
    ((placePhase c s).ch d).besidesTb = (s.ch d).besidesTb := by
  unfold placePhase
  split
  · rfl
  · dsimp only
    split
    · rfl
    · split
      · rfl
      · exact setChs_keeps Chan.besidesTb _ _ s d fun _ _ => rfl

theorem tbTake_besidesTb (c : Ch) (s : State) (d : Ch) : ((tbTake c s).ch d).besidesTb = (s.ch d).besidesTb := by
  unfold tbTake
  split
  · split
    · rfl
    · next k _ =>
      extract_lets s1 s2
      have taken : (s2.ch d).besidesTb = (s1.ch d).besidesTb := setChs_keeps Chan.besidesTb _ _ s1 d fun _ _ => rfl
      have placed := (placePhase_besidesTb c s2 d).trans taken
      refine Eq.trans ?_ placed
      exact setChs_keeps Chan.besidesTb _ (fun _ ch => { ch with sw := { ch.sw with prun := ch.sw.pgen } }) _ d fun _ _ => rfl
  · rfl

theorem tbSettle_besidesTb (b : Bank) (s : State) (d : Ch) :
    ((tbSettle b s).ch d).besidesTb = (s.ch d).besidesTb :=
  overAll_keeps (fun u => (u.ch d).besidesTb) (fun c u => tbTake_besidesTb c u d) (tbRelease b s)

/-- A channel without what evaluations decide and timebases give. -/
def Chan.held (ch : Chan) : Chan := ch.settings.besidesTb

/-- What stands in a switch through evaluations and timebases. -/
structure SwKept (v w : Sw) : Prop where
  prot : w.prot = v.prot
  wire : w.wire = v.wire
  fuse : w.fuse = v.fuse
  diag : w.diag = v.diag
  theta : w.theta = v.theta
  fuseF : w.fuseF = v.fuseF
  restarts : w.restarts = v.restarts
  ipk : w.ipk = v.ipk
  qin : w.qin = v.qin
  i100 : w.i100 = v.i100

theorem SwKept.of_held {x y : Chan} (h : y.held = x.held) : SwKept x.sw y.sw :=
  have w := congrArg Chan.sw h
  ⟨(congrArg Sw.prot w :), (congrArg Sw.wire w :), (congrArg Sw.fuse w :), (congrArg Sw.diag w :), (congrArg Sw.theta w :),
   (congrArg Sw.fuseF w :), (congrArg Sw.restarts w :), (congrArg Sw.ipk w :), (congrArg Sw.qin w :), (congrArg Sw.i100 w :)⟩

theorem paired_of_held {x y : Chan} (h : y.held = x.held) : y.paired = x.paired := (congrArg Chan.paired h :)
theorem stored_of_held {x y : Chan} (h : y.held = x.held) : y.stored = x.stored := (congrArg Chan.stored h :)

theorem tbSettle_held (b : Bank) (s : State) (d : Ch) : ((tbSettle b s).ch d).held = (s.ch d).held :=
  congrArg Chan.settings (tbSettle_besidesTb b s d)

theorem OutputsOnly.held {s t : State} (h : OutputsOnly s t) (d : Ch) : (t.ch d).held = (s.ch d).held :=
  congrArg Chan.besidesTb (h.chan d)

/-! ### Level 5 through an evaluation -/

theorem endTrim_l5 (c : Ch) (s : State) (d : Ch) : ((endTrim c s).ch d).l5 = (s.ch d).l5 := by
  unfold endTrim
  split
  · rfl
  · extract_lets s1 isT gone
    have ended : (s1.ch d).l5 = (s.ch d).l5 := setCh_keeps Chan.l5 c _ s d fun _ => rfl
    refine (overAll_keeps (fun u => (u.ch d).l5) (fun h u => ?_) _).trans ended
    split
    · rw [finish_ch]
    · rfl

/-- Only a hold that governs at level 4 writes level 5 (R38). -/
theorem evalOne_l5 {c : Ch} {s : State} (h : (s.govern c).1 ≠ 4) (d : Ch) : ((evalOne c s).ch d).l5 = (s.ch d).l5 := by
  unfold evalOne
  extract_lets ch g now on ramp moved from_ s1 s2 s3
  have h1 : (s1.ch d).l5 = (s.ch d).l5 := setCh_keeps Chan.l5 c _ s d fun _ => rfl
  have h2 : (s2.ch d).l5 = (s1.ch d).l5 := by
    simp only [s2]
    split <;> rfl
  have h3 : (s3.ch d).l5 = (s2.ch d).l5 := by
    simp only [s3]
    split
    · exact endTrim_l5 c s2 d
    · rfl
  rw [if_neg (by simp [g, h]), h3, h2, h1]

/-- What the first hold of a channel that it executes demands (R38, R126). -/
def Chan.action (ch : Chan) : Option Demand := ch.acts.findSome? (fun a => actDemand ch a.kind)

theorem actFor_eq (s : State) (c : Ch) : s.actFor c = (s.ch (s.lead c)).action := rfl

/-- Level 4 governs only through a hold that its target executes (R35, R38). -/
theorem govern_ne_four {s : State} {c : Ch} (h : s.actFor c = none) : (s.govern c).1 ≠ 4 := by
  unfold State.govern
  simp only [h]
  repeat' split
  all_goals simp

/-- Where level 5 governs outside the break of a mode change, no hold is executed (R35). -/
theorem actFor_of_level_five {s : State} {c : Ch} (h : (s.govern c).1 = 5) (hb : (s.ch c).inBreak = false) :
    s.actFor c = none := by
  cases ha : s.actFor c with
  | none => rfl
  | some d =>
    refine absurd h ?_
    unfold State.govern
    simp only [ha, hb]
    repeat' split
    all_goals simp_all

theorem evalOne_l5_of_idle {c : Ch} {s : State} (hp : (s.ch c).paired = false) (ha : (s.ch c).action = none) (d : Ch) :
    ((evalOne c s).ch d).l5 = (s.ch d).l5 :=
  evalOne_l5 (govern_ne_four (by rw [actFor_eq, lead_of_unpaired hp, ha])) d

end Sys2Proof.Machine
end

section
/-! PROOFS. Pairs (R56 to R58, R208): what the declaration of a pair and its dissolution make of the two members, and the commands
CH.PAIR and CH.UNPAIR. -/

namespace Sys2Proof.Machine

/-! ### Commands that complete at once -/

/-- No mode change is under way on a channel whose next command is free to run (R34). -/
theorem Ready.changing {op : BitVec 16} {r : Req} {s : State} {c : Ch} (h : Ready op r s) (hc : chOf r.obj = some c) :
    (s.ch c).changing = none := by
  cases busy : (s.ch c).changing with
  | none => rfl
  | some g => exact absurd h.1 (by simp [State.opReady, State.objBusy, hc, busy])

/-- A channel command whose own part completes OK at once, calm and within the same instant, leaves the channels that its own part
answers. -/
theorem runCh_ok {op : BitVec 16} {r : Req} {s u : State} {c : Ch} {body : Ch → State → Res} (h : Ready op r s)
    (hc : chOf r.obj = some c) (hb : body c (s.running r) = ok u) (hk : calm.rel (s.running r) u) (hn : u.sys.now = s.sys.now) :
    Completion.mk r op (r.tag == 0) stOK [] s.sys.now ∈ (runCh op r s body).completions ∧
      ∀ d : Ch, (runCh op r s body).ch d = u.ch d := by
  have link : u.linkOk r.obj = true := by
    rw [← h.linkOk]
    unfold State.linkOk
    split
    · next b _ => exact (hk.holm b).link
    · rfl
  have e : runCh op r s body = finish op r stOK [] 0 u := runMail_done h (by simp only [hc]; exact hb)
  rw [e]
  refine ⟨?_, finish_ch op r stOK [] 0 u⟩
  rw [(finish_completed op r stOK [] 0 u link).1, hn]
  exact List.mem_append_right _ (List.mem_singleton_self _)

/-! ### A pair is declared -/

theorem partnerOf_ne (c : Ch) : partnerOf c ≠ c := by revert c; decide

theorem evenOf_of_even {e : Ch} (h : e.val % 2 = 0) : evenOf e = e := Fin.ext (by simp [evenOf, h])

/-- The leader of a new pair, on which the pair's wire model goes on (log entry 137). -/
def Chan.leading (ch o : Chan) : Chan :=
  { ch with paired := true, sw := { ch.sw with theta := max ch.sw.theta o.sw.theta, fuseF := max ch.sw.fuseF o.sw.fuseF } }

/-- The odd member of a new pair, with the leader's settings and its own in store (R57, R208). -/
def Chan.led (ch : Chan) (l : Sw) : Chan :=
  { ch with
    paired := true
    stored := some (SwSettings.mk ch.sw.prot ch.sw.wire ch.sw.fuse ch.sw.diag ch.sw.pgen)
    sw := { ch.sw with
      prot := l.prot
      wire := l.wire
      fuse := l.fuse
      diag := l.diag
      pgen := l.pgen
      prun := l.prun
      tb := l.tb
      tbNext := l.tbNext
      lastOn := l.lastOn
      edgeFrom := l.edgeFrom
      olLow := 0
      olHigh := 0
      extDrive := false } }

theorem pairNow_eq (e o : Ch) (s : State) : pairNow e o s =
    evalOut e (tbSettle (bankOf e) ((s.setCh e (Chan.leading · (s.ch o))).setCh o (Chan.led · (s.ch e).sw))) := rfl

theorem pairNow_held (e o d : Ch) (s : State) : ((pairNow e o s).ch d).held =
    (((s.setCh e (Chan.leading · (s.ch o))).setCh o (Chan.led · (s.ch e).sw)).ch d).held := by
  rw [pairNow_eq]
  exact ((evalOut_outputs ..).held d).trans (tbSettle_held ..)

theorem pairNow_leader {e o : Ch} (h : o ≠ e) (s : State) :
    ((pairNow e o s).ch e).held = ((s.ch e).leading (s.ch o)).held := by
  rw [pairNow_held, State.setCh_ch_ne _ _ _ _ h.symm, State.setCh_ch_self]

theorem pairNow_partner {e o : Ch} (h : o ≠ e) (s : State) :
    ((pairNow e o s).ch o).held = ((s.ch o).led (s.ch e).sw).held := by
  rw [pairNow_held, State.setCh_ch_self, State.setCh_ch_ne _ _ _ _ h]

theorem chPair_pairs {r : Req} {s : State} {e : Ch} (hd : r.payload = []) (hp : (s.ch e).paired = false)
    (hk : pairOk s e (partnerOf e) = true) : chPair r e s = ok (pairNow e (partnerOf e) s) := by
  simp [chPair, checked, firstFail, hd, hp, hk]

/-! ### A pair is dissolved -/

/-- A member's share of what a pair has learned and counted (R58, R208). -/
def Sw.share (pair x : Sw) : Sw :=
  { x with
    theta := pair.theta
    fuseF := pair.fuseF
    restarts := pair.restarts
    learned := pair.learned
    ipk := pair.ipk / 2
    qin := pair.qin / 2
    i100 := pair.i100 / 2 }

/-- A switch with the settings that it kept in store, if it kept any (R58). -/
def Chan.ownSw (ch : Chan) : Sw :=
  match ch.stored with
  | some k => { ch.sw with prot := k.prot, wire := k.wire, fuse := k.fuse, diag := k.diag, pgen := k.pgen, prun := k.pgen }
  | none => ch.sw

theorem divide_leader {e : Ch} (h : evenOf e = e) (s : State) :
    (divide e s).ch e = { s.ch e with paired := false, sw := (s.ch e).sw.share (s.ch e).sw } := by
  unfold divide
  simp only [h]
  rw [State.setCh_ch_ne _ _ _ _ (partnerOf_ne e).symm, State.setCh_ch_self]
  rfl

theorem divide_partner {e : Ch} (h : evenOf e = e) (s : State) :
    (divide e s).ch (partnerOf e) = { s.ch (partnerOf e) with
      paired := false
      stored := none
      acts := []
      sw := (s.ch e).sw.share (s.ch (partnerOf e)).ownSw } := by
  unfold divide
  simp only [h]
  rw [State.setCh_ch_self, State.setCh_ch_ne _ _ _ _ (partnerOf_ne e)]
  rfl

/-- The pair is divided, and the odd member off at level 5 and on no timebase (R58). -/
def divided (e : Ch) (s : State) : State :=
  (divide e s).setCh (partnerOf e) (fun ch => { ch with l5 := .off, sw := { ch.sw with tb := none } })

theorem unpairNow_eq (e : Ch) (s : State) :
    unpairNow e s = evalOut (partnerOf e) (evalOut e (tbSettle (bankOf e) (divided e s))) := rfl

theorem divided_leader {e : Ch} (h : evenOf e = e) (s : State) :
    (divided e s).ch e = { s.ch e with paired := false, sw := (s.ch e).sw.share (s.ch e).sw } := by
  rw [divided, State.setCh_ch_ne _ _ _ _ (partnerOf_ne e).symm, divide_leader h]

theorem divided_partner {e : Ch} (h : evenOf e = e) (s : State) :
    (divided e s).ch (partnerOf e) = { s.ch (partnerOf e) with
      paired := false
      stored := none
      acts := []
      l5 := .off
      sw := { (s.ch e).sw.share (s.ch (partnerOf e)).ownSw with tb := none } } := by
  rw [divided, State.setCh_ch_self, divide_partner h]

theorem unpairNow_held (e d : Ch) (s : State) : ((unpairNow e s).ch d).held = ((divided e s).ch d).held := by
  rw [unpairNow_eq]
  exact ((evalOut_outputs ..).held d).trans (((evalOut_outputs ..).held d).trans (tbSettle_held ..))

/-- Giving the timebases anew leaves what governs a channel at levels 4 and 5. -/
theorem tbSettle_demand (b : Bank) (s : State) (d : Ch) :
    ((tbSettle b s).ch d).l5 = (s.ch d).l5 ∧ ((tbSettle b s).ch d).action = (s.ch d).action ∧
      ((tbSettle b s).ch d).paired = (s.ch d).paired :=
  have k := tbSettle_besidesTb b s d
  ⟨(congrArg Chan.l5 k :), (congrArg Chan.action k :), (congrArg Chan.paired k :)⟩

/-- The evaluations of two channels that are no pair and that no hold drives leave level 5 of both (R38). -/
theorem evalOuts_l5 {c d : Ch} {s : State} (hne : d ≠ c) (hc : (s.ch c).paired = false) (hd : (s.ch d).paired = false)
    (ac : (s.ch c).action = none) (ad : (s.ch d).action = none) (m : Ch) :
    ((evalOut d (evalOut c s)).ch m).l5 = (s.ch m).l5 := by
  have same : (evalOne c s).ch d = s.ch d := evalOne_ch_ne c d s hne (by rwa [lead_of_unpaired hc])
  have first := evalOne_l5_of_idle hc ac m
  rw [evalOut_of_unpaired hc, evalOut_of_unpaired (by rwa [same]), evalOne_l5_of_idle (by rwa [same]) (by rwa [same]), first]

/-- A pair that is dissolved off, and that no hold drives, leaves both members off at level 5 (R58). -/
theorem unpairNow_l5 {e : Ch} {s : State} (h : evenOf e = e) (ha : (s.ch e).action = none) (hl : (s.ch e).l5 = .off) :
    ((unpairNow e s).ch e).l5 = .off ∧ ((unpairNow e s).ch (partnerOf e)).l5 = .off := by
  obtain ⟨le, ae, pe⟩ := tbSettle_demand (bankOf e) (divided e s) e
  obtain ⟨lo, ao, po⟩ := tbSettle_demand (bankOf e) (divided e s) (partnerOf e)
  rw [divided_leader h] at le ae pe
  rw [divided_partner h] at lo ao po
  have l5 := evalOuts_l5 (partnerOf_ne e) pe po (ae.trans ha) ao
  rw [unpairNow_eq]
  exact ⟨(l5 e).trans (le.trans hl), (l5 (partnerOf e)).trans lo⟩

theorem chUnpair_divides {r : Req} {s : State} {e : Ch} (hd : r.payload = []) (hm : (s.ch e).mode = .dout)
    (hp : (s.ch e).paired = true) (he : (s.govern e).1 = 5) (ho : (s.govern (partnerOf e)).1 = 5) (hl : (s.ch e).l5 = .off) :
    chUnpair r e s = ok (unpairNow e s) := by
  simp [chUnpair, checked, firstFail, hd, hm, hp, he, ho, hl, normDemand, deenergised]

/-! ### The statement -/

/-- CH.PAIR on a free pair position (R56, R57, R208). -/
theorem chPair_spec {r : Req} {s : State} {e : Ch} (hc : chOf r.obj = some e) (hd : r.payload = []) (h : Ready 0x0207 r s)
    (hp : (s.ch e).paired = false) (hk : pairOk s e (partnerOf e) = true) :
    let o := partnerOf e
    ∃ t, exec (.chPair r) s = .next t ∧ Completion.mk r 0x0207 (r.tag == 0) stOK [] s.sys.now ∈ t.completions ∧
      (t.ch e).held = ((s.ch e).leading (s.ch o)).held ∧ (t.ch o).held = ((s.ch o).led (s.ch e).sw).held := by
  intro o
  have body : chPair r e (s.running r) = ok (pairNow e o (s.running r)) := chPair_pairs hd hp hk
  have steady : calm.rel (s.running r) (pairNow e o (s.running r)) := by simp [pairNow]
  have now : (pairNow e o (s.running r)).sys.now = s.sys.now := now_of_anchor (by simp [pairNow, State.running])
  obtain ⟨done, chans⟩ := runCh_ok h hc body steady now
  refine ⟨_, rfl, done, ?_, ?_⟩
  · rw [chans, pairNow_leader (partnerOf_ne e)]
    rfl
  · rw [chans, pairNow_partner (partnerOf_ne e)]
    rfl

/-- CH.UNPAIR on a pair that is off at level 5 (R58, R208). -/
theorem chUnpair_spec {r : Req} {s : State} {e : Ch} (hc : chOf r.obj = some e) (hd : r.payload = []) (h : Ready 0x0208 r s)
    (hv : e.val % 2 = 0) (hm : (s.ch e).mode = .dout) (hp : (s.ch e).paired = true) (he : (s.govern e).1 = 5)
    (ho : (s.govern (partnerOf e)).1 = 5) (hl : (s.ch e).l5 = .off) :
    let o := partnerOf e
    ∃ t, exec (.chUnpair r) s = .next t ∧ Completion.mk r 0x0208 (r.tag == 0) stOK [] s.sys.now ∈ t.completions ∧
      (t.ch e).l5 = .off ∧ (t.ch o).l5 = .off ∧ (t.ch e).held = ((divided e s).ch e).held ∧
      (t.ch o).held = ((divided e s).ch o).held := by
  intro o
  have even := evenOf_of_even hv
  have body : chUnpair r e (s.running r) = ok (unpairNow e (s.running r)) := chUnpair_divides hd hm hp he ho hl
  have steady : calm.rel (s.running r) (unpairNow e (s.running r)) := by simp [unpairNow]
  have now : (unpairNow e (s.running r)).sys.now = s.sys.now := now_of_anchor (by simp [unpairNow, State.running])
  obtain ⟨done, chans⟩ := runCh_ok h hc body steady now
  have idle : (s.ch e).action = none := by
    have none := actFor_of_level_five he (by simp [Chan.inBreak, h.changing hc])
    rwa [actFor_eq, State.lead, if_pos hp, even] at none
  obtain ⟨le, lo⟩ := unpairNow_l5 (s := s.running r) even idle hl
  refine ⟨_, rfl, done, ?_, ?_, ?_, ?_⟩
  · rw [chans, le]
  · rw [chans, lo]
  · rw [chans, unpairNow_held, divided_leader even, divided_leader even]
    rfl
  · rw [chans, unpairNow_held, divided_partner even, divided_partner even]
    rfl

/-- Settles O16: what evaluations and timebases leave of a channel holds the settings of both members, and no hold that governs writes
their level 5 when the pair is dissolved. -/
theorem pairingSharesAndDividesSettings : Obligations.PairingSharesAndDividesSettings := by
  intro r s e hc hd o
  refine ⟨fun h _ hp hk => ?_, fun h hv hm hp _ _ he ho hl => ?_⟩
  · obtain ⟨t, step, done, he, ho⟩ := chPair_spec hc hd h hp hk
    have we := SwKept.of_held he
    have wo := SwKept.of_held ho
    exact ⟨t, step, done, paired_of_held he, paired_of_held ho, stored_of_held ho, wo.prot, wo.wire, wo.fuse, wo.diag, we.theta,
      we.fuseF⟩
  · obtain ⟨t, step, done, le, lo, ke, ko⟩ := chUnpair_spec hc hd h hv hm hp he ho hl
    rw [divided_leader (evenOf_of_even hv)] at ke
    rw [divided_partner (evenOf_of_even hv)] at ko
    have we := SwKept.of_held ke
    have wo := SwKept.of_held ko
    refine ⟨t, step, done, paired_of_held ke, paired_of_held ko, le, lo, fun k hk => ?_, we.prot, ?_⟩
    · have own : (s.ch o).ownSw = { (s.ch o).sw with
          prot := k.prot, wire := k.wire, fuse := k.fuse, diag := k.diag, pgen := k.pgen, prun := k.pgen } := by
        rw [Chan.ownSw, hk]
      rw [own] at wo
      exact ⟨wo.prot, wo.wire, wo.fuse, wo.diag⟩
    · rintro m (rfl | rfl)
      · exact ⟨we.theta, we.fuseF, we.restarts, we.ipk, we.qin, we.i100⟩
      · exact ⟨wo.theta, wo.fuseF, wo.restarts, wo.ipk, wo.qin, wo.i100⟩

end Sys2Proof.Machine
end

section
/-! PROOFS. The front end of a channel whose Holm has restarted (R267), and CH.MODE there: the statement on CH.MODE asks for the link as
Mainland counts it, which a lockout leaves up until LINK_LOSS, and not that the Holm still holds its channels' modes. -/

namespace Sys2Proof.Machine

/-- A channel of a Holm that has restarted works in OFF (R267): whatever its mode, the front end joins no terminal (R42). -/
theorem role_of_restarted {s : State} {c : Ch} (h : (s.holm (bankOf c)).restarted = true) (x : Terminal) :
    s.role c x = .none_ := by
  have now : s.modeNow c = .off := by simp [State.modeNow, State.holmLive, h]
  have front : s.frontMode c = .off := by
    unfold State.frontMode
    rw [now]
    split
    · exact ite_self _
    · rfl
  rw [State.role, front]
  cases x <;> rfl

/-- CH.MODE of CH0 to DO. -/
def toSwitch : Req :=
  { port := 0, tag := 1, obj := chObj 0, seq := 0, fence := false, autorel := false, prio := 0, deadline := 0, payload := [3, 0, 0, 0] }

/-- Port 0 owns CH0, and Holm A has gone into lockout, which Mainland has not noticed yet (R248). -/
def lockedOut : State := holmLockout 0 0 (State.reset.setCh 0 (fun ch => { ch with owner := some 0 }))

/-- A CH.MODE that runs there, 1.5 ms less a tick after its start. -/
def lockedOutChange : State :=
  (runCh 0x0201 toSwitch lockedOut (chMode toSwitch ⟨[]⟩)).setSys (fun y => { y with raw := 14999 })

def switchChange : ModeChange := ModeChange.mk .dout 0 0x0201 (some toSwitch) 0 false

theorem lockedOutChange_changing : Ready 0x0201 toSwitch lockedOut ∧ (lockedOutChange.ch 0).changing = some switchChange ∧
    (lockedOutChange.ch 0).paired = false ∧ (lockedOutChange.ch 0).carrierMode = false ∧ (lockedOutChange.ch 0).acts = [] := by
  decide +kernel

/-- Nothing else waits there, and Mainland still counts the link as up. -/
theorem lockedOutChange_alone : lockedOutChange.pending = [] ∧ (lockedOutChange.holm 0).link = true ∧
    (∀ d : Ch, d ≠ 0 → (lockedOutChange.ch d).changing = none) ∧ (∀ d : Ch, (lockedOutChange.ch d).brg.next = none) ∧
    (∀ b, lockedOutChange.tbWaits b = false) ∧ lockedOutChange.idleInside := by decide +kernel

/-- The tick that enters DO leaves the Holm as restarted as it was. -/
theorem lockedOutChange_restarted : ((tick lockedOutChange).holm 0).restarted = true := by decide +kernel

/-- Refutes O14: a CH.MODE to DO that runs in a Holm in lockout, before Mainland has counted its link as lost, enters DO 1.5 ms later
with P still at high impedance, not the output of the switch, since the Holm's channels work in OFF until its link is established. -/
theorem not_chModeRebuildsItsChannel : ¬ Obligations.ChModeRebuildsItsChannel := by
  unfold Obligations.ChModeRebuildsItsChannel
  rintro ⟨-, ticks⟩
  obtain ⟨-, changing, unpaired, dc, acts⟩ := lockedOutChange_changing
  obtain ⟨pending, link, others, words, bases, idle⟩ := lockedOutChange_alone
  obtain ⟨enters, -⟩ := ticks lockedOutChange 0 switchChange toSwitch pending changing rfl rfl link unpaired others words bases idle
  obtain ⟨t, ht, -, roles, -⟩ := enters rfl dc (by decide) (by decide) acts
  have stepped : step lockedOutChange = .next (tick lockedOutChange) := by rw [step, pending]
  obtain rfl : tick lockedOutChange = t := Host.Outcome.next.inj (stepped.symm.trans ht)
  have off : (tick lockedOutChange).role 0 .p = .none_ := role_of_restarted (c := 0) lockedOutChange_restarted .p
  have switch : (tick lockedOutChange).role 0 .p = .switchOut := (roles .p).2
  exact absurd (off.symm.trans switch) (by decide)

end Sys2Proof.Machine
end

section
/-! PROOFS. A change of one channel alone, and a notice of a Holm that is heard at once (R245, R288). -/

namespace Sys2Proof.Machine

/-- From s to t one channel becomes x, and every other channel is as it was. -/
structure OnlyCh (c : Ch) (x : Chan) (s t : State) : Prop where
  own : t.ch c = x
  others : ∀ e : Ch, e ≠ c → t.ch e = s.ch e

theorem OnlyCh.setCh (c : Ch) (f : Chan → Chan) (s : State) : OnlyCh c (f (s.ch c)) s (s.setCh c f) :=
  ⟨State.setCh_ch_self .., State.setCh_ch_ne s c f⟩

theorem OnlyCh.trans {c : Ch} {x y : Chan} {s t u : State} (h : OnlyCh c x s t) (k : OnlyCh c y t u) : OnlyCh c y s u :=
  ⟨k.own, fun e he => (k.others e he).trans (h.others e he)⟩

theorem OnlyCh.before {c : Ch} {x : Chan} {s t u : State} (h : OnlyCh c x t u) (k : t.chans = s.chans) : OnlyCh c x s u :=
  ⟨h.own, fun e he => (h.others e he).trans (by simp only [State.ch, k])⟩

theorem OnlyCh.after {c : Ch} {x : Chan} {s t u : State} (h : OnlyCh c x s t) (k : u.chans = t.chans) : OnlyCh c x s u := by
  have same (e : Ch) : u.ch e = t.ch e := by simp only [State.ch, k]
  exact ⟨(same c).trans h.own, fun e he => (same e).trans (h.others e he)⟩

/-- A channel with a disturbing change at an instant, with the S of its whole chain (R103). -/
def Chan.disturbed (t : Nat) (ch : Chan) : Chan := { ch with filt := ch.filt.suppress t ch.chain.settleFull }

/-- A channel that filters is disturbed, and no other channel changes. -/
theorem OnlyCh.disturbAt {c : Ch} {x : Chan} {s u : State} (h : OnlyCh c x s u) (t : Nat) (hx : x.mode.usesFilter = true) :
    OnlyCh c (x.disturbed t) s (disturbAt c t u) := by
  rw [Machine.disturbAt, if_pos (by rw [h.own, hx]), ← h.own]
  exact h.trans (.setCh c (Chan.disturbed t) u)

/-- A disturbance writes channels alone. -/
theorem disturbAt_leaves (c : Ch) (t : Nat) (s : State) : disturbAt c t s = { s with chans := (disturbAt c t s).chans } := by
  unfold disturbAt
  split <;> rfl

/-- A source that is raised at any time is latched (R288). -/
theorem raiseAt_latched (src : Nat) (d : List Byte) (ts : Nat) (s : State) (h : src < 256) : (raiseAt src d ts s).latched src := by
  have once : (raiseOnce src d ts s).1.latched src := fun p hm => by
    rw [(raiseOnce_events src d ts s p).evmask] at hm
    rw [raiseOnce_port]
    exact (receive_events ..).2 h hm
  exact latched_of_events once fun p => overAll_events (fun q u => noteDrop_events q u p) _

/-- While its link is up and Mainland powered, the event of a notice is raised at once (R245). -/
theorem notify_latched (b : Bank) {src : Nat} (d : List Byte) (den : Option Nat) (obj : BitVec 16) {s : State} (h : src < 256)
    (hl : (s.holm b).link = true) (hv : s.sys.vddOk = true) : (notify b src d den obj s).latched src := by
  have raised := raiseAt_latched src d (s.stamp b) s h
  unfold notify
  rw [if_pos (by simp [hl, hv])]
  cases den with
  | none => exact raised
  | some sev => exact Calm.latched (calm.keeps (denEvent_stays ..)) raised

end Sys2Proof.Machine
end

section
/-! PROOFS. The diagnostics of a bridge (R77 to R81): disturbed inputs, reports and their clearance, the excitation short and the
excitation supply. -/

namespace Sys2Proof.Machine

/-- A channel in BRG of a Holm that is up, live and heard. -/
structure LiveBridge (c : Ch) (s : State) : Prop where
  mode : (s.ch c).mode = .brg
  up : (s.holm (bankOf c)).up = true
  live : (s.holm (bankOf c)).restarted = false
  link : (s.holm (bankOf c)).link = true
  vddOk : s.sys.vddOk = true

theorem LiveBridge.bridgeUp {c : Ch} {s : State} (h : LiveBridge c s) : s.bridgeUp c = true := by
  simp [State.bridgeUp, State.holmLive, h.mode, h.up, h.live]

/-! ### Disturbed inputs -/

/-- A channel with what an input of it shows. -/
def State.noted (s : State) (c : Ch) (d : Disturb) : Chan := { s.ch c with brg := (s.disturbance c d).1 }

/-- What an input shows leaves the chain that the channel runs. -/
theorem noted_chain (s : State) (c : Ch) (d : Disturb) : (s.noted c d).chain = (s.ch c).chain := by
  cases d <;> rfl

/-- An input that is no disturbed input event is noted and no more. -/
theorem disturbedInput_notes {c : Ch} {s : State} {d : Disturb} (h : LiveBridge c s) (hd : (s.disturbance c d).2 = false) :
    OnlyCh c (s.noted c d) s (disturbedInput c d s) := by
  rw [disturbedInput, if_neg (by simp [h.bridgeUp])]
  simp only [hd, Bool.false_eq_true, if_false]
  exact .setCh c (fun ch => { ch with brg := (s.disturbance c d).1 }) s

/-- A disturbed input event is noted and disturbs the channel. -/
theorem disturbedInput_disturbs {c : Ch} {s : State} {d : Disturb} (h : LiveBridge c s) (hd : (s.disturbance c d).2 = true) :
    OnlyCh c ((s.noted c d).disturbed s.sys.now) s (disturbedInput c d s) := by
  rw [disturbedInput, if_neg (by simp [h.bridgeUp])]
  simp only [hd, if_true]
  have noted : OnlyCh c (s.noted c d) s _ := .setCh c (fun ch => { ch with brg := (s.disturbance c d).1 }) s
  exact noted.disturbAt s.sys.now (congrArg Mode.usesFilter h.mode)

/-- The input is taken: what it shows is noted, and a disturbance added exactly where it is a disturbed input event. -/
theorem disturbedInputEvent_takes {c : Ch} {s : State} (h : LiveBridge c s) {d : Disturb} {n : Brg} {hit : Prop}
    (shows : (s.disturbance c d).1 = n) (hits : (s.disturbance c d).2 = true ↔ hit) :
    ∃ t, exec (.disturbedInputEvent c d) s = .next t ∧ (t.ch c).brg = n ∧ (∀ e : Ch, e ≠ c → t.ch e = s.ch e) ∧
      (hit → (t.ch c).filt.later = (s.ch c).filt.later ++ [(s.sys.now, (s.ch c).chain.settleFull)]) ∧
      (¬ hit → (t.ch c).filt.later = (s.ch c).filt.later) := by
  cases hd : (s.disturbance c d).2 with
  | false =>
    have miss : ¬ hit := mt hits.mpr (by simp [hd])
    have only := disturbedInput_notes h hd
    exact ⟨_, rfl, by rw [only.own]; exact shows, only.others, fun k => absurd k miss, fun _ => by rw [only.own]; rfl⟩
  | true =>
    have only := disturbedInput_disturbs h hd
    refine ⟨_, rfl, by rw [only.own]; exact shows, only.others, fun _ => ?_, fun k => absurd (hits.mp hd) k⟩
    rw [only.own, Chan.disturbed, noted_chain]
    rfl

/-- A driver is at its limit of 75 mA once it has stood there for 20 µs outside blanking, until it stands below (R81). -/
theorem driverLimit_takes {c : Ch} {s : State} (h : LiveBridge c s) {ua ticks : Nat} {lim : Bool} {hit : Prop}
    (hl : (decide (75000 ≤ ua) && ((s.ch c).brg.drvLim || decide (200 ≤ s.unblanked c ticks))) = lim)
    (hits : (s.ch c).brg.drvLim ≠ lim ↔ hit) :
    ∃ t, exec (.disturbedInputEvent c (.driverLimit ua ticks)) s = .next t ∧
      (t.ch c).brg = { (s.ch c).brg with drvLim := lim } ∧ (∀ e : Ch, e ≠ c → t.ch e = s.ch e) ∧
      (hit → (t.ch c).filt.later = (s.ch c).filt.later ++ [(s.sys.now, (s.ch c).chain.settleFull)]) ∧
      (¬ hit → (t.ch c).filt.later = (s.ch c).filt.later) := by
  subst hl
  exact disturbedInputEvent_takes h rfl (bne_iff_ne.trans hits)

/-- V_sen has moved by more than 2 % (R81). -/
theorem stepsBy2_iff (last v : Int) : stepsBy2 last v = true ↔ 2 * last.natAbs < 100 * (v - last).natAbs := by
  rw [stepsBy2, decide_eq_true_iff]
  omega

/-! ### Reports and their clearance -/

/-- The event source of a diagnostic (R467). -/
theorem diagCode_source (b : Brg) (d : BrgDiag) : (diagCode b d).1 = if d = .leakage then 4 else 3 := by
  cases d <;> rfl

/-- An event of a bridge that follows a change of its channel leaves that change as it is, and its source is latched (R78, R467). -/
theorem diagEvent_after {c : Ch} {src : Nat} (kind : Byte) (value : Nat) {s u : State} {x : Chan} (h : LiveBridge c s)
    (hs : src < 8) (hu : OnlyCh c x s u) (hh : u.holms = s.holms) (hv : u.sys.vddOk = s.sys.vddOk) :
    (diagEvent c src kind value u).latched (8 * c.val + src) ∧ OnlyCh c x s (diagEvent c src kind value u) :=
  ⟨notify_latched _ _ _ _ (by omega) (by rw [State.holm, hh]; exact h.link) (hv.trans h.vddOk), hu.after (notify_chans ..)⟩

/-- A fault is asserted and one channel changes. -/
theorem assertFault_only (c : Ch) (f : Chan → Chan) (s : State) : OnlyCh c (f (s.ch c)) s ((assertFault s).setCh c f) := by
  obtain ⟨chans, -⟩ := assertFault_leaves s
  have only := (OnlyCh.setCh c f (assertFault s)).before chans
  rwa [State.ch, chans] at only

/-- A diagnostic whose report has been raised or cleared, with its event. -/
theorem diagEvent_reports {c : Ch} {s u : State} {d : BrgDiag} {v : Bool} (kind : Byte) (value : Nat) (h : LiveBridge c s)
    (hu : OnlyCh c { s.ch c with brg := (s.ch c).brg.setRep d v } s u) (hh : u.holms = s.holms) (hv : u.sys.vddOk = s.sys.vddOk) :
    let t := diagEvent c (diagCode (s.ch c).brg d).1 kind value u
    (t.ch c).brg = (s.ch c).brg.setRep d v ∧ t.latched (8 * c.val + (if d = .leakage then 4 else 3)) ∧
      ∀ e : Ch, e ≠ c → t.ch e = s.ch e := by
  rw [diagCode_source]
  obtain ⟨latched, only⟩ := diagEvent_after kind value h (src := if d = .leakage then 4 else 3) (by split <;> decide) hu hh hv
  exact ⟨by rw [only.own], latched, only.others⟩

/-- An enabled diagnostic whose condition has held for 20 ms is reported once (R77, R78). -/
theorem diagReport_due {c : Ch} {s : State} {d : BrgDiag} (h : LiveBridge c s) (hd : (s.ch c).hasDiag d = true)
    (he : (s.ch c).brg.enabled d = true) (hr : (s.ch c).brg.rep d = false) (hb : s.heldFor c (diagBad d) 200000 = true) :
    let t := diagReport c d s
    (t.ch c).brg = (s.ch c).brg.setRep d true ∧ t.latched (8 * c.val + (if d = .leakage then 4 else 3)) ∧
      ∀ e : Ch, e ≠ c → t.ch e = s.ch e := by
  obtain ⟨-, holms, -, -, vddOk⟩ := assertFault_leaves s
  rw [diagReport, if_pos (by simp [h.bridgeUp, hd, he, hr, hb])]
  exact diagEvent_reports _ _ h (assertFault_only c (fun ch => { ch with brg := ch.brg.setRep d true }) s) holms vddOk

theorem diagReport_not_due {c : Ch} {s : State} {d : BrgDiag}
    (h : (s.ch c).brg.enabled d = false ∨ (s.ch c).brg.rep d = true ∨ s.heldFor c (diagBad d) 200000 = false) :
    diagReport c d s = s := by
  refine if_neg fun k => ?_
  simp only [Bool.and_eq_true, Bool.not_eq_true'] at k
  obtain ⟨⟨⟨-, enabled⟩, fresh⟩, held⟩ := k
  rcases h with h | h | h <;> simp_all

/-- A report whose condition has been absent for 200 ms is cleared (R78). -/
theorem diagClearance_due {c : Ch} {s : State} {d : BrgDiag} (h : LiveBridge c s) (hd : (s.ch c).hasDiag d = true)
    (hr : (s.ch c).brg.rep d = true) (hb : s.heldFor c (diagSound d) 2000000 = true) :
    let t := diagClearance c d s
    (t.ch c).brg = (s.ch c).brg.setRep d false ∧ t.latched (8 * c.val + (if d = .leakage then 4 else 3)) ∧
      ∀ e : Ch, e ≠ c → t.ch e = s.ch e := by
  rw [diagClearance, if_pos (by simp [h.bridgeUp, hd, hr, hb])]
  exact diagEvent_reports _ _ h (.setCh c (fun ch => { ch with brg := ch.brg.setRep d false }) s) rfl rfl

theorem diagClearance_not_due {c : Ch} {s : State} {d : BrgDiag}
    (h : (s.ch c).brg.rep d = false ∨ s.heldFor c (diagSound d) 2000000 = false) : diagClearance c d s = s := by
  refine if_neg fun k => ?_
  simp only [Bool.and_eq_true] at k
  obtain ⟨⟨-, reported⟩, held⟩ := k
  rcases h with h | h <;> simp_all

/-! ### Excitation shorts and the excitation supply -/

/-- A bridge whose excitation a short has turned off and latched (R79). -/
def Chan.shortOff (ch : Chan) : Chan := { ch with brg := { ch.brg with latch := true, exOn := false, shortNow := true, iexc := 0 } }

/-- A short that has stood for 200 µs turns the excitation off and disturbs the channel, with its event (R79, R81). -/
theorem excitationShort_due {c : Ch} {s : State} (h : LiveBridge c s) (hs : s.shorted c = true)
    (hb : s.heldFor c .excShort 2000 = true) :
    (excitationShort c s).latched (8 * c.val + 4) ∧
      OnlyCh c ((s.ch c).shortOff.disturbed s.sys.now) s (excitationShort c s) := by
  obtain ⟨-, holms, now, -, vddOk⟩ := assertFault_leaves s
  have off : OnlyCh c (s.ch c).shortOff s _ := assertFault_only c Chan.shortOff s
  have disturbed := off.disturbAt s.sys.now (congrArg Mode.usesFilter h.mode)
  have leaves := disturbAt_leaves c s.sys.now ((assertFault s).setCh c Chan.shortOff)
  have told := diagEvent_after 1 0 h (src := 4) (by decide) disturbed ((congrArg State.holms leaves :).trans holms)
    ((congrArg (·.sys.vddOk) leaves :).trans vddOk)
  have eq : excitationShort c s = diagEvent c 4 1 0 (disturbAt c s.sys.now ((assertFault s).setCh c Chan.shortOff)) := by
    rw [excitationShort, if_pos (by simp [h.bridgeUp, hs, hb]), ← now]
    rfl
  rwa [eq]

theorem excitationShort_not_due {c : Ch} {s : State} (h : s.shorted c = false ∨ s.heldFor c .excShort 2000 = false) :
    excitationShort c s = s := by
  refine if_neg fun k => ?_
  simp only [Bool.and_eq_true] at k
  obtain ⟨⟨-, shorted⟩, held⟩ := k
  rcases h with h | h <;> simp_all

theorem shorted_iff (s : State) (c : Ch) : s.shorted c = true ↔ (s.ch c).brg.exOn = true ∧ (s.ch c).brg.latch = false ∧
    (75000 ≤ (s.ch c).brg.iexc ∨ 2 * (s.ch c).brg.vpn.natAbs < s.deliverable c) := by
  simp [State.shorted, and_assoc]

/-- The excitation supply of a Holm that is up is taken, with whether it is below what its bridges need (R61). -/
theorem excitationSupply_spec {b : Bank} {s : State} (vx : Int) (h : (s.holm b).up = true) :
    let t := excitationSupply b vx s
    (t.holm b).vx = vx ∧ (t.holm b).vxLow = decide (vx < s.vxNeed b) ∧ t.chans = s.chans := by
  have taken := State.setHolm_holm_self s b (fun h => { h with vx := vx, vxLow := decide (vx < s.vxNeed b) })
  intro t
  have ht : t = if _ then _ else _ := if_neg (by simp [h])
  rw [ht]
  split
  · exact ⟨congrArg Holm.vx taken, congrArg Holm.vxLow taken, rfl⟩
  · exact ⟨(congrArg Holm.vx (notify_holm ..) :).trans (congrArg Holm.vx taken),
      (congrArg Holm.vxLow (notify_holm ..) :).trans (congrArg Holm.vxLow taken), notify_chans ..⟩

/-! ### The statement -/

/-- Settles O48: an input is noted and where it disturbs adds its disturbance, and each report, clearance and short is one change of its
channel with the event that a live Holm raises at once. -/
theorem bridgeDiagnosticsReportAndClear : Obligations.BridgeDiagnosticsReportAndClear := by
  intro s c mode up live link vddOk
  have h : LiveBridge c s := ⟨mode, up, live, link, vddOk⟩
  refine ⟨?_, fun d hd => ⟨fun he hr hb => ⟨_, rfl, diagReport_due h hd he hr hb⟩, fun k => ?_,
    fun hr hb => ⟨_, rfl, diagClearance_due h hd hr hb⟩, fun k => ?_⟩, fun hs hb => ?_, ⟨shorted_iff s c, fun k => ?_⟩,
    fun vx => ⟨_, rfl, excitationSupply_spec vx up⟩⟩
  · dsimp only
    refine ⟨fun sig sen => disturbedInputEvent_takes h rfl bne_iff_ne, fun ua ticks => ⟨fun low => ?_, fun high held => ?_,
      fun idle short => ?_, fun dc => ?_⟩, fun v => ⟨fun first => ?_, fun last prev => ?_⟩⟩
    · exact driverLimit_takes h (by simp [low]) (by simp)
    · exact driverLimit_takes h (by simpa [high] using held) (by simp)
    · have still : { (s.ch c).brg with drvLim := false } = (s.ch c).brg := by rw [← idle]
      simpa only [still] using driverLimit_takes h (lim := false) (hit := False) (by simp [idle, short]) (by simp [idle])
    · simp [State.unblanked, dc]
    · exact disturbedInputEvent_takes h rfl (by simp [State.disturbance, first])
    · exact disturbedInputEvent_takes h rfl (by simp [State.disturbance, prev, stepsBy2_iff])
  · exact congrArg Host.Outcome.next (diagReport_not_due k)
  · exact congrArg Host.Outcome.next (diagClearance_not_due k)
  · obtain ⟨latched, only⟩ := excitationShort_due h hs hb
    exact ⟨_, rfl, by rw [only.own]; rfl, by rw [only.own]; rfl, by rw [only.own]; rfl, by rw [only.own]; rfl, by rw [only.own]; rfl,
      by rw [only.own]; simp [Chan.disturbed, Chan.shortOff, Filt.suppress], by rw [only.own]; exact mode, latched, only.others⟩
  · exact congrArg Host.Outcome.next (excitationShort_not_due k)

end Sys2Proof.Machine
end

section
/-! PROOFS. What raising an event, the legal event counter and an evaluation without a head leave (R240, R241, R288, R333). -/

namespace Sys2Proof.Machine

/-- The state without its ports, the Den, and the warnings and the report of the Badger. -/
def State.unreported (s : State) : State :=
  { s with ports := State.reset.ports, den := State.reset.den, badger := { s.badger with warned := [], report := [] } }

theorem raiseOnce_unreported (src : Nat) (d : List Byte) (ts : Nat) (s : State) :
    (raiseOnce src d ts s).1.unreported = s.unreported :=
  overAll_keeps State.unreported (f := fun p s => s.setPort p _) (fun _ _ => rfl) s

theorem noteDrop_unreported (p : Port) (s : State) : (noteDrop p s).unreported = s.unreported := by
  unfold noteDrop
  split
  · split
    · rfl
    · exact raiseOnce_unreported ..
  · exact raiseOnce_unreported ..

theorem raise_unreported (src : Nat) (d : List Byte) (s : State) : (raise src d s).unreported = s.unreported :=
  (overAll_keeps State.unreported noteDrop_unreported _).trans (raiseOnce_unreported ..)

theorem legalTakes_unreported (obj : BitVec 16) (s : State) : (legalTakes obj s).unreported = s.unreported := by
  unfold legalTakes
  split
  · exact raise_unreported ..
  · rfl

theorem thresholdEvents_unreported (s : State) : (thresholdEvents s).unreported = s.unreported := by
  unfold thresholdEvents
  refine overAll_keeps State.unreported (fun k u => ?_) s
  dsimp only
  split
  · split
    · exact raise_unreported ..
    · rfl
  · split
    · exact raise_unreported ..
    · rfl

theorem setReport_unreported (x : List Byte) (s : State) :
    (s.setBadger (fun b => { b with report := x })).unreported = s.unreported := rfl

/-- An evaluation without a head reports and no more (R240, R241). -/
theorem evaluate_unreported {s : State} (h : s.badger.heads = []) : (evaluate s).unreported = s.unreported := by
  unfold evaluate
  split
  · rfl
  · simp only [h, sortHeads, List.mergeSort_nil, List.foldl_nil]
    exact (setReport_unreported _ _).trans (thresholdEvents_unreported s)

theorem disturbAt_unreported (c : Ch) (t : Nat) (s : State) : (disturbAt c t s).unreported = disturbAt c t s.unreported :=
  apply_ite State.unreported ..

end Sys2Proof.Machine
end

section
/-! PROOFS. A measurement word that a channel is given (R72, R82): it waits for a plan, stands at once or from the next grid instant, and
the command that brought it completes with it. -/

namespace Sys2Proof.Machine

/-! ### What the word does -/

/-- The rates of the plan with a new word (R70). -/
def State.measRates (s : State) (c : Ch) (w : BitVec 32) : List (Option (Fin 5)) :=
  (s.newPlan (bankOf c) (posOf c) ((s.ch c).withMeas w)).getD []

/-- There is carrier excitation before the new word or after it. -/
def Chan.carrierEver (ch : Chan) (w : BitVec 32) : Bool := ch.carrierMode || (ch.withMeas w).carrierMode

/-- The word waits for the instant of a new plan (R72, R82). -/
def State.measPlanned (s : State) (c : Ch) (w : BitVec 32) : Bool :=
  (s.ch c).carrierEver w &&
    (measDisturbs (s.ch c).mode (s.ch c).brg.meas w || s.measRates c w != s.latestRates (bankOf c))

/-- Reports are nothing to the plan of a bank (R70). -/
theorem measRates_congr {s u : State} (c : Ch) (w : BitVec 32) (k : u.unreported = s.unreported) : u.measRates c w = s.measRates c w :=
  (congrArg (·.measRates c w) k :)

theorem measPlanned_congr {s u : State} (c : Ch) (w : BitVec 32) (k : u.unreported = s.unreported) :
    u.measPlanned c w = s.measPlanned c w := by
  have ch : u.ch c = s.ch c := (congrArg (·.ch c) k :)
  have rates : u.latestRates (bankOf c) = s.latestRates (bankOf c) := (congrArg (·.latestRates (bankOf c)) k :)
  simp only [State.measPlanned, ch, rates, measRates_congr c w k]

/-- The new word stands. -/
def takeWord (c : Ch) (w : BitVec 32) (obj : BitVec 16) (s : State) : State := legalTakes obj (s.setCh c (Chan.withMeas w))

/-- The word is no change to the legal configuration, the bank can run what follows it, its channel measures with the excitation on,
and its link is up. -/
structure Applicable (r : Req) (c : Ch) (w : BitVec 32) (s : State) : Prop where
  unsealed : s.isLegal c = false
  fits : s.chainFits c ((s.ch c).withMeas w) = true
  plan : planOk s c w = true
  filters : (s.ch c).mode.usesFilter = true
  exOn : (s.ch c).brg.exOn = true
  link : s.linkOk r.obj = true

theorem Applicable.congr {r : Req} {c : Ch} {w : BitVec 32} {s u : State} (h : Applicable r c w s) (k : u.unreported = s.unreported) :
    Applicable r c w u where
  unsealed := (congrArg (·.isLegal c) k :).trans h.unsealed
  fits := (congrArg (fun v => v.chainFits c ((v.ch c).withMeas w)) k :).trans h.fits
  plan := (congrArg (planOk · c w) k :).trans h.plan
  filters := (congrArg (fun v => (v.ch c).mode.usesFilter) k :).trans h.filters
  exOn := (congrArg (fun v => (v.ch c).brg.exOn) k :).trans h.exOn
  link := (congrArg (·.linkOk r.obj) k :).trans h.link

/-- What becomes of the word (Table 11 of 03_bridge_measurement). -/
theorem measApply_eq {c : Ch} {w : BitVec 32} {op : BitVec 16} {r : Req} {s : State} (h : Applicable r c w s) :
    measApply c w op r s =
      if s.measPlanned c w then planCommit (bankOf c) (s.measRates c w) [PlanWait.mk op r 0] s
      else if measDisturbs (s.ch c).mode (s.ch c).brg.meas w then
        finish op r stOK [] 5000 (disturbAt c (s.sys.now + 5000) (takeWord c w r.obj s))
      else if (s.ch c).carrierEver w = false ∧ (s.ch c).brg.meas = w then finish op r stOK [] 0 (takeWord c w r.obj s)
      else measAtGrid c w op r s := by
  have note : legalNote op r (s.isLegal c) (s.setCh c (fun _ => (s.ch c).withMeas w)) s = (none, s) := by simp [legalNote, h.unsealed]
  cases hc : (s.ch c).carrierEver w with
  | false =>
    obtain ⟨before, after⟩ := Bool.or_eq_false_iff.mp hc
    have taken : s.setCh c (fun _ => (s.ch c).withMeas w) = s.setCh c (Chan.withMeas w) := rfl
    simp only [measApply, note, h.fits, before, after, State.measPlanned, hc]
    simp [taken, takeWord]
  | true =>
    have either : (((s.ch c).withMeas w).carrierMode || (s.ch c).carrierMode) = true := by rw [Bool.or_comm]; exact hc
    obtain ⟨rates, hr⟩ : ∃ l, s.newPlan (bankOf c) (posOf c) ((s.ch c).withMeas w) = some l := by
      rw [← Option.isSome_iff_exists]
      simpa [planOk, either] using h.plan
    simp only [measApply, note, h.fits, either, State.measPlanned, hc, hr, State.measRates]
    cases measDisturbs (s.ch c).mode (s.ch c).brg.meas w <;> simp

/-! ### How its command completes -/

/-- An operation on one channel has completed OK: the channel is as the operation makes it, and besides reports and the link's journal
nothing else has changed. -/
structure EndsOk (op : BitVec 16) (r : Req) (delay : Nat) (c : Ch) (x : Chan) (s t : State) : Prop where
  only : OnlyCh c x s t
  done : Completion.mk r op (r.tag == 0) stOK [] (s.sys.now + delay) ∈ t.completions
  mram : t.mram = s.mram
  legal : t.legal = s.legal
  heads : t.badger.heads = s.badger.heads
  admitted : t.badger.admitted = s.badger.admitted
  holm : ∀ b : Bank, (t.holm b).settings = (s.holm b).settings

theorem finish_badger (op : BitVec 16) (r : Req) (st : Byte) (data : List Byte) (delay : Nat) (s : State) :
    (finish op r st data delay s).badger = s.badger := by
  unfold finish
  split
  · dsimp only
    split <;> rfl
  · rfl

/-- An operation that has written its channel alone, besides reports, completes. -/
theorem finish_endsOk {op : BitVec 16} {r : Req} {delay : Nat} {c : Ch} {x : Chan} {s u v : State} (hl : s.linkOk r.obj = true)
    (hu : OnlyCh c x s u) (hs : u = { s with chans := u.chans }) (hv : v.unreported = u.unreported) :
    EndsOk op r delay c x s (finish op r stOK [] delay v) := by
  have same : v.unreported = ({ s with chans := u.chans } : State).unreported := hs ▸ hv
  have sys : v.sys = s.sys := (congrArg State.sys same :)
  have holms : v.holms = s.holms := (congrArg State.holms same :)
  have link : v.linkOk r.obj = true := by simpa only [State.linkOk, State.holm, holms] using hl
  have out := finish_outputs op r stOK [] delay v
  refine ⟨(hu.after (congrArg State.chans hv :)).after (finish_chans ..), ?_, out.mram.trans (congrArg State.mram same :),
    out.legal.trans (congrArg State.legal same :), ?_, ?_, fun b => (out.holm b).trans (by rw [State.holm, holms]; rfl)⟩
  · rw [(finish_completed op r stOK [] delay v link).1, sys]
    exact List.mem_append_right _ (List.mem_singleton_self _)
  · rw [finish_badger]
    exact (congrArg (·.badger.heads) same :)
  · rw [finish_badger]
    exact (congrArg (·.badger.admitted) same :)

/-- The word stands with a disturbance at the end of the excitation's ramp of 0.5 ms (R82). -/
theorem takeWord_disturbed {op : BitVec 16} {r : Req} {c : Ch} {w : BitVec 32} {s : State} (hl : s.linkOk r.obj = true)
    (hm : (s.ch c).mode.usesFilter = true) (n delay : Nat) :
    EndsOk op r delay c (((s.ch c).withMeas w).disturbed n) s (finish op r stOK [] delay (disturbAt c n (takeWord c w r.obj s))) := by
  have taken : OnlyCh c ((s.ch c).withMeas w) s (s.setCh c (Chan.withMeas w)) := .setCh ..
  refine finish_endsOk hl (taken.disturbAt n hm) (disturbAt_leaves ..) ?_
  rw [disturbAt_unreported, takeWord, legalTakes_unreported, ← disturbAt_unreported]

theorem takeWord_ends {op : BitVec 16} {r : Req} {c : Ch} {w : BitVec 32} {s : State} (hl : s.linkOk r.obj = true) (delay : Nat) :
    EndsOk op r delay c ((s.ch c).withMeas w) s (finish op r stOK [] delay (takeWord c w r.obj s)) :=
  finish_endsOk hl (.setCh c (Chan.withMeas w) s) rfl (legalTakes_unreported ..)

/-- A channel with a word that waits for a grid instant (R82). -/
def Chan.awaiting (w : BitVec 32) (t : Nat) (ch : Chan) : Chan := { ch with brg := { ch.brg with next := some (w, t) } }

/-- The grid instant at which a word takes effect (R63, R82). -/
def State.measInstant (s : State) (c : Ch) : Nat := gridAt (s.holm (bankOf c)) (gridNext (s.holm (bankOf c)) s.sys.now 1)

/-- The word stands at a grid instant that has come, or waits for it. -/
def gridWord (c : Ch) (w : BitVec 32) (obj : BitVec 16) (s : State) : State :=
  if s.measInstant c ≤ s.sys.now then takeWord c w obj s else s.setCh c (Chan.awaiting w (s.measInstant c))

theorem gridWord_sys (c : Ch) (w : BitVec 32) (obj : BitVec 16) (s : State) : (gridWord c w obj s).sys = s.sys := by
  unfold gridWord
  split
  · exact (congrArg State.sys (legalTakes_unreported obj (s.setCh c (Chan.withMeas w))) :)
  · rfl

theorem measAtGrid_eq (c : Ch) (w : BitVec 32) (op : BitVec 16) (r : Req) (s : State) :
    measAtGrid c w op r s = finish op r stOK [] (s.measInstant c - s.sys.now) (gridWord c w r.obj s) := by
  rw [← gridWord_sys c w r.obj s]
  rfl

/-- The word stands from the next grid instant, and the command completes with it (R82). -/
theorem measAtGrid_ends {op : BitVec 16} {r : Req} {c : Ch} {w : BitVec 32} {s : State} (hl : s.linkOk r.obj = true) :
    EndsOk op r (s.measInstant c - s.sys.now) c
      (if s.measInstant c ≤ s.sys.now then (s.ch c).withMeas w else (s.ch c).awaiting w (s.measInstant c)) s
      (measAtGrid c w op r s) := by
  rw [measAtGrid_eq, gridWord]
  split
  · exact takeWord_ends hl _
  · exact finish_endsOk hl (.setCh c (Chan.awaiting w (s.measInstant c)) s) rfl rfl

theorem EndsOk.before {op : BitVec 16} {r : Req} {delay : Nat} {c : Ch} {x : Chan} {s u t : State} (h : EndsOk op r delay c x u t)
    (k : u.unreported = s.unreported) : EndsOk op r delay c x s t where
  only := h.only.before (congrArg State.chans k :)
  done := (congrArg (·.sys.now) k : u.sys.now = s.sys.now) ▸ h.done
  mram := h.mram.trans (congrArg State.mram k :)
  legal := h.legal.trans (congrArg State.legal k :)
  heads := h.heads.trans (congrArg (·.badger.heads) k :)
  admitted := h.admitted.trans (congrArg (·.badger.admitted) k :)
  holm b := (h.holm b).trans (congrArg (fun v => (v.holm b).settings) k :)

/-! ### What the word makes of its channel -/

/-- What a word that waits for no plan makes of its channel, and after how many ticks its command completes, where the next grid
instant is g (R82). -/
structure MeasOutcome (ch : Chan) (w : BitVec 32) (now g delay : Nat) (x : Chan) : Prop where
  mode : x.mode = ch.mode
  owner : x.owner = ch.owner
  exOn : x.brg.exOn = true
  atOnce : measDisturbs ch.mode ch.brg.meas w = true → x.brg.meas = w ∧ delay = 5000
  inForce : measDisturbs ch.mode ch.brg.meas w = false → ch.brg.meas = w →
    x.brg.meas = w ∧ (ch.carrierEver w = false → delay = 0)
  atGrid : measDisturbs ch.mode ch.brg.meas w = false → ch.carrierEver w = true ∨ ch.brg.meas ≠ w →
    delay = g - now ∧ (g ≤ now → x.brg.meas = w) ∧ (now < g → x.brg.meas = ch.brg.meas ∧ x.brg.next = some (w, g))

theorem withMeas_exOn {ch : Chan} (w : BitVec 32) (h : ch.brg.exOn = true) : (ch.withMeas w).brg.exOn = true := by
  simp [Chan.withMeas, h]

theorem measOutcome_atOnce {ch : Chan} {w : BitVec 32} (now g n : Nat) (he : ch.brg.exOn = true)
    (hd : measDisturbs ch.mode ch.brg.meas w = true) : MeasOutcome ch w now g 5000 ((ch.withMeas w).disturbed n) where
  mode := rfl
  owner := rfl
  exOn := withMeas_exOn w he
  atOnce _ := ⟨rfl, rfl⟩
  inForce k := absurd (hd.symm.trans k) (by decide)
  atGrid k := absurd (hd.symm.trans k) (by decide)

theorem measOutcome_inForce {ch : Chan} {w : BitVec 32} (now g : Nat) (he : ch.brg.exOn = true)
    (hd : measDisturbs ch.mode ch.brg.meas w = false) (hc : ch.carrierEver w = false) (hw : ch.brg.meas = w) :
    MeasOutcome ch w now g 0 (ch.withMeas w) where
  mode := rfl
  owner := rfl
  exOn := withMeas_exOn w he
  atOnce k := absurd (hd.symm.trans k) (by decide)
  inForce _ _ := ⟨rfl, fun _ => rfl⟩
  atGrid _ k := by simp [hc, hw] at k

theorem measOutcome_atGrid {ch : Chan} {w : BitVec 32} (now g : Nat) (he : ch.brg.exOn = true)
    (hd : measDisturbs ch.mode ch.brg.meas w = false) (hn : ¬ (ch.carrierEver w = false ∧ ch.brg.meas = w)) :
    MeasOutcome ch w now g (g - now) (if g ≤ now then ch.withMeas w else ch.awaiting w g) where
  mode := by split <;> rfl
  owner := by split <;> rfl
  exOn := by
    split
    · exact withMeas_exOn w he
    · exact he
  atOnce k := absurd (hd.symm.trans k) (by decide)
  inForce _ hw := by
    refine ⟨?_, fun hc => absurd ⟨hc, hw⟩ hn⟩
    split
    · rfl
    · exact hw
  atGrid _ _ := ⟨rfl, fun k => by rw [if_pos k]; rfl, fun k => by rw [if_neg (by omega)]; exact ⟨rfl, rfl⟩⟩

/-- A word that waits for no plan stands at once or from the next grid instant (Table 11 of 03_bridge_measurement). -/
theorem measApply_ends {c : Ch} {w : BitVec 32} {op : BitVec 16} {r : Req} {s : State} (h : Applicable r c w s)
    (hp : s.measPlanned c w = false) :
    ∃ delay x, EndsOk op r delay c x s (measApply c w op r s) ∧ MeasOutcome (s.ch c) w s.sys.now (s.measInstant c) delay x := by
  rw [measApply_eq h, if_neg (by simp [hp])]
  cases hd : measDisturbs (s.ch c).mode (s.ch c).brg.meas w with
  | true =>
    rw [if_pos rfl]
    exact ⟨_, _, takeWord_disturbed h.link h.filters _ _, measOutcome_atOnce _ _ _ h.exOn hd⟩
  | false =>
    rw [if_neg Bool.false_ne_true]
    by_cases hs : (s.ch c).carrierEver w = false ∧ (s.ch c).brg.meas = w
    · obtain ⟨dc, same⟩ := hs
      rw [if_pos ⟨dc, same⟩]
      exact ⟨_, _, takeWord_ends h.link _, measOutcome_inForce _ _ h.exOn hd dc same⟩
    · rw [if_neg hs]
      exact ⟨_, _, measAtGrid_ends h.link, measOutcome_atGrid _ _ h.exOn hd hs⟩

end Sys2Proof.Machine
end

section
/-! PROOFS. A tick in which measurement words come to stand (R82): each channel takes the word that waited, and nothing else of it
changes. -/

namespace Sys2Proof.Machine

/-- A channel whose waiting word has come to stand. -/
def Chan.reached (w : BitVec 32) (ch : Chan) : Chan := { ch.withMeas w with brg := { (ch.withMeas w).brg with next := none } }

/-- A channel whose waiting word stands once its instant has come (R82). -/
def Chan.wordAt (now : Nat) (ch : Chan) : Chan :=
  match ch.brg.next with
  | none => ch
  | some n => if n.2 ≤ now then ch.reached n.1 else ch

theorem wordAt_of_none {now : Nat} {ch : Chan} (h : ch.brg.next = none) : ch.wordAt now = ch := by rw [Chan.wordAt, h]

theorem wordAt_early {now : Nat} {ch : Chan} {n : BitVec 32 × Nat} (h : ch.brg.next = some n) (hn : ¬ n.2 ≤ now) :
    ch.wordAt now = ch := by simp [Chan.wordAt, h, hn]

theorem wordAt_due {now : Nat} {ch : Chan} {n : BitVec 32 × Nat} (h : ch.brg.next = some n) (hn : n.2 ≤ now) :
    ch.wordAt now = ch.reached n.1 := by simp [Chan.wordAt, h, hn]

/-- A channel is as it was or no word waits for it any longer, and a mode change and its timebase stand. -/
theorem wordAt_cases (now : Nat) (ch : Chan) : (ch.wordAt now = ch ∨ (ch.wordAt now).brg.next = none) ∧
    (ch.wordAt now).changing = ch.changing ∧ (ch.wordAt now).sw = ch.sw := by
  cases h : ch.brg.next with
  | none => rw [wordAt_of_none h]; exact ⟨.inl rfl, rfl, rfl⟩
  | some n =>
    by_cases hn : n.2 ≤ now
    · rw [wordAt_due h hn]; exact ⟨.inr rfl, rfl, rfl⟩
    · rw [wordAt_early h hn]; exact ⟨.inl rfl, rfl, rfl⟩

theorem wordAt_wordAt (now : Nat) (ch : Chan) : (ch.wordAt now).wordAt now = ch.wordAt now := by
  obtain ⟨same | none, -⟩ := wordAt_cases now ch
  · rw [same, same]
  · exact wordAt_of_none none

/-- Time brings one channel its word and writes reports besides (R82, R333). -/
theorem measTick_spec (c : Ch) (s : State) : OnlyCh c ((s.ch c).wordAt s.sys.now) s (measTick c s) ∧
    (measTick c s).sys = s.sys ∧ (measTick c s).holms = s.holms ∧ (measTick c s).upd = s.upd := by
  unfold measTick
  cases h : (s.ch c).brg.next with
  | none => exact ⟨⟨(wordAt_of_none h).symm, fun _ _ => rfl⟩, rfl, rfl, rfl⟩
  | some n =>
    dsimp only
    by_cases hn : n.2 ≤ s.sys.now
    · rw [if_pos hn, wordAt_due h hn]
      have k := legalTakes_unreported (chObj c) (s.setCh c (Chan.reached n.1))
      exact ⟨(OnlyCh.setCh c (Chan.reached n.1) s).after (congrArg State.chans k :), (congrArg State.sys k :),
        (congrArg State.holms k :), (congrArg State.upd k :)⟩
    · rw [if_neg hn, wordAt_early h hn]
      exact ⟨⟨rfl, fun _ _ => rfl⟩, rfl, rfl, rfl⟩

/-- Time brings the channels of a list their words and, where no mode change is under way, nothing else. -/
theorem words_spec (l : List Ch) (s : State) (h : ∀ c, (s.ch c).changing = none) :
    let t := overAll l (fun c u => measTick c (modeTick c u)) s
    (∀ d, t.ch d = if d ∈ l then (s.ch d).wordAt s.sys.now else s.ch d) ∧ t.sys = s.sys ∧ t.holms = s.holms ∧ t.upd = s.upd := by
  induction l generalizing s with
  | nil => exact ⟨fun _ => rfl, rfl, rfl, rfl⟩
  | cons a l ih =>
    obtain ⟨only, sys, holms, upd⟩ := measTick_spec a s
    have one (d : Ch) : (measTick a s).ch d = if d = a then (s.ch d).wordAt s.sys.now else s.ch d := by
      split
      · next e => rw [e, only.own]
      · next e => exact only.others d e
    obtain ⟨chs, sys', holms', upd'⟩ := ih (measTick a s) fun d => by
      rw [one]
      split
      · obtain ⟨-, changing, -⟩ := wordAt_cases s.sys.now (s.ch d)
        exact changing.trans (h d)
      · exact h d
    rw [overAll, List.foldl_cons, modeTick_of_none (h a)]
    refine ⟨fun d => (chs d).trans ?_, sys'.trans sys, holms'.trans holms, upd'.trans upd⟩
    rw [one, sys]
    by_cases e : d = a <;> by_cases m : d ∈ l <;> simp [e, m, wordAt_wordAt]

/-- What waits on timebases rests on the Holms and the switches. -/
theorem tbWaits_congr {s t : State} (b : Bank) (h : t.holms = s.holms) (k : ∀ d, (t.ch d).sw = (s.ch d).sw) :
    t.tbWaits b = s.tbWaits b := by simp only [State.tbWaits, State.holm, h, k]

theorem irqTicks_leaves (s : State) : (irqTicks s).chans = s.chans ∧ (irqTicks s).sys = s.sys :=
  ⟨overAll_keeps State.chans (f := fun p u => u.setPort p (PortSt.irqTick (u.irqCondition p))) (fun _ _ => rfl) s,
   overAll_keeps State.sys (f := fun p u => u.setPort p (PortSt.irqTick (u.irqCondition p))) (fun _ _ => rfl) s⟩

/-- The tick of a device in which nothing waits but measurement words (R82). -/
theorem tick_words {s : State} (hc : ∀ c, (s.ch c).changing = none) (hb : ∀ b, s.tbWaits b = false) (hi : s.idleInside) (c : Ch) :
    (tick s).ch c = (s.ch c).wordAt (tick s).sys.now := by
  obtain ⟨work, inside⟩ := hi
  have words := words_spec allCh (tickClocks s) hc
  have ticked : tick s = irqTicks (internalTick (bootTick (overAll [(0 : Bank), 1] tbTick
    (overAll allCh (fun c u => measTick c (modeTick c u)) (tickClocks s))))) := rfl
  revert words ticked
  generalize overAll allCh (fun c u => measTick c (modeTick c u)) (tickClocks s) = t
  rintro ⟨chs, sys, holms, upd⟩ ticked
  have ch (d : Ch) : t.ch d = (s.ch d).wordAt t.sys.now := by rw [chs, if_pos (by simp [allCh]), sys]; rfl
  have sw (d : Ch) : (t.ch d).sw = (s.ch d).sw := by
    obtain ⟨-, -, sw⟩ := wordAt_cases t.sys.now (s.ch d)
    rw [ch, sw]
  have bases (b : Bank) : t.tbWaits b = false :=
    (tbWaits_congr (s := tickClocks s) b holms sw).trans ((tickClocks_tbWaits s b).trans (hb b))
  have internal : t.sys.internal = s.sys.internal := (congrArg Sys.internal (sys.trans (Sys.tick_frame s.sys)) :)
  rw [overAll_eq_self fun b => tbTick_of_not_waiting (bases b), bootTick_of_none (upd ▸ work : t.upd.work = none),
    internalTick_of_none (internal ▸ inside)] at ticked
  obtain ⟨chans, sys'⟩ := irqTicks_leaves t
  rw [ticked, sys', ← ch, State.ch, chans]
  rfl

end Sys2Proof.Machine
end

section
/-! PROOFS. The command CH.MEAS (R60, R61, R423, R465) and the statement on it. -/

namespace Sys2Proof.Machine

/-! ### The command -/

theorem word32_le32 (w : BitVec 32) : word32 (le32 w.toNat) 0 = w := by
  apply BitVec.eq_of_toNat_eq
  have := w.isLt
  simp [word32, le32, leBytes, leAt, byteAt]
  omega

/-- A CH.MEAS that is free to run, with a word that its checks admit and that does not raise the excitation (R465). -/
structure MeasFree (r : Req) (c : Ch) (w : BitVec 32) (s : State) : Prop where
  obj : chOf r.obj = some c
  ready : Ready 0x0203 r s
  payload : r.payload = le32 w.toNat
  unsealed : s.isLegal c = false
  mode : (s.ch c).mode = .brg ∨ (s.ch c).mode = .res
  exOn : (s.ch c).brg.exOn = true
  lowers : measRaises (s.ch c).mode (s.ch c).brg.meas w = false
  reserved : w &&& measReserved (s.ch c).mode = 0
  range : measRange (s.ch c).mode w = true
  voltage : vxAllows s c w = true
  fits : s.chainFits c ((s.ch c).withMeas w) = true
  plan : planOk s c w = true
  heads : s.badger.heads = []

section
variable {r : Req} {c : Ch} {w : BitVec 32} {s : State} (h : MeasFree r c w s)
include h

theorem MeasFree.applicable : Applicable r c w s where
  unsealed := h.unsealed
  fits := h.fits
  plan := h.plan
  filters := by rcases h.mode with m | m <;> rw [m] <;> rfl
  exOn := h.exOn
  link := h.ready.linkOk

/-- The command passes its own checks, and its word is applied. -/
theorem MeasFree.checks : chMeas r c (s.running r) = .held (measApply c w 0x0203 r (evaluate (s.running r))) := by
  have word : word32 r.payload 0 = w := h.payload ▸ word32_le32 w
  have legalOk : (s.running r).legalOk r.port c = true := by simp [State.legalOk, show (s.running r).isLegal c = false from h.unsealed]
  have voltage : vxAllows (s.running r) c w = true := h.voltage
  have fits : (s.running r).chainFits c ((s.ch c).withMeas w) = true := h.fits
  have plan : planOk (s.running r) c w = true := h.plan
  have mode : ((s.ch c).mode == .brg || (s.ch c).mode == .res) = true := by simpa using h.mode
  have reserved : rsvZero w (measReserved (s.ch c).mode) = true := by simp [rsvZero, h.reserved]
  have length : r.payload.length = 4 := by rw [h.payload]; rfl
  simp [chMeas, checked, firstFail, word, legalOk, voltage, fits, plan, mode, reserved, length, h.range, h.lowers, h.exOn]

/-- The command applies its word to a state that differs by reports alone. -/
theorem MeasFree.applies : ∃ u : State, u.unreported = s.unreported ∧ exec (.chMeas r) s = .next (measApply c w 0x0203 r u) :=
  ⟨_, evaluate_unreported (s := s.running r) h.heads,
   congrArg Host.Outcome.next (runMail_held h.ready (by simp only [h.obj]; exact h.checks))⟩

/-- A word that waits for no plan (Table 11 of 03_bridge_measurement). -/
theorem MeasFree.unplanned (hp : s.measPlanned c w = false) :
    ∃ t delay x, exec (.chMeas r) s = .next t ∧ EndsOk 0x0203 r delay c x s t ∧
      MeasOutcome (s.ch c) w s.sys.now (s.measInstant c) delay x := by
  obtain ⟨u, hu, step⟩ := h.applies
  obtain ⟨delay, x, ends, out⟩ := measApply_ends (op := 0x0203) (h.applicable.congr hu) ((measPlanned_congr c w hu).trans hp)
  rw [show u.ch c = s.ch c from (congrArg (·.ch c) hu :), show u.sys.now = s.sys.now from (congrArg (·.sys.now) hu :),
    show u.measInstant c = s.measInstant c from (congrArg (·.measInstant c) hu :)] at out
  exact ⟨_, delay, x, step, ends.before hu, out⟩

/-- A word that waits for the instant of a new plan (R72; log entry 25). -/
theorem MeasFree.planned (hp : s.measPlanned c w = true) :
    ∃ u : State, u.unreported = s.unreported ∧ exec (.chMeas r) s =
      .next (planCommit (bankOf c) (s.measRates c w) [PlanWait.mk 0x0203 r 0] u) := by
  obtain ⟨u, hu, step⟩ := h.applies
  rw [measApply_eq (h.applicable.congr hu), if_pos ((measPlanned_congr c w hu).trans hp), measRates_congr c w hu] at step
  exact ⟨u, hu, step⟩

end

/-! ### The statement -/

/-- What the commit of a plan writes (R72). -/
theorem planCommit_holm (b : Bank) (rates : List (Option (Fin 5))) (l : List PlanWait) (s : State) :
    ((planCommit b rates l s).holm b).pend = some (PlanPend.mk rates (s.planInstant b)
      ((match (s.holm b).pend with | some p => p.waiters | none => []) ++ l)) :=
  congrArg Holm.pend (State.setHolm_holm_self ..)

theorem planCommit_holm_ne {b e : Bank} (rates : List (Option (Fin 5))) (l : List PlanWait) (s : State) (h : e ≠ b) :
    (planCommit b rates l s).holm e = s.holm e := State.setHolm_holm_ne s b _ e h

/-- Settles O15: the word that the command applies is planned or ends it on its channel alone, and a tick brings each channel the word
that waits for it. -/
theorem chMeasSetsTheWord : Obligations.ChMeasSetsTheWord := by
  refine ⟨fun r s c w obj ready payload unsealed mode exOn lowers reserved range voltage vx fits plan heads => ?_,
    fun s idle changing bases inside => ⟨tick s, by rw [step, idle], tick_words changing bases inside⟩⟩
  have volts : vxAllows s c w = true := by simpa [vxAllows, vx, imp_iff_not_or] using voltage
  have free : MeasFree r c w s :=
    ⟨obj, ready, payload, unsealed, mode, exOn, lowers, reserved, range, volts, fits, plan, heads⟩
  intro b ch carrier dist g rates planned
  cases hp : planned with
  | true =>
    obtain ⟨u, hu, step⟩ := free.planned hp
    have chans (d : Ch) : u.ch d = s.ch d := (congrArg (·.ch d) hu :)
    have waiting : u.badger.heads = s.badger.heads := (congrArg (·.badger.heads) hu :)
    have admitted : u.badger.admitted = s.badger.admitted := (congrArg (·.badger.admitted) hu :)
    have pend := planCommit_holm b (s.measRates c w) [PlanWait.mk 0x0203 r 0] u
    rw [show u.planInstant b = s.planInstant b from (congrArg (·.planInstant b) hu :),
      show u.holm b = s.holm b from (congrArg (·.holm b) hu :)] at pend
    refine ⟨_, step, congrArg Chan.mode (chans c), congrArg Chan.owner (chans c), (congrArg (·.brg.exOn) (chans c)).trans exOn,
      fun d _ => chans d, (congrArg State.mram hu :), waiting.trans heads, admitted, (congrArg State.legal hu :),
      fun e he => ?_, fun _ => ⟨chans c, (congrArg State.completions hu :), pend⟩, nofun, nofun, nofun⟩
    have other : e ≠ b := he.resolve_right nofun
    rw [planCommit_holm_ne _ _ _ other]
    exact ⟨(congrArg (fun v => (v.holm e).pend) hu :), (congrArg (fun v => (v.holm e).planSeq) hu :)⟩
  | false =>
    obtain ⟨t, delay, x, step, ends, out⟩ := free.unplanned hp
    have own := ends.only.own
    have done := ends.done
    refine ⟨t, step, own ▸ out.mode, own ▸ out.owner, own ▸ out.exOn, ends.only.others, ends.mram, ends.heads.trans heads,
      ends.admitted, ends.legal, fun e _ => ⟨(congrArg Holm.pend (ends.holm e) :), (congrArg Holm.planSeq (ends.holm e) :)⟩, nofun,
      fun _ hd => ?_, fun _ hd hw => ?_, fun _ hd hg => ?_⟩
    · obtain ⟨word, ticks⟩ := out.atOnce hd
      exact ⟨own ▸ word, ticks ▸ done⟩
    · obtain ⟨word, ticks⟩ := out.inForce hd hw
      exact ⟨own ▸ word, fun hc => by rw [ticks hc] at done; exact done⟩
    · obtain ⟨ticks, due, early⟩ := out.atGrid hd hg
      exact ⟨ticks ▸ done, own ▸ due, own ▸ early⟩

end Sys2Proof.Machine
end

section
/-! PROOFS. What counts in the Den when a channel's setting takes effect (R333): a change to the legal configuration that was recorded
earlier on the channel and still waits counts with it, legal or not, which the statements on the channel's words and on its filter banks
leave out. A run comes there: CH.MEAS of a legal channel waits for its grid instant, a warm start takes its completion and not the word
(log entry 42), and LGL.DECLARE drops the channel from the mask before the instant. -/

namespace Sys2Proof.Machine

/-- A command that completes leaves the Den as the statement gives it. -/
theorem Completes.den {c : Instr} {op : BitVec 16} {r : Req} {st : Byte} {data : List Byte} {delay : Nat} {s e : State}
    (h : Completes c op r st data delay s e) : ∃ t, exec c s = .next t ∧ t.den = e.den := by
  obtain ⟨t, step, -, besides⟩ := h
  exact ⟨t, step, (congrArg State.den besides :)⟩

/-- CH0 in BRG, legal no longer, with a measurement word whose change to the legal configuration has been recorded and whose grid
instant is still to come. -/
def wordOutlivesMask : State :=
  { State.reset.setCh 0 (fun ch => { ch with
      mode := .brg
      owner := some 0
      brg := { Brg.reset .brg with next := some (measReset .brg, 4167) } }) with
    den := { Den.reset with legDue := [chObj 0] } }

/-- A command of port 0 on CH0. -/
def onCh0 (payload : List Byte) : Req :=
  { port := 0, tag := 1, obj := chObj 0, seq := 0, fence := false, autorel := false, prio := 0, deadline := 0, payload := payload }

/-- CH.DIAG with the word that stands at reset. -/
def sameDiag : Req := onCh0 (le64 diagReset.toNat)

theorem sameDiag_counts : Ready 0x0204 sameDiag wordOutlivesMask ∧
    (runCh 0x0204 sameDiag wordOutlivesMask (chDiag sameDiag)).den.lec = 1 := by decide +kernel

/-- Refutes O13: a CH.DIAG on a channel that is not legal counts the change to the legal configuration that still waits on the channel,
and so changes more than its diagnostic word. -/
theorem not_channelWordsTakeEffect : ¬ Obligations.ChannelWordsTakeEffect := by
  unfold Obligations.ChannelWordsTakeEffect
  intro h
  obtain ⟨ready, counts⟩ := sameDiag_counts
  obtain ⟨-, -, -, diag, -⟩ := h sameDiag wordOutlivesMask 0 rfl
  obtain ⟨t, step, den⟩ := Completes.den (diag diagReset ready rfl rfl (.inl rfl) (by decide) (by decide) (by decide) (by decide))
  obtain rfl : runCh 0x0204 sameDiag wordOutlivesMask (chDiag sameDiag) = t := Host.Outcome.next.inj step
  rw [den] at counts
  exact absurd counts (by decide)

/-- FLT.ROM of ROM08 by reference. -/
def rom08 : Req := onCh0 [8, 0, 0, 0]

theorem rom08_counts : Ready 0x0502 rom08 wordOutlivesMask ∧
    idleFits wordOutlivesMask 0 ((((wordOutlivesMask.ch 0).filt.withIdle 0 (romBank 8 false 0)).withIdle 1 (romBank 8 false 1)).withIdle 2
      (romBank 8 false 2)) 7 = true ∧
    (runCh 0x0502 rom08 wordOutlivesMask (fltRom rom08)).den.lec = 1 := by decide +kernel

/-- Refutes O23: a FLT.ROM on a channel that is not legal counts the change to the legal configuration that still waits on the channel,
and so changes more than the channel's filter. -/
theorem not_filterBanksLoadWhileTheRunningOnesStay : ¬ Obligations.FilterBanksLoadWhileTheRunningOnesStay := by
  unfold Obligations.FilterBanksLoadWhileTheRunningOnesStay
  intro h
  obtain ⟨ready, fits, counts⟩ := rom08_counts
  obtain ⟨-, -, rom, -, -⟩ := h rom08 wordOutlivesMask 0 rfl rfl rfl
  obtain ⟨e, completes, own, -⟩ := rom 8 false ready rfl fits
  obtain ⟨t, step, den⟩ := completes.den
  obtain rfl : runCh 0x0502 rom08 wordOutlivesMask (fltRom rom08) = t := Host.Outcome.next.inj step
  rw [den, show e.den = wordOutlivesMask.den from (congrArg State.den own :)] at counts
  exact absurd counts (by decide)

end Sys2Proof.Machine
end

section
/-! PROOFS. Loops that change each of their channels alone, what streams and the reports of firings leave, and how an operation of a
heard Holm completes. -/

namespace Sys2Proof.Machine

/-! ### Loops over channels -/

/-- A loop that changes each of its channels alone, by what the system state and the channel itself show. -/
theorem eachCh_ch {l : List Ch} (hl : l.Nodup) {f : Ch → State → State} {g : Sys → Ch → Chan → Chan}
    (h : ∀ c u, OnlyCh c (g u.sys c (u.ch c)) u (f c u) ∧ (f c u).sys = u.sys) (s : State) (d : Ch) :
    (overAll l f s).ch d = if d ∈ l then g s.sys d (s.ch d) else s.ch d := by
  induction l generalizing s with
  | nil => rfl
  | cons a l ih =>
    obtain ⟨ha, hl⟩ := List.nodup_cons.mp hl
    obtain ⟨only, sys⟩ := h a s
    have rest : (overAll (a :: l) f s).ch d = if d ∈ l then g s.sys d ((f a s).ch d) else (f a s).ch d := by
      rw [← sys]
      exact ih hl (f a s)
    rw [rest]
    by_cases e : d = a
    · subst e
      rw [if_neg ha, if_pos List.mem_cons_self, only.own]
    · rw [only.others d e]
      simp [e]

theorem bankChs_nodup (b : Bank) : (bankChs b).Nodup := by revert b; decide

/-- A channel with a disturbing change at an instant, if it filters. -/
def Chan.disturbedBy (t : Nat) (ch : Chan) : Chan := if ch.mode.usesFilter then ch.disturbed t else ch

theorem disturb_only (c : Ch) (s : State) : OnlyCh c ((s.ch c).disturbedBy s.sys.now) s (disturb c s) := by
  unfold disturb disturbAt Chan.disturbedBy
  split
  · exact .setCh c (Chan.disturbed s.sys.now) s
  · exact ⟨rfl, fun _ _ => rfl⟩

theorem disturb_sys (c : Ch) (s : State) : (disturb c s).sys = s.sys := (congrArg State.sys (disturbAt_leaves ..) :)

theorem disturb_holms (c : Ch) (s : State) : (disturb c s).holms = s.holms := (congrArg State.holms (disturbAt_leaves ..) :)

/-- A disturbance is one of the filter alone. -/
theorem disturbedBy_eq (t : Nat) (ch : Chan) : ch.disturbedBy t = { ch with filt := (ch.disturbedBy t).filt } := by
  unfold Chan.disturbedBy
  split <;> rfl

/-! ### Streams -/

theorem needTime_records (c : Ch) (s : State) : RecordsOnly s (needTime c s) := overAll_records (fun _ _ => setPort_records ..) s

theorem noteStep_records (c : Ch) (s : State) : RecordsOnly s (noteStep c s) := overAll_records (fun _ _ => setPort_records ..) s

/-- The units of a sample go to ports or wait in the Holm. -/
theorem streamSample_chans (c : Ch) (x : Smp) (s : State) : (streamSample c x s).chans = s.chans := by
  have note (u : State) : (overAll allPorts (fun p v => v.setPort p (fun q => q.setSub c (fun k => k.noted x))) u).chans = u.chans :=
    (overAll_records (fun _ _ => setPort_records ..) u).chans
  unfold streamSample
  dsimp only
  split
  · exact note s
  · split
    · exact (overAll_records (fun _ _ => pushUnits_records ..) _).chans.trans (note s)
    · split
      · exact note _
      · exact (needTime_records c s).chans

/-! ### Reports of firings -/

theorem settleEvent_leaves (c : Ch) (kind : Byte) (n : BitVec 16) (ts : Nat) (s : State) :
    (settleEvent c kind n ts s).chans = s.chans := notify_chans ..

/-- The report of a firing leaves the channels and what waits on the buses (R33, R129). -/
theorem report_leaves (m : ActMsg) (outcome : Byte) (s : State) : (m.report outcome s).chans = s.chans ∧
    ∀ b : Bank, ((m.report outcome s).holm b).bus = (s.holm b).bus := by
  unfold ActMsg.report
  split
  · obtain ⟨chans, holm⟩ := undelivered_leaves m s
    exact ⟨chans, fun b => (holm b).1⟩
  · exact ⟨notify_chans .., fun b => (congrArg Holm.bus (notify_holm ..) :)⟩

theorem reportInOrder_chans (m : ActMsg) (outcome : Byte) (s : State) : (reportInOrder m outcome s).chans = s.chans := by
  unfold reportInOrder
  split
  · rfl
  · exact (report_leaves ..).1

/-- What a bus no longer holds back is reported, and the rest stays on it. -/
theorem flushNotes_leaves (b : Bank) (s : State) : (flushNotes b s).chans = s.chans ∧
    ((flushNotes b s).holm b).bus = (splitNotes (s.holm b).bus []).2 := by
  unfold flushNotes
  dsimp only
  refine ⟨overAll_keeps State.chans (fun m u => (report_leaves m _ u).1) _,
    (overAll_keeps (fun u => (u.holm b).bus) (fun m u => (report_leaves m _ u).2 b) _).trans ?_⟩
  rw [State.setHolm_holm_self]

/-! ### Completions -/

/-- An operation whose Holm's link is up completes at once (R30, R305). -/
theorem finish_now {op : BitVec 16} {r : Req} {st : Byte} {data : List Byte} {s : State} {b : Bank} {now : Nat}
    (hb : objBank r.obj = some b) (hl : (s.holm b).link = true) (hn : s.sys.now = now) :
    Completion.mk r op (r.tag == 0) st data now ∈ (finish op r st data 0 s).completions := by
  rw [(finish_completed op r st data 0 s (by simpa only [State.linkOk, hb] using hl)).1, hn]
  exact List.mem_append_right _ (List.mem_singleton_self _)

end Sys2Proof.Machine
end

section
/-! PROOFS. What takes effect at a boundary or an instant without an output: filter swaps (R100, R101), carrier plans (R72, R73) and the
end of a datapath reload (R102). -/

namespace Sys2Proof.Machine

/-- A channel with its filter changed. -/
def Chan.withFilt (f : Filt → Filt) (ch : Chan) : Chan := { ch with filt := f ch.filt }

/-! ### A filter swap -/

/-- A chain whose swap has taken effect, its history cleared from the lowest stage on (R100). -/
def Filt.exchanged (w : Swap) (f : Filt) : Filt :=
  { (f.swapped w.smask w.chw w.mdiv w.sdecm1).clearFrom w.low with
    swap := none
    sinc := if w.chw then .reset else f.sinc }

theorem swapped_activeB (g : Stage) (m : Bool) : (if m then g.swapped else g).activeB = (g.activeB != m) := by
  cases m <;> simp [Stage.swapped]

theorem cleared_activeB (g : Stage) (p : Prop) [Decidable p] : (if p then g.cleared else g).activeB = g.activeB := by
  split <;> rfl

/-- A swap exchanges the stages of its mask and no other. -/
theorem exchanged_activeB (w : Swap) (f : Filt) : (f.exchanged w).s1.activeB = (f.s1.activeB != bit w.smask 0) ∧
    (f.exchanged w).s2.activeB = (f.s2.activeB != bit w.smask 1) ∧ (f.exchanged w).s3.activeB = (f.s3.activeB != bit w.smask 2) :=
  ⟨(cleared_activeB ..).trans (swapped_activeB ..), (cleared_activeB ..).trans (swapped_activeB ..), swapped_activeB ..⟩

/-- A chain of which some samples are still to be suppressed until it has settled (R103). -/
def Filt.settling (n : Nat) (f : Filt) : Filt := { f with supp := n, settlePend := true }

/-- A swap takes effect on its channel alone, with the samples that it suppresses still to settle, and its command completes. -/
theorem swapNow_spec {c : Ch} {w : Swap} {s : State} (hb : objBank w.req.obj = some (bankOf c)) (hl : (s.holm (bankOf c)).link = true) :
    ∃ n d, OnlyCh c ((s.ch c).withFilt fun f => (f.exchanged w).settling n) s (swapNow c w s) ∧
      Completion.mk w.req 0x0503 (w.req.tag == 0) stOK d s.sys.now ∈ (swapNow c w s).completions := by
  unfold swapNow
  extract_lets s1 n s2 s3
  have swapped : OnlyCh c ((s.ch c).withFilt (·.exchanged w)) s s1 := .setCh c (Chan.withFilt (·.exchanged w)) s
  have settles : OnlyCh c _ s s2 := swapped.trans (.setCh c (Chan.withFilt fun f => f.settling (max f.supp n)) s1)
  have takes := legalTakes_unreported w.req.obj s2
  have needs := needTime_records c s3
  have chans : (needTime c s3).chans = s2.chans := needs.chans.trans (congrArg State.chans takes :)
  have holms : (needTime c s3).holms = s.holms := needs.holms.trans (congrArg State.holms takes :)
  have sys : (needTime c s3).sys = s.sys := needs.sys.trans (congrArg State.sys takes :)
  rw [swapped.own] at settles
  exact ⟨max ((s.ch c).filt.exchanged w).supp n, _, (settles.after chans).after (finish_chans ..),
    finish_now hb (by rw [State.holm, holms]; exact hl) (by rw [sys])⟩

theorem swapBoundary_due {c : Ch} {w : Swap} {s : State} (h : (s.ch c).filt.swap = some w) (hs : s.samples c = true)
    (hd : s.swapDue c w = true) : swapBoundary c s = swapNow c w s := by simp [swapBoundary, h, hs, hd]

theorem swapBoundary_early {c : Ch} {w : Swap} {s : State} (h : (s.ch c).filt.swap = some w) (hd : s.swapDue c w = false) :
    swapBoundary c s = s := by simp [swapBoundary, h, hd]

/-! ### A carrier plan -/

/-- A channel with its rate of a plan; a moved change that waits for a reversal instant is due by now (R72). -/
def Chan.planned (now : Nat) (rate : Option (Fin 5)) (ch : Chan) : Chan :=
  { ch with brg := { ch.brg with rate := rate }, moved := ch.moved.map (fun m => { m with due := min m.due now }) }

/-- The rate that a plan gives a channel of its bank. -/
def PlanPend.rateOf (p : PlanPend) (c : Ch) : Option (Fin 5) := p.rates.getD (posOf c).val none

/-- The plan changes the rate of a channel of its bank. -/
def State.planChanges (s : State) (b : Bank) (p : PlanPend) : Bool := (bankChs b).any (fun c => (s.ch c).brg.rate != p.rateOf c)

theorem chAt_pos : ∀ (b : Bank) (k : Fin 8), bankOf (chAt b k) = b ∧ posOf (chAt b k) = k := by decide

theorem planChanges_iff {s : State} {b : Bank} {p : PlanPend} :
    s.planChanges b p = true ↔ ∃ k : Fin 8, (s.ch (chAt b k)).brg.rate ≠ p.rates.getD k.val none := by
  simp only [State.planChanges, List.any_eq_true, mem_bankChs, bne_iff_ne]
  constructor
  · rintro ⟨c, rfl, differs⟩
    exact ⟨posOf c, by rwa [chAt_bankOf_posOf]⟩
  · rintro ⟨k, differs⟩
    obtain ⟨bank, pos⟩ := chAt_pos b k
    exact ⟨chAt b k, bank, by rwa [PlanPend.rateOf, pos]⟩

/-- What a plan without waiting commands writes: its channels, each alone, and the plan of its Holm (R72, R73). -/
theorem planNow_spec {b : Bank} {p : PlanPend} {s : State} (h : p.waiters = []) :
    let t := planNow b p s
    (∀ c, bankOf c = b → t.ch c = (s.ch c).planned s.sys.now (p.rateOf c) ∨
      t.ch c = ((s.ch c).planned s.sys.now (p.rateOf c)).disturbedBy s.sys.now) ∧
    (∀ c, bankOf c ≠ b → t.ch c = s.ch c) ∧ (t.holm b).pend = none ∧
    (t.holm b).planSeq = (if s.planChanges b p then (s.holm b).planSeq + 1 else (s.holm b).planSeq) ∧
    (t.holm b).teff = if s.planChanges b p then p.due else (s.holm b).teff := by
  intro t
  have planned : t = planNow b p s := rfl
  unfold planNow at planned
  extract_lets old new changed s1 s2 s3 rc s4 at planned
  have given (c : Ch) : s2.ch c = if c ∈ bankChs b then (s.ch c).planned s.sys.now (p.rateOf c) else s.ch c :=
    eachCh_ch (bankChs_nodup b) (g := fun y c ch => ch.planned y.now (p.rateOf c)) (fun _ _ => ⟨.setCh .., rfl⟩) s1 c
  let give (c : Ch) (u : State) : State := u.setCh c (Chan.planned u.sys.now (p.rateOf c))
  have holm2 : s2.holms = s1.holms := overAll_keeps State.holms (f := give) (fun _ _ => rfl) s1
  have sys2 : s2.sys = s1.sys := overAll_keeps State.sys (f := give) (fun _ _ => rfl) s1
  have told : s3.sys = s2.sys ∧ s3.chans = s2.chans ∧ ∀ e, (s3.holm e).besidesNotices = (s2.holm e).besidesNotices := by
    simp only [s3]
    split
    · exact notify_leaves ..
    · exact ⟨rfl, rfl, fun _ => rfl⟩
  obtain ⟨sys3, chans3, holm3⟩ := told
  have waited : s4 = s3 := by simp only [s4, h]; rfl
  have only (c : Ch) (u : State) : OnlyCh c ((u.ch c).disturbedBy u.sys.now) u (needTime c (disturb c u)) ∧
      (needTime c (disturb c u)).sys = u.sys :=
    ⟨(disturb_only c u).after (needTime_records ..).chans, (needTime_records ..).sys.trans (disturb_sys ..)⟩
  have disturbed (c : Ch) := eachCh_ch ((bankChs_nodup b).filter rc) (g := fun y _ ch => ch.disturbedBy y.now) only s4 c
  have holms : t.holms = s3.holms := by
    rw [planned, waited]
    exact overAll_keeps State.holms (fun _ _ => (needTime_records ..).holms.trans (disturb_holms ..)) s3
  have holm : (t.holm b).besidesNotices = (s1.holm b).besidesNotices := by
    rw [State.holm, holms]
    exact (holm3 b).trans (congrArg (fun l : Vector Holm 2 => l[b].besidesNotices) holm2)
  have taken := State.setHolm_holm_self s b (fun h => { h with
    pend := none
    planSeq := if changed then h.planSeq + 1 else h.planSeq
    teff := if changed then p.due else h.teff })
  rw [show s1.holm b = _ from taken] at holm
  have own (c : Ch) : s4.ch c = s2.ch c := by rw [waited, State.ch, chans3]; rfl
  have now : s4.sys.now = s.sys.now := by rw [waited, sys3, sys2]; rfl
  refine ⟨fun c hc => ?_, fun c hc => ?_, (congrArg Holm.pend holm :), (congrArg Holm.planSeq holm :), (congrArg Holm.teff holm :)⟩
  · have mem : c ∈ bankChs b := mem_bankChs.mpr hc
    rw [planned, disturbed, own, given, if_pos mem, now]
    split
    · exact .inr rfl
    · exact .inl rfl
  · have out : c ∉ bankChs b := fun k => hc (mem_bankChs.mp k)
    rw [planned, disturbed, own, given, if_neg out, if_neg fun k => out (List.mem_of_mem_filter k)]

theorem planEffect_due {b : Bank} {p : PlanPend} {s : State} (h : (s.holm b).pend = some p) (hu : (s.holm b).up = true)
    (hd : p.due ≤ s.sys.now) : planEffect b s = planNow b p s := by simp [planEffect, h, hu, hd]

theorem planEffect_early {b : Bank} {p : PlanPend} {s : State} (h : (s.holm b).pend = some p) (hd : s.sys.now < p.due) :
    planEffect b s = s := by simp [planEffect, h, hd]

/-! ### A datapath reload -/

/-- The reload of a datapath ends: the filter channels of its bank start afresh (R102). -/
theorem datapathReload_spec {b : Bank} {s : State} (hr : (s.holm b).reloadDp = true) (hu : (s.holm b).up = true)
    (hf : s.sys.failedEngines = []) :
    let t := datapathReload b s
    (t.holm b).reloadDp = false ∧ ∀ c : Ch, t.ch c =
      if bankOf c = b ∧ (s.ch c).mode.usesFilter = true then ((s.ch c).withFilt (·.clearFrom 0)).disturbedBy s.sys.now
      else s.ch c := by
  intro t
  have ends : t = datapathReload b s := rfl
  rw [datapathReload, if_pos (by simp [hr, hu, hf])] at ends
  extract_lets s1 at ends
  let fresh (c : Ch) (u : State) : State := disturb c (u.setCh c (Chan.withFilt (·.clearFrom 0)))
  have only (c : Ch) (u : State) : OnlyCh c (((u.ch c).withFilt (·.clearFrom 0)).disturbedBy u.sys.now) u (fresh c u) ∧
      (fresh c u).sys = u.sys := by
    have cleared := OnlyCh.setCh c (Chan.withFilt (·.clearFrom 0)) u
    have disturbs := disturb_only c (u.setCh c (Chan.withFilt (·.clearFrom 0)))
    rw [cleared.own] at disturbs
    exact ⟨cleared.trans disturbs, disturb_sys ..⟩
  have holms : t.holms = s1.holms := by
    rw [ends]
    exact overAll_keeps State.holms (f := fresh) (fun _ _ => disturb_holms ..) s1
  refine ⟨?_, fun c => ?_⟩
  · rw [State.holm, holms]
    exact (congrArg Holm.reloadDp (State.setHolm_holm_self ..) :)
  · have each := eachCh_ch ((bankChs_nodup b).filter fun c => (s1.ch c).mode.usesFilter)
      (g := fun y _ ch => (ch.withFilt (·.clearFrom 0)).disturbedBy y.now) only s1 c
    simp only [List.mem_filter, mem_bankChs] at each
    rw [ends]
    exact each

theorem datapathReload_none {b : Bank} {s : State} (h : (s.holm b).reloadDp = false) : datapathReload b s = s := by
  simp [datapathReload, h]

end Sys2Proof.Machine
end

section
/-! PROOFS. A lone switch that is turned off (R35, R180, R191): by a change moved by edge scheduling (R213), whatever lock its turn-off
sets. -/

namespace Sys2Proof.Machine

/-! ### What governs -/

/-- The governing level is that of the highest active one (R35). -/
theorem govern_level (s : State) (c : Ch) : (s.govern c).1 =
    if !(s.ch c).mode.isOutput || !s.holmLive (bankOf c) then 0
    else if s.locked c then 1
    else if (s.ch c).inBreak then 5
    else if s.burrowOn c then 2
    else if (s.ch (s.lead c)).l3.isSome then 3
    else if (s.actFor c).isSome then 4
    else 5 := by
  unfold State.govern
  dsimp only
  repeat' split
  all_goals simp_all

/-- A channel without what level 5 demands and a change of it that was moved. -/
def Chan.besidesDemand (ch : Chan) : Chan := { ch with l5 := .off, moved := none }

/-- What level 5 demands of a lone channel does not decide which level governs it. -/
theorem govern_level_setCh {s : State} {c : Ch} {f : Chan → Chan} (hp : (s.ch c).paired = false)
    (hf : (f (s.ch c)).besidesDemand = (s.ch c).besidesDemand) (ha : (f (s.ch c)).action = (s.ch c).action) :
    ((s.setCh c f).govern c).1 = (s.govern c).1 := by
  have own : (s.setCh c f).ch c = f (s.ch c) := State.setCh_ch_self ..
  have mode : (f (s.ch c)).mode = (s.ch c).mode := (congrArg Chan.mode hf :)
  have paired : (f (s.ch c)).paired = false := (congrArg Chan.paired hf :).trans hp
  have locks : (f (s.ch c)).locks = (s.ch c).locks := (congrArg Chan.locks hf :)
  have inBreak : (f (s.ch c)).inBreak = (s.ch c).inBreak := (congrArg Chan.inBreak hf :)
  have l3 : (f (s.ch c)).l3 = (s.ch c).l3 := (congrArg Chan.l3 hf :)
  have bmap : (f (s.ch c)).bmap = (s.ch c).bmap := (congrArg Chan.bmap hf :)
  have lead : (s.setCh c f).lead c = c := lead_of_unpaired (by rw [own, paired])
  have locked : (s.setCh c f).locked c = s.locked c := by simp [State.locked, State.members, own, paired, hp, locks]
  have burrow : (s.setCh c f).burrowOn c = s.burrowOn c := by
    simp only [burrowOn_eq, own, mode, bmap, lead, lead_of_unpaired hp, State.setCh_holm]
  simp only [govern_level, own, mode, inBreak, lead, lead_of_unpaired hp, l3, locked, burrow, actFor_eq, ha]
  rfl

/-- A switch at level 5 that is set off there is off, in the break of a mode change too. -/
theorem govern_off_of_level_five {s : State} {c : Ch} (hm : (s.ch c).mode = .dout) (hp : (s.ch c).paired = false)
    (hl : (s.ch c).l5 = .off) (h : (s.govern c).1 = 5) : (s.govern c).2 ≠ .on := by
  revert h
  unfold State.govern
  simp only [lead_of_unpaired hp]
  repeat' split
  all_goals simp_all [Mode.isLoopOut, normDemand, deenergised]

/-- A switch under a lock is off (R35, R37). -/
theorem govern_of_locked {s : State} {c : Ch} (hm : (s.ch c).mode = .dout) (h : s.locked c = true) :
    (s.govern c).1 ≠ 4 ∧ (s.govern c).2 = .off := by
  unfold State.govern
  simp only [h, hm]
  split <;> simp [deenergised]

/-! ### One evaluation -/

theorem OutputsOnly.moved {s t : State} (h : OutputsOnly s t) (c : Ch) : (t.ch c).moved = (s.ch c).moved :=
  (congrArg Chan.moved (h.chan c) :)

theorem endTrim_conducting (c : Ch) (s : State) (d : Ch) : ((endTrim c s).ch d).conducting = (s.ch d).conducting := by
  unfold endTrim
  split
  · rfl
  · extract_lets s1 isT gone
    have ended : (s1.ch d).conducting = (s.ch d).conducting := setCh_keeps Chan.conducting c _ s d fun _ => rfl
    refine (overAll_keeps (fun u => (u.ch d).conducting) (fun h u => ?_) _).trans ended
    split
    · rw [finish_ch]
    · rfl

/-- A switch in DO conducts while what governs it demands that it is on (R36). -/
theorem evalOne_conducting {c : Ch} {s : State} (hm : (s.ch c).mode = .dout) :
    ((evalOne c s).ch c).conducting = ((s.govern c).2 == .on) := by
  unfold evalOne
  extract_lets ch g now on ramp moved from_ s1 s2 s3
  have h1 : (s1.ch c).conducting = (g.2 == .on) := by
    simp only [s1, State.setCh_ch_self, on, show ch.mode = .dout from hm]
  have h2 : (s2.ch c).conducting = (s1.ch c).conducting := by
    simp only [s2]
    split <;> rfl
  have h3 : (s3.ch c).conducting = (s2.ch c).conducting := by
    simp only [s3]
    split
    · exact endTrim_conducting c s2 c
    · rfl
  rw [← h1, ← h2, ← h3]
  split
  · exact setCh_keeps Chan.conducting _ _ _ c fun _ => rfl
  · rfl

theorem evalOne_others {c : Ch} {s : State} (hp : (s.ch c).paired = false) {d : Ch} (h : d ≠ c) : (evalOne c s).ch d = s.ch d :=
  evalOne_ch_ne c d s h (by rwa [lead_of_unpaired hp])

/-! ### A switch that is off -/

/-- A lone switch in DO that is off at level 5 and does not conduct, with no change moved. -/
structure Chan.IsOff (ch : Chan) : Prop where
  mode : ch.mode = .dout
  lone : ch.paired = false
  l5 : ch.l5 = .off
  conducting : ch.conducting = false
  moved : ch.moved = none

/-- A channel comes to be off, and every other is as it was. -/
structure TurnsOff (c : Ch) (s t : State) : Prop where
  own : (t.ch c).IsOff
  others : ∀ d : Ch, d ≠ c → t.ch d = s.ch d

theorem TurnsOff.after {c : Ch} {s t u : State} (h : TurnsOff c s t) (k : u.chans = t.chans) : TurnsOff c s u := by
  have same (e : Ch) : u.ch e = t.ch e := by simp only [State.ch, k]
  exact ⟨(same c).symm ▸ h.own, fun d hd => (same d).trans (h.others d hd)⟩

theorem TurnsOff.trans {c : Ch} {s t u : State} (h : TurnsOff c s t) (k : TurnsOff c t u) : TurnsOff c s u :=
  ⟨k.own, fun d hd => (k.others d hd).trans (h.others d hd)⟩

/-- A switch whose level 5 is off is off after an evaluation in which neither a hold nor what governs turns it on. -/
theorem evalOne_turnsOff {c : Ch} {s : State} (hm : (s.ch c).mode = .dout) (hp : (s.ch c).paired = false) (hl : (s.ch c).l5 = .off)
    (hv : (s.ch c).moved = none) (h4 : (s.govern c).1 ≠ 4) (hd : (s.govern c).2 ≠ .on) : TurnsOff c s (evalOne c s) where
  own :=
    have out := evalOne_outputs c s
    ⟨(out.mode c).trans hm, (out.paired c).trans hp, (evalOne_l5 h4 c).trans hl,
     (evalOne_conducting hm).trans (by simpa using hd), (out.moved c).trans hv⟩
  others _ := evalOne_others hp

/-- A channel whose restore, if one waited, is cancelled (R253). -/
def Chan.restoreCancelled (ch : Chan) : Chan := { ch with restore := .none, presag := none }

theorem cancelRestore_only (c : Ch) (s : State) : OnlyCh c (s.ch c).restoreCancelled s (cancelRestore c s) := by
  refine ⟨?_, fun d => cancelRestore_ch_ne c d s⟩
  unfold cancelRestore
  extract_lets ch submitted isR s1 t
  have before : s1.ch c = s.ch c := by
    simp only [s1]
    split <;> rfl
  have cancelled : t.ch c = (s.ch c).restoreCancelled := by
    rw [← before]
    exact State.setCh_ch_self s1 c Chan.restoreCancelled
  split
  · rw [State.ch, (denEvent_records ..).chans]
    exact cancelled
  · exact cancelled

/-- A channel with its locks changed. -/
def Chan.withLocks (f : Locks → Locks) (ch : Chan) : Chan := { ch with locks := f ch.locks }

/-- A lock leaves a switch that is off as it is. -/
theorem setLock_turnsOff {c : Ch} {f : Locks → Locks} {s : State} (h : (s.ch c).IsOff) (hf : ∀ l, (f l).any = true) :
    TurnsOff c s (setLock c f s) := by
  obtain ⟨chans, -⟩ := assertFault_leaves s
  have same (d : Ch) : (assertFault s).ch d = s.ch d := by simp only [State.ch, chans]
  have alone : (assertFault s).members c = [c] := if_neg (by rw [same, h.lone]; decide)
  have only := (OnlyCh.setCh c (Chan.withLocks f) (assertFault s)).trans (cancelRestore_only c _)
  rw [State.setCh_ch_self, same] at only
  have locked : State.locked (cancelRestore c ((assertFault s).setCh c (Chan.withLocks f))) c = true := by
    have lone : (((s.ch c).withLocks f).restoreCancelled).paired = false := h.lone
    have members : State.members (cancelRestore c ((assertFault s).setCh c (Chan.withLocks f))) c = [c] :=
      if_neg (by rw [only.own, lone]; decide)
    simp [State.locked, members, only.own, Chan.restoreCancelled, Chan.withLocks, hf]
  obtain ⟨level, demand⟩ := govern_of_locked (by rw [only.own]; exact h.mode) locked
  have off := evalOne_turnsOff (s := cancelRestore c ((assertFault s).setCh c (Chan.withLocks f))) (by rw [only.own]; exact h.mode)
    (by rw [only.own]; exact h.lone) (by rw [only.own]; exact h.l5) (by rw [only.own]; exact h.moved) level (by simp [demand])
  have eq : setLock c f s = evalOne c (cancelRestore c ((assertFault s).setCh c (Chan.withLocks f))) := by
    rw [← evalOut_of_unpaired (by rw [only.own]; exact h.lone)]
    unfold setLock
    dsimp only
    rw [alone]
    rfl
  rw [eq]
  exact ⟨off.own, fun d hd => (off.others d hd).trans ((only.others d hd).trans (same d))⟩

/-- Whatever energy its turn-off had, a switch that is off stays off (R191 to R193). -/
theorem clampAfter_turnsOff {c : Ch} {m : ClampMeas} {before s : State} (h : (s.ch c).IsOff) :
    TurnsOff c s (clampAfter c m before s) := by
  have unchanged : TurnsOff c s s := ⟨h, fun _ _ => rfl⟩
  unfold clampAfter
  split
  · unfold clampPulse
    extract_lets e s1 full
    have measured : TurnsOff c s s1 := by
      refine ⟨?_, State.setCh_ch_ne s c _⟩
      simp only [s1, State.setCh_ch_self]
      exact ⟨h.mode, h.lone, h.l5, h.conducting, h.moved⟩
    have locks : TurnsOff c s (setLock c (fun l => { l with clamp := true }) s1) :=
      measured.trans (setLock_turnsOff measured.own fun l => by simp [Locks.any])
    repeat' split
    · exact locks.after (notify_chans ..)
    · exact locks.after (notify_chans ..)
    · exact measured
  · exact unchanged

/-! ### A moved change -/

/-- A lone channel takes a demand at level 5. -/
theorem setL5_lone {c : Ch} {d : Demand} {s : State} (hp : (s.ch c).paired = false) :
    setL5 c d s = s.setCh c (fun ch => { ch with l5 := ch.putL5 d }) := by
  simp [setL5, State.members, hp, overAll]

theorem setDemand_lone {c : Ch} {d : Demand} {s : State} (hm : (s.ch c).mode = .dout) (hp : (s.ch c).paired = false) :
    setDemand c d false s = s.setCh c (fun ch => { ch with l5 := ch.putL5 d }) := by
  simp [setDemand, setL5_lone hp, hm, Mode.isLoopOut]

theorem putL5_dout {ch : Chan} (h : ch.mode = .dout) (d : Demand) : ch.putL5 d = d := by simp [Chan.putL5, Chan.parked, h]

/-- A channel without its moved change. -/
def Chan.unmoved (ch : Chan) : Chan := { ch with moved := none }

/-- A change of level 5 that waits keeps no hold from its action. -/
theorem unmoved_action {ch : Chan} {v : Moved} {d : Demand} {alarm : Bool} (h : ch.moved = some v) (hk : v.kind = .demand d alarm) :
    ch.unmoved.action = ch.action := by
  have still : ch.inChange = ch.unmoved.inChange := by simp [Chan.inChange, Chan.modeMoving, Chan.unmoved, h, hk]
  have same (k : ActKind) : actDemand ch.unmoved k = actDemand ch k := by
    unfold actDemand
    rw [still]
    rfl
  simp only [Chan.action, same]
  rfl

/-- A level-5 change of a lone switch to off, at an instant at which level 5 governs (R39, R213). -/
theorem levelRun_off {c : Ch} {m : ClampMeas} {op : BitVec 16} {r : Req} {s : State} (hm : (s.ch c).mode = .dout)
    (hp : (s.ch c).paired = false) (hv : (s.ch c).moved = none) (h5 : (s.govern c).1 = 5) (hb : objBank r.obj = some (bankOf c))
    (hl : (s.holm (bankOf c)).link = true) :
    Completion.mk r op (r.tag == 0) stOK [] s.sys.now ∈ (levelRun c .off false m op r s).completions ∧
      TurnsOff c s (levelRun c .off false m op r s) := by
  let f (ch : Chan) : Chan := { ch with l5 := ch.putL5 .off }
  have demanded : setDemand c .off false s = s.setCh c f := setDemand_lone hm hp
  have l5 : (f (s.ch c)).l5 = .off := putL5_dout hm _
  have own : (s.setCh c f).ch c = f (s.ch c) := State.setCh_ch_self ..
  have level : ((s.setCh c f).govern c).1 = 5 := (govern_level_setCh hp rfl rfl).trans h5
  have eval : TurnsOff c (s.setCh c f) (evalOne c (s.setCh c f)) :=
    evalOne_turnsOff (by rw [own]; exact hm) (by rw [own]; exact hp) (by rw [own]; exact l5) (by rw [own]; exact hv)
      (by rw [level]; decide)
      (govern_off_of_level_five (by rw [own]; exact hm) (by rw [own]; exact hp) (by rw [own]; exact l5) level)
  have runs : levelRun c .off false m op r s = finish op r stOK [] 0 (clampAfter c m s (evalOne c (s.setCh c f))) := by
    rw [levelRun, if_neg (by simp [h5]), demanded, evalOut_of_unpaired (by rw [own]; exact hp)]
  have steady : calm.rel s (clampAfter c m s (evalOne c (s.setCh c f))) := by simp
  have now : (clampAfter c m s (evalOne c (s.setCh c f))).sys.now = s.sys.now := now_of_anchor (by simp)
  have off := eval.trans (clampAfter_turnsOff (m := m) (before := s) eval.own)
  rw [runs]
  refine ⟨finish_now hb ((steady.holm _).link.trans hl) now, ?_⟩
  exact TurnsOff.after ⟨off.own, fun d hd => (off.others d hd).trans (State.setCh_ch_ne s c f d hd)⟩ (finish_chans ..)

theorem movedChange_due {c : Ch} {v : Moved} {m : ClampMeas} {s : State} {d : Demand} {alarm : Bool} (h : (s.ch c).moved = some v)
    (hd : v.due ≤ s.sys.now) (hl : s.holmLive (bankOf c) = true) (hk : v.kind = .demand d alarm) :
    movedChange c m s = levelRun c d alarm m v.op v.req (s.setCh c Chan.unmoved) := by
  simp only [movedChange, h, hk]
  exact if_pos (by simp [hd, hl])

theorem movedChange_early {c : Ch} {v : Moved} {m : ClampMeas} {s : State} (h : (s.ch c).moved = some v) (hd : s.sys.now < v.due) :
    movedChange c m s = s := by
  simp only [movedChange, h]
  exact if_neg (by simp [Nat.not_le.mpr hd])

/-- A moved change of a lone switch to off at its instant (R213). -/
theorem movedChange_off {c : Ch} {v : Moved} {m : ClampMeas} {s : State} (h : (s.ch c).moved = some v) (hd : v.due ≤ s.sys.now)
    (hl : s.holmLive (bankOf c) = true) (hk : v.kind = .demand .off false) (hm : (s.ch c).mode = .dout)
    (hp : (s.ch c).paired = false) (h5 : (s.govern c).1 = 5) (hb : objBank v.req.obj = some (bankOf c))
    (hu : (s.holm (bankOf c)).link = true) :
    Completion.mk v.req v.op (v.req.tag == 0) stOK [] s.sys.now ∈ (movedChange c m s).completions ∧
      TurnsOff c s (movedChange c m s) := by
  have own : (s.setCh c Chan.unmoved).ch c = (s.ch c).unmoved := State.setCh_ch_self ..
  have level : ((s.setCh c Chan.unmoved).govern c).1 = 5 := (govern_level_setCh hp rfl (unmoved_action h hk)).trans h5
  obtain ⟨done, off⟩ := levelRun_off (m := m) (op := v.op) (r := v.req) (s := s.setCh c Chan.unmoved) (by rw [own]; exact hm)
    (by rw [own]; exact hp) (by rw [own]; rfl) level hb hu
  rw [movedChange_due h hd hl hk]
  exact ⟨done, off.own, fun d hne => (off.others d hne).trans (State.setCh_ch_ne s c _ d hne)⟩

/-! ### The statement -/

/-- Settles O47: a swap, a plan and a reload write their channels each alone, and a moved change to off leaves its switch off whatever
lock the turn-off sets. -/
theorem boundariesAndInstantsTakeEffect : Obligations.BoundariesAndInstantsTakeEffect := by
  intro s
  refine ⟨fun c w swap => ⟨fun samples due bank link => ?_, fun early => congrArg Host.Outcome.next (swapBoundary_early swap early)⟩,
    fun b p pend => ⟨fun up due waiters => ?_, fun early => congrArg Host.Outcome.next (planEffect_early pend early)⟩,
    fun c v m moved => ⟨fun due live kind mode lone level _ bank link => ?_,
      fun early => congrArg Host.Outcome.next (movedChange_early moved early)⟩,
    fun b => ⟨fun reload up engines => ?_, fun none => congrArg Host.Outcome.next (datapathReload_none none)⟩⟩
  · obtain ⟨n, d, only, done⟩ := swapNow_spec (s := s) bank link
    rw [← swapBoundary_due swap samples due] at only done
    obtain ⟨s1, s2, s3⟩ := exchanged_activeB w (s.ch c).filt
    refine ⟨_, d, rfl, done, ?_, ?_, ?_, ?_, ?_, ?_, ?_, ?_, ?_, only.others⟩ <;> rw [only.own]
    · rfl
    · exact s1
    · exact s2
    · exact s3
    all_goals rfl
  · obtain ⟨mine, others, pending, seq, teff⟩ := planNow_spec (b := b) (s := s) waiters
    rw [← planEffect_due pend up due] at mine others pending seq teff
    have taken (c : Ch) (hc : bankOf c = b) : ((planEffect b s).ch c).brg.rate = p.rateOf c ∧
        ((planEffect b s).ch c).mode = (s.ch c).mode ∧ ((planEffect b s).ch c).brg.meas = (s.ch c).brg.meas := by
      rcases mine c hc with e | e
      · rw [e]
        exact ⟨rfl, rfl, rfl⟩
      · rw [e, disturbedBy_eq]
        exact ⟨rfl, rfl, rfl⟩
    refine ⟨_, rfl, pending, fun k => ?_, fun differs => ?_, fun same => ?_, fun c => ?_, others⟩
    · obtain ⟨bank, pos⟩ := chAt_pos b k
      rw [(taken _ bank).1, PlanPend.rateOf, pos]
    · rw [if_pos (planChanges_iff.mpr differs)] at seq teff
      exact ⟨seq, teff⟩
    · rw [if_neg fun k => (planChanges_iff.mp k).elim fun j hj => hj (same j)] at seq
      exact seq
    · by_cases hc : bankOf c = b
      · exact (taken c hc).2
      · rw [others c hc]
        exact ⟨rfl, rfl⟩
  · obtain ⟨done, off⟩ := movedChange_off (m := m) moved due live kind mode lone level bank link
    exact ⟨_, rfl, done, off.own.moved, off.own.l5, off.own.conducting, off.others⟩
  · obtain ⟨ended, chans⟩ := datapathReload_spec reload up engines
    refine ⟨_, rfl, ended, fun c bank filters => ?_, fun c out => ?_⟩
    · rw [chans, if_pos ⟨bank, filters⟩]
      unfold Chan.disturbedBy
      split <;> exact ⟨rfl, rfl, rfl, rfl, rfl⟩
    · rw [chans, if_neg]
      rintro ⟨bank, filters⟩
      rcases out with out | out
      · exact out bank
      · rw [filters] at out
        cases out

end Sys2Proof.Machine
end

section
/-! PROOFS. What a sample does to its channel's comparators (R88, R106, R115, R117, R121), and chained arming (R125). -/

namespace Sys2Proof.Machine

/-! ### What goes with a sample -/

/-- The mode, the filter chain and the comparators of a channel. -/
def Chan.sampling (ch : Chan) : Mode × Filt × Vector Thr 4 := (ch.mode, ch.filt, ch.thr)

/-- Of a channel nothing of its mode, filter chain or comparators changes, and every other channel is as it was. -/
structure Beside (c : Ch) (s t : State) : Prop where
  own : (t.ch c).sampling = (s.ch c).sampling
  others : ∀ d : Ch, d ≠ c → t.ch d = s.ch d

theorem Beside.trans {c : Ch} {s t u : State} (h : Beside c s t) (k : Beside c t u) : Beside c s u :=
  ⟨k.own.trans h.own, fun d hd => (k.others d hd).trans (h.others d hd)⟩

theorem Beside.of_chans {s t : State} (h : t.chans = s.chans) (c : Ch) : Beside c s t := by
  have same (d : Ch) : t.ch d = s.ch d := by simp only [State.ch, h]
  exact ⟨congrArg Chan.sampling (same c), fun d _ => same d⟩

theorem Beside.setCh (c : Ch) {f : Chan → Chan} (h : ∀ ch, (f ch).sampling = ch.sampling) (s : State) :
    Beside c s (s.setCh c f) :=
  ⟨(congrArg Chan.sampling (State.setCh_ch_self s c f)).trans (h _), State.setCh_ch_ne s c f⟩

/-- A change of NE 43 class is told, besides the loop's own state (R134). -/
theorem classSample_beside (c : Ch) (v : Int) (s : State) : Beside c s (classSample c v s) ∧
    ∀ b : Bank, ((classSample c v s).holm b).besidesNotices = (s.holm b).besidesNotices := by
  unfold classSample
  extract_lets ch
  split
  · refine ⟨(Beside.setCh c (fun _ => by rfl) s).trans (.of_chans (notify_chans ..) c), fun b => ?_⟩
    exact notify_holm ..
  · exact ⟨.of_chans rfl c, fun _ => rfl⟩

/-- The stability detector takes its sample beside the chain and the comparators (R131). -/
theorem stabSample_beside (c : Ch) (x : Smp) (gap : Bool) (s : State) : Beside c s (stabSample c x gap s) := by
  unfold stabSample
  extract_lets d n t u
  have fed : Beside c s t := .setCh c (fun _ => by rfl) s
  have emptied : Beside c s u := by
    simp only [u]
    split
    · exact fed.trans (.of_chans (settleEvent_leaves ..) c)
    · exact fed
  split
  · exact emptied.trans (.of_chans (settleEvent_leaves ..) c)
  · exact emptied

/-! ### Firings -/

/-- Of a channel nothing of its mode and filter chain changes, of its comparators none that is not DISARMED, and every other channel
is as it was. -/
structure ArmsOnly (c : Ch) (s t : State) : Prop where
  mode : (t.ch c).mode = (s.ch c).mode
  filt : (t.ch c).filt = (s.ch c).filt
  thr : ∀ k : Fin 4, (s.ch c).thr[k].st ≠ .disarmed → (t.ch c).thr[k] = (s.ch c).thr[k]
  others : ∀ d : Ch, d ≠ c → t.ch d = s.ch d

theorem ArmsOnly.refl (c : Ch) (s : State) : ArmsOnly c s s := ⟨rfl, rfl, fun _ _ => rfl, fun _ _ => rfl⟩

theorem ArmsOnly.trans {c : Ch} {s t u : State} (h : ArmsOnly c s t) (k : ArmsOnly c t u) : ArmsOnly c s u where
  mode := k.mode.trans h.mode
  filt := k.filt.trans h.filt
  thr i hi := (k.thr i (by rwa [h.thr i hi])).trans (h.thr i hi)
  others d hd := (k.others d hd).trans (h.others d hd)

theorem ArmsOnly.after {c : Ch} {s t u : State} (h : ArmsOnly c s t) (k : u.chans = t.chans) : ArmsOnly c s u := by
  have same (d : Ch) : u.ch d = t.ch d := by simp only [State.ch, k]
  refine ⟨?_, ?_, ?_, fun d hd => (same d).trans (h.others d hd)⟩ <;> rw [same]
  exacts [h.mode, h.filt, h.thr]

/-- A firing arms comparators that are DISARMED (R125); its report and its action touch no channel yet. -/
theorem fire_arms (c : Ch) (k : Fin 4) (byFlt : Bool) (s : State) : ArmsOnly c s (fire c k byFlt s) := by
  unfold fire
  extract_lets t e s1 m
  have own : s1.ch c = _ := State.setCh_ch_self ..
  have arms : ArmsOnly c s s1 := by
    refine ⟨by rw [own], by rw [own], fun i hi => ?_, State.setCh_ch_ne s c _⟩
    rw [own]
    simp [show ((s.ch c).thr[i.val]).st ≠ .disarmed from hi]
  repeat' split
  · exact arms.after (reportInOrder_chans ..)
  · exact arms.after rfl
  · exact arms.after (reportInOrder_chans ..)
  · exact arms.after (reportInOrder_chans ..)

theorem overAll_arms {α : Type} {c : Ch} {f : α → State → State} (h : ∀ a u, ArmsOnly c u (f a u)) (l : List α) (s : State) :
    ArmsOnly c s (overAll l f s) := by
  induction l generalizing s with
  | nil => exact .refl c s
  | cons a l ih => exact (h a s).trans (ih (f a s))

/-! ### One comparator -/

/-- A comparator on the value itself with no further condition, armed on a rise (Table 3 of 05_thresholds_dosing). -/
structure Thr.Plain (t : Thr) : Prop where
  st : t.st = .armed
  src : t.src = 0
  sreq : t.sreq = false
  dskip : t.dskip = false
  ffire : t.ffire = false
  falling : t.falling = false

/-- What an armed comparator makes of a value with a number. -/
structure Thr.Takes (v : Int) (seq : BitVec 16) (h t : Thr) : Prop where
  fires : h.level.toInt ≤ v → t.st = .fired ∧ t.lastFire = seq
  stays : v < h.level.toInt - h.hyst.toNat → t.st = .armed
  level : t.level = h.level
  ctrl : t.ctrl = h.ctrl
  live : t.st ≠ .disarmed

/-- The condition on a rise (R121). -/
theorem condAfter_rising {t : Thr} {v : Int} (h : t.falling = false) :
    (t.level.toInt ≤ v → t.condAfter v = true) ∧ (v < t.level.toInt - t.hyst.toNat → t.condAfter v = false) := by
  unfold Thr.condAfter
  rw [h]
  refine ⟨fun hv => by simp [hv], fun hv => ?_⟩
  have below : ¬ t.level.toInt ≤ v := by omega
  simp [below, hv]

theorem judge_takes {s : State} {c : Ch} {x : Smp} {gap stable : Bool} {free : Int} {h : Thr} (hp : h.Plain) (hx : x.uns = false) :
    h.Takes x.value x.seq (s.judge c x gap stable free h).t := by
  obtain ⟨above, below⟩ := condAfter_rising (v := x.value) hp.falling
  unfold State.judge
  extract_lets t1 ff decides sv info t2
  have noFlt : ff = false := by simp [ff, show t1.ffire = false from hp.ffire]
  have judges : decides = true := by
    simp [decides, hx, show t1.sreq = false from hp.sreq, show t1.dskip = false from hp.dskip]
  have value : sv = some x.value := by simp [sv, State.source, show t1.src = 0 from hp.src]
  have cond : t2.condAfter x.value = h.condAfter x.value := rfl
  have armed : t2.st = .armed := hp.st
  simp only [noFlt, judges, value, cond, armed, Bool.false_eq_true, if_false, Bool.not_true]
  cases fires : h.condAfter x.value with
  | true =>
    simp only [beq_self_eq_true, Bool.and_self, if_true]
    refine ⟨fun _ => ⟨rfl, rfl⟩, fun v => ?_, rfl, rfl, nofun⟩
    rw [below v] at fires
    cases fires
  | false =>
    simp only [show (ThrState.armed == .fired) = false from rfl, Bool.and_false, Bool.false_and, Bool.false_eq_true, if_false]
    refine ⟨fun v => ?_, fun _ => rfl, rfl, rfl, nofun⟩
    rw [above v] at fires
    cases fires

/-- The comparators of a channel take a sample (R117). -/
theorem thrSample_takes (c : Ch) (x : Smp) (gap : Bool) (s : State) (hx : x.uns = false) :
    let t := thrSample c x gap s
    (t.ch c).mode = (s.ch c).mode ∧ (t.ch c).filt = (s.ch c).filt ∧ (∀ d : Ch, d ≠ c → t.ch d = s.ch d) ∧
      ∀ k : Fin 4, (s.ch c).thr[k].Plain → (s.ch c).thr[k].Takes x.value x.seq (t.ch c).thr[k] := by
  unfold thrSample
  extract_lets stable d free js u t
  have own : u.ch c = { s.ch c with thr := js.map Judged.t } := State.setCh_ch_self ..
  have arms : ArmsOnly c u t := overAll_arms (fun k v => by
    split
    · exact fire_arms ..
    · exact .refl c v) _ u
  refine ⟨arms.mode.trans (by rw [own]), arms.filt.trans (by rw [own]),
    fun e he => (arms.others e he).trans (State.setCh_ch_ne d.2 c _ e he), fun k plain => ?_⟩
  have takes := judge_takes (s := s) (c := c) (gap := gap) (stable := stable) (free := free) plain hx
  have judged : (u.ch c).thr[k] = (s.judge c x gap stable free (s.ch c).thr[k]).t := by
    rw [own]
    simp [js]
  rw [arms.thr k (by rw [judged]; exact takes.live), judged]
  exact takes

/-! ### A sample -/

/-- The stamp of a sample is its Holm's, whatever notices wait there. -/
theorem sampleStamp_congr {s t : State} {b : Bank} {x : SampleIn} (h : (t.holm b).besidesNotices = (s.holm b).besidesNotices) :
    t.sampleStamp b x = s.sampleStamp b x := by
  have noBeacon : (t.holm b).noBeacon = (s.holm b).noBeacon := (congrArg Holm.noBeacon h :)
  have slave : (t.holm b).slave = (s.holm b).slave := (congrArg Holm.slave h :)
  simp only [State.sampleStamp, noBeacon, slave]

/-- A filter chain whose sample has been numbered and stamped (R106, R107). -/
structure Filt.Counted (f g : Filt) (stamp : Nat) : Prop where
  seq : g.seq = f.seq + 1
  gap : g.gap = false
  lastTs : g.lastTs = stamp
  lastSeq : g.lastSeq = f.seq

/-- A computed sample of which nothing is suppressed, with its sense line whole. -/
theorem sampleDone_spec {c : Ch} {x : SampleIn} {y : Int} {ovr gap : Bool} {s : State} (hb : SampleIn.senseBad x = false)
    (hs : (s.ch c).filt.supp = 0) :
    let t := sampleDone c x y ovr gap s
    (t.ch c).mode = (s.ch c).mode ∧ (s.ch c).filt.Counted (t.ch c).filt (s.sampleStamp (bankOf c) x) ∧
      (∀ d : Ch, d ≠ c → t.ch d = s.ch d) ∧
      ∀ k : Fin 4, (s.ch c).thr[k].Plain →
        (s.ch c).thr[k].Takes (outWord s.sys.freeCtr y).1 (s.ch c).filt.seq (t.ch c).thr[k] := by
  unfold sampleDone
  extract_lets b broken w s1 value s2 s3 f s4 ts p settled s5 s6 s7 t
  have whole : broken = false := by simp [broken, hb]
  have word : value = w.1 := by simp [value, whole]
  obtain ⟨class3, holm3⟩ := classSample_beside c value s2
  have beside3 : Beside c s s3 :=
    ((Beside.of_chans (s := s) (t := s1) rfl c).trans (.setCh c (fun _ => by rfl) s1)).trans class3
  have step4 : RecordsOnly s3 s4 := by
    simp only [s4]
    split
    · exact noteStep_records ..
    · exact .refl s3
  have beside4 : Beside c s s4 := beside3.trans (.of_chans step4.chans c)
  obtain ⟨own, others⟩ := beside4
  have mode4 : (s4.ch c).mode = (s.ch c).mode := (congrArg Prod.fst own :)
  have filt4 : (s4.ch c).filt = (s.ch c).filt := (congrArg (·.2.1) own :)
  have thr4 : (s4.ch c).thr = (s.ch c).thr := (congrArg (·.2.2) own :)
  have filt3 : f = (s.ch c).filt := (congrArg (·.2.1) beside3.own :)
  have stamp : ts = s.sampleStamp b x := sampleStamp_congr (by rw [State.holm, step4.holms]; exact holm3 b)
  have chans6 : s6.chans = s5.chans := by
    simp only [s6]
    split
    · exact (needTime_records ..).chans.trans (settleEvent_leaves ..)
    · rfl
  have chans7 : s7.chans = s6.chans := by
    simp only [s7]
    split
    · exact (needTime_records ..).chans
    · rfl
  have rest : Beside c s5 (stabSample c p gap s7) :=
    (Beside.of_chans (chans7.trans chans6) c).trans (stabSample_beside c p gap s7)
  have own5 : s5.ch c = _ := State.setCh_ch_self ..
  obtain ⟨mode, filt, apart, takes⟩ := thrSample_takes c p gap (stabSample c p gap s7) (by simp [p, filt3, hs])
  have same (d : Ch) : t.ch d = (thrSample c p gap (stabSample c p gap s7)).ch d := by simp only [State.ch, t, streamSample_chans]
  have modeU : ((stabSample c p gap s7).ch c).mode = (s5.ch c).mode := (congrArg Prod.fst rest.own :)
  have filtU : ((stabSample c p gap s7).ch c).filt = (s5.ch c).filt := (congrArg (·.2.1) rest.own :)
  have thrU : ((stabSample c p gap s7).ch c).thr = (s5.ch c).thr := (congrArg (·.2.2) rest.own :)
  refine ⟨?_, ?_, fun d hd => ?_, fun k plain => ?_⟩
  · rw [same, mode, modeU, own5, ← mode4]
  · rw [same, filt, filtU, own5, ← filt4]
    exact ⟨rfl, rfl, stamp, rfl⟩
  · rw [same, apart d hd, rest.others d hd, State.setCh_ch_ne _ _ _ _ hd, others d hd]
  · have thr5 : (s5.ch c).thr = (s.ch c).thr := by rw [own5, ← thr4]
    have taken := takes k
    rw [thrU, thr5, show p.value = w.1 from word, show p.seq = f.seq from rfl, filt3] at taken
    rw [same]
    exact taken plain

theorem sampleNow_none {c : Ch} {x : SampleIn} {s : State} (h : s.samples c = false) : sampleNow c x s = s := by simp [sampleNow, h]

/-- A channel's chain with what has taken effect before an instant, and then with the words of the instant run through it. -/
def State.fedBy (c : Ch) (x : SampleIn) (s : State) : State :=
  (s.setCh c (Chan.withFilt (·.absorb (s.sampleEnd x)))).setCh c
    (Chan.withFilt fun _ => (((s.ch c).filt.absorb (s.sampleEnd x)).run (s.ch c).front x.inputs).1)

theorem fedBy_only (c : Ch) (x : SampleIn) (s : State) : OnlyCh c
    ((s.ch c).withFilt fun f => ((f.absorb (s.sampleEnd x)).run (s.ch c).front x.inputs).1) s (s.fedBy c x) := by
  have only := OnlyCh.trans (.setCh c (Chan.withFilt (·.absorb (s.sampleEnd x))) s) (.setCh c
    (Chan.withFilt fun _ => (((s.ch c).filt.absorb (s.sampleEnd x)).run (s.ch c).front x.inputs).1) _)
  rw [State.setCh_ch_self] at only
  exact only

theorem sampleNow_computed {c : Ch} {x : SampleIn} {s : State} {y : Int} (hs : s.samples c = true) (hu : s.uncomputed c = false)
    (hy : (((s.ch c).filt.absorb (s.sampleEnd x)).run (s.ch c).front x.inputs).2.1 = some y) :
    ∃ ovr gap, sampleNow c x s = sampleDone c x y ovr gap (s.fedBy c x) := by
  unfold sampleNow
  rw [if_neg (by simp [hs])]
  extract_lets s1 r gap s2
  have own : s1.ch c = (s.ch c).withFilt (·.absorb (s.sampleEnd x)) := State.setCh_ch_self ..
  have computed : s1.uncomputed c = false := by
    simp only [State.uncomputed, own] at hu ⊢
    exact hu
  have ran : r = ((s.ch c).filt.absorb (s.sampleEnd x)).run (s.ch c).front x.inputs := by
    simp only [r, own]
    rfl
  rw [if_neg (by simp [computed])]
  refine ⟨r.2.2, gap, ?_⟩
  rw [← ran] at hy
  rw [hy, State.fedBy, ← ran]
  rfl

/-- A channel whose instant has passed uncomputed (R102, R106). -/
def Chan.skipped (t : Nat) (ch : Chan) : Chan :=
  { ch with filt := { ch.filt.absorb t with seq := ch.filt.seq + 1, gap := true } }

theorem sampleNow_uncomputed {c : Ch} {x : SampleIn} {s : State} (hs : s.samples c = true) (hu : s.uncomputed c = true) :
    OnlyCh c ((s.ch c).skipped (s.sampleEnd x)) s (sampleNow c x s) := by
  unfold sampleNow
  rw [if_neg (by simp [hs])]
  extract_lets s1
  have own : s1.ch c = (s.ch c).withFilt (·.absorb (s.sampleEnd x)) := State.setCh_ch_self ..
  have skips : s1.uncomputed c = true := by
    simp only [State.uncomputed, own] at hu ⊢
    exact hu
  rw [if_pos skips]
  have absorbs : OnlyCh c _ s s1 := .setCh c (Chan.withFilt (·.absorb (s.sampleEnd x))) s
  have numbers := OnlyCh.setCh c (Chan.withFilt fun f => { f with seq := f.seq + 1, gap := true }) s1
  rw [own] at numbers
  exact (absorbs.trans numbers).after (needTime_records ..).chans

/-- Chained arming (R125). -/
theorem chainedArming_pending {c : Ch} {k : Fin 4} {s : State} {due : Nat} (hp : (s.ch c).thr[k].st = .pending)
    (ht : (s.ch c).thr[k].timer = some due) : chainedArming c k s = if due ≤ s.sys.now then
      s.setCh c (fun ch => { ch with thr := ch.thr.set k.val { ch.thr[k] with st := .armed, timer := none } k.isLt })
    else s := by
  unfold chainedArming
  simp only [hp, ht]
  split
  · unfold State.setCh
    rfl
  · rfl

end Sys2Proof.Machine
end

section
/-! PROOFS. A fast-path action that turns a switch off (R35, R38, R126, R127), and what stays of it on the bus of its Holm. -/

namespace Sys2Proof.Machine

/-! ### The bus of a Holm -/

/-- An action that waits for a target. -/
def ActMsg.waitsFor (c : Ch) (m : ActMsg) : Bool := m.tgt == c && m.note.isNone

theorem takeAction_cons (c : Ch) (m : ActMsg) (l : List ActMsg) : takeAction c (m :: l) =
    if m.waitsFor c then if bankOf m.src = bankOf m.tgt then { m with note := some 0xFF } :: l else l
    else m :: takeAction c l := rfl

/-- What stands before the action that is taken stays. -/
theorem takeAction_append {c : Ch} {l r : List ActMsg} (h : ∀ m ∈ l, ¬m.waitsFor c = true) :
    takeAction c (l ++ r) = l ++ takeAction c r := by
  induction l with
  | nil => rfl
  | cons m l ih =>
    simp only [List.mem_cons, forall_eq_or_imp] at h
    rw [List.cons_append, takeAction_cons, if_neg h.1, ih h.2, List.cons_append]

/-- Actions that still wait stay on the bus. -/
theorem splitNotes_append {l r kept : List ActMsg} (h : ∀ m ∈ l, m.note = none) :
    splitNotes (l ++ r) kept = splitNotes r (kept ++ l) := by
  induction l generalizing kept with
  | nil => simp
  | cons m l ih =>
    simp only [List.mem_cons, forall_eq_or_imp] at h
    simp [splitNotes, h.1, ih h.2]

theorem splitNotes_waiting {l kept : List ActMsg} (h : ∀ m ∈ l, m.note = none) : splitNotes l kept = ([], kept ++ l) := by
  simpa [splitNotes] using splitNotes_append (r := []) (kept := kept) h

/-- A report that no earlier entry of its channel holds back leaves the bus. -/
theorem splitNotes_reported {m : ActMsg} {l r : List ActMsg} (hl : ∀ a ∈ l, a.note = none ∧ a.src ≠ m.src)
    (hr : ∀ a ∈ r, a.note = none) (hm : m.note.isSome = true) : (splitNotes (l ++ m :: r) []).2 = l ++ r := by
  have free : l.any (·.src == m.src) = false := by simpa using fun a ha => (hl a ha).2
  rw [splitNotes_append fun a ha => (hl a ha).1]
  simp [splitNotes, hm, free, splitNotes_waiting hr]

/-- The outcome of an action, entered in its report. -/
def ActMsg.outcome (outcome : Byte) (m : ActMsg) : ActMsg := if m.note == some 0xFF then { m with note := some outcome } else m

theorem map_outcome_waiting {outcome : Byte} {l : List ActMsg} (h : ∀ m ∈ l, m.note = none) : l.map (·.outcome outcome) = l := by
  refine (List.map_congr_left fun m hm => ?_).trans (List.map_id l)
  simp [ActMsg.outcome, h m hm]

/-- The bus behind an action whose comparator is of another Holm. -/
theorem takeAction_foreign {c : Ch} {g : ActMsg} {l : List ActMsg} (h : l.find? (ActMsg.waitsFor c) = some g)
    (hb : bankOf g.src ≠ bankOf g.tgt) : takeAction c l = l.eraseP (ActMsg.waitsFor c) := by
  obtain ⟨hg, before, after, rfl, waits⟩ := List.find?_eq_some_iff_append.mp h
  have other (m : ActMsg) (hm : m ∈ before) : ¬m.waitsFor c = true := by simpa using waits m hm
  rw [takeAction_append other, List.eraseP_append_right _ other, List.eraseP_cons_of_pos hg, takeAction_cons, if_pos hg, if_neg hb]

/-- The bus behind an action whose comparator is of its own Holm, once its report has gone. -/
theorem takeAction_reported {c : Ch} {g : ActMsg} {l : List ActMsg} (outcome : Byte)
    (h : l.find? (ActMsg.waitsFor c) = some g) (hb : bankOf g.src = bankOf g.tgt)
    (hl : ∀ a ∈ l, a.note = none ∧ (a.src = g.src → a.tgt = c)) :
    (splitNotes ((takeAction c l).map (·.outcome outcome)) []).2 = l.eraseP (ActMsg.waitsFor c) := by
  obtain ⟨hg, before, after, rfl, waits⟩ := List.find?_eq_some_iff_append.mp h
  have other (m : ActMsg) (hm : m ∈ before) : ¬m.waitsFor c = true := by simpa using waits m hm
  have first (a : ActMsg) (ha : a ∈ before) : a.note = none ∧ a.src ≠ g.src := by
    obtain ⟨note, tgt⟩ := hl a (List.mem_append_left _ ha)
    refine ⟨note, fun e => other a ha ?_⟩
    simp [ActMsg.waitsFor, note, tgt e]
  have rest (a : ActMsg) (ha : a ∈ after) : a.note = none := (hl a (by simp [ha])).1
  rw [takeAction_append other, List.eraseP_append_right _ other, List.eraseP_cons_of_pos hg, takeAction_cons, if_pos hg, if_pos hb,
    List.map_append, List.map_cons, map_outcome_waiting fun a ha => (first a ha).1, map_outcome_waiting rest]
  exact splitNotes_reported first rest rfl

/-! ### The target -/

/-- A lone switch in DO that nothing above level 4 governs and no change moves, without holds. -/
structure State.Idle (s : State) (c : Ch) : Prop where
  mode : (s.ch c).mode = .dout
  lone : (s.ch c).paired = false
  live : s.holmLive (bankOf c) = true
  unlocked : (s.ch c).locks.any = false
  burrow : s.burrowOn c = false
  l3 : (s.ch c).l3 = none
  acts : (s.ch c).acts = []
  moved : (s.ch c).moved = none
  changing : (s.ch c).changing = none

/-- A switch under a hold that level 5 has been written for. -/
def Chan.heldOff (h : ActHold) (ch : Chan) : Chan :=
  { ch with
    acts := [h]
    l5 := .off
    loop := { ch.loop with alarm := false, fallback := false } }

/-- An action is executed on its target (R38). -/
theorem State.Idle.govern_heldOff {s u : State} {c : Ch} {h : ActHold} (i : s.Idle c) (hk : h.kind = .off)
    (only : OnlyCh c ((s.ch c).heldOff h) s u) (hh : u.holms = s.holms) : u.govern c = (4, .off) := by
  have own := only.own
  have holm (b : Bank) : u.holm b = s.holm b := by simp only [State.holm, hh]
  have lead : u.lead c = c := lead_of_unpaired (by rw [own]; exact i.lone)
  have locked : u.locked c = false := by
    simp [State.locked, State.members, own, Chan.heldOff, i.lone, i.unlocked]
  have burrow : u.burrowOn c = false := by
    have before := i.burrow
    simp only [burrowOn_eq, own, lead, lead_of_unpaired i.lone, holm] at before ⊢
    exact before
  have act : u.actFor c = some .off := by
    simp [actFor_eq, lead, own, Chan.action, Chan.heldOff, actDemand, hk, Chan.parked, Chan.inChange, Chan.modeMoving, i.mode,
      i.moved, i.changing]
  have live : u.holmLive (bankOf c) = true := by
    simpa only [State.holmLive, holm] using i.live
  unfold State.govern
  simp [own, live, lead, locked, burrow, act, Chan.heldOff, i.mode, Chan.inBreak, i.changing, i.l3, Mode.isOutput]

/-- Level 5 and the holds of a channel. -/
def Chan.demands (ch : Chan) : Demand × List ActHold := (ch.l5, ch.acts)

theorem endTrim_demands (c : Ch) (s : State) (d : Ch) : ((endTrim c s).ch d).demands = (s.ch d).demands := by
  unfold endTrim
  split
  · rfl
  · extract_lets s1 isT gone
    have ended : (s1.ch d).demands = (s.ch d).demands := setCh_keeps Chan.demands c _ s d fun _ => rfl
    refine (overAll_keeps (fun u => (u.ch d).demands) (fun h u => ?_) _).trans ended
    split
    · rw [finish_ch]
    · rfl

/-- A hold that level 5 has been written for is not written again (R38). -/
theorem evalOne_demands {c : Ch} {s : State} (h : ∀ a ∈ (s.ch (s.lead c)).acts, a.written = true) (d : Ch) :
    ((evalOne c s).ch d).demands = (s.ch d).demands := by
  unfold evalOne
  extract_lets ch g now on ramp moved from_ s1 s2 s3
  have h1 (e : Ch) : (s1.ch e).demands = (s.ch e).demands := setCh_keeps Chan.demands c _ s e fun _ => rfl
  have h2 (e : Ch) : (s2.ch e).demands = (s1.ch e).demands := by
    simp only [s2]
    split <;> rfl
  have h3 (e : Ch) : (s3.ch e).demands = (s2.ch e).demands := by
    simp only [s3]
    split
    · exact endTrim_demands c s2 e
    · rfl
  have out : OutputsOnly s s3 := by
    have o1 : OutputsOnly s s1 := setCh_outputs c _ s fun x => by dsimp only [Chan.settings]; split <;> rfl
    have o2 : OutputsOnly s s2 := ite_outputs (o1.trans (noteEdge_outputs ..)) o1
    exact ite_outputs (o2.trans (endTrim_outputs ..)) o2
  have same (e : Ch) : (s3.ch e).demands = (s.ch e).demands := (h3 e).trans ((h2 e).trans (h1 e))
  rw [if_neg, same]
  have acts : (s3.ch (s.lead c)).acts = (s.ch (s.lead c)).acts := congrArg Prod.snd (same (s.lead c))
  rw [out.lead, acts]
  intro k
  simp only [Bool.and_eq_true, Option.any_eq_true] at k
  obtain ⟨-, a, found, unwritten⟩ := k
  simp [h a (List.mem_of_find?_eq_some found)] at unwritten

/-! ### The action -/

/-- What an off action makes of an idle switch: its hold, written to level 5. -/
def ActMsg.hold (g : ActMsg) : ActHold := ActHold.mk g.src g.idx .off g.ts true

/-- The bus of a Holm is nothing that level 2 depends on. -/
theorem setBus_burrow (b : Bank) (f : List ActMsg → List ActMsg) (s : State) (e : Bank) :
    SameBurrow (s.holm e) ((s.setHolm b fun h => { h with bus := f h.bus }).holm e) := by
  by_cases k : e = b
  · subst k
    rw [State.setHolm_holm_self]
    exact ⟨rfl, rfl, rfl, rfl, rfl⟩
  · rw [State.setHolm_holm_ne _ _ _ _ k]
    exact ⟨rfl, rfl, rfl, rfl, rfl⟩

/-- A target is idle whatever waits on a bus. -/
theorem State.Idle.setBus {s : State} {c : Ch} (i : s.Idle c) (b : Bank) (f : List ActMsg → List ActMsg) :
    (s.setHolm b (fun h => { h with bus := f h.bus })).Idle c where
  mode := i.mode
  lone := i.lone
  live := by
    have live := i.live
    simp only [State.holmLive, (setBus_burrow b f s (bankOf c)).restarted] at live ⊢
    exact live
  unlocked := i.unlocked
  burrow := by
    have k := setBus_burrow b f s (bankOf c)
    have burrow := i.burrow
    simp only [burrowOn_eq, k.up, k.burEn, k.mapHere] at burrow ⊢
    exact burrow
  l3 := i.l3
  acts := i.acts
  moved := i.moved
  changing := i.changing

/-- A switch comes to stand at level 4, off, under a hold, and every other channel is as it was. -/
structure TakesHold (c : Ch) (h : ActHold) (s t : State) : Prop where
  level : (t.ch c).level = 4
  out : (t.ch c).out = .off
  l5 : (t.ch c).l5 = .off
  conducting : (t.ch c).conducting = false
  acts : (t.ch c).acts = [h]
  others : ∀ d : Ch, d ≠ c → t.ch d = s.ch d

theorem TakesHold.after {c : Ch} {h : ActHold} {s t u : State} (k : TakesHold c h s t) (hu : u.chans = t.chans) : TakesHold c h s u := by
  have same (d : Ch) : u.ch d = t.ch d := by simp only [State.ch, hu]
  obtain ⟨level, out, l5, conducting, acts, others⟩ := k
  rw [← same] at level out l5 conducting acts
  exact ⟨level, out, l5, conducting, acts, fun d hd => (same d).trans (others d hd)⟩

/-- A turn-off without clamp energy locks nothing (R191 to R193). -/
theorem TakesHold.clampAfter {c : Ch} {h : ActHold} {s before u : State} (k : TakesHold c h s u) :
    TakesHold c h s (clampAfter c ⟨[]⟩ before u) ∧ (Machine.clampAfter c ⟨[]⟩ before u).holms = u.holms := by
  unfold Machine.clampAfter
  split
  · unfold clampPulse
    extract_lets e s1 full
    have nothing : e = 0 := by simp [e, clampEnergy]
    simp only [nothing, gt_iff_lt, Nat.lt_irrefl, decide_false, Bool.false_and, Bool.and_false, Bool.false_eq_true, if_false]
    refine ⟨?_, rfl⟩
    refine ⟨?_, ?_, ?_, ?_, ?_, fun d hd => (State.setCh_ch_ne _ _ _ _ hd).trans (k.others d hd)⟩ <;>
      simp only [s1, State.setCh_ch_self]
    exacts [k.level, k.out, k.l5, k.conducting, k.acts]
  · exact ⟨k, rfl⟩

/-- The evaluation of a switch under a hold that level 5 has been written for. -/
theorem evalOne_heldOff {s u : State} {c : Ch} {h : ActHold} (i : s.Idle c) (hk : h.kind = .off) (hw : h.written = true)
    (only : OnlyCh c ((s.ch c).heldOff h) s u) (hh : u.holms = s.holms) : TakesHold c h s (evalOne c u) := by
  have lone : (u.ch c).paired = false := by rw [only.own]; exact i.lone
  have mode : (u.ch c).mode = .dout := by rw [only.own]; exact i.mode
  have governs := i.govern_heldOff hk only hh
  have stands : (evalOne c u).standing c = (4, .off) := by rw [evalOne_standing, if_pos rfl, governs]
  have demands : ((evalOne c u).ch c).demands = (u.ch c).demands := by
    refine evalOne_demands (fun a ha => ?_) c
    rw [lead_of_unpaired lone, only.own] at ha
    rw [List.mem_singleton.mp ha, hw]
  rw [only.own] at demands
  exact ⟨(congrArg Prod.fst stands :), (congrArg Prod.snd stands :), (congrArg Prod.fst demands :),
    (evalOne_conducting mode).trans (by rw [governs]; rfl), (congrArg Prod.snd demands :),
    fun d hd => (evalOne_others lone hd).trans (only.others d hd)⟩

/-- A channel with an action's hold in place of what its comparator held before. -/
def Chan.holding (h : ActHold) (keep : ActHold → Bool) (ch : Chan) : Chan := { ch with acts := insertHold h (ch.acts.filter keep) }

/-- A channel without the NE 43 alarm or fallback that its loop showed (R38). -/
def Chan.unalarmed (ch : Chan) : Chan := { ch with loop := { ch.loop with alarm := false, fallback := false } }

/-- A channel takes the hold of an off action, and level 5 is written for it (R38, R126). -/
def State.withHold (s : State) (c : Ch) (h : ActHold) (keep : ActHold → Bool) : State :=
  (setL5 c .off (s.setCh c (Chan.holding h keep))).setCh c Chan.unalarmed

theorem withHold_only {s : State} {c : Ch} {h : ActHold} {keep : ActHold → Bool} (i : s.Idle c) :
    OnlyCh c ((s.ch c).heldOff h) s (s.withHold c h keep) ∧ (s.withHold c h keep).holms = s.holms := by
  have own : (s.setCh c (Chan.holding h keep)).ch c = (s.ch c).holding h keep := State.setCh_ch_self ..
  have l5 : ((s.ch c).holding h keep).putL5 .off = .off := putL5_dout i.mode _
  rw [State.withHold, setL5_lone (by rw [own]; exact i.lone)]
  refine ⟨⟨?_, fun e he => ?_⟩, rfl⟩
  · rw [State.setCh_ch_self, State.setCh_ch_self, own, l5]
    simp [Chan.unalarmed, Chan.holding, Chan.heldOff, i.acts, insertHold]
  · rw [State.setCh_ch_ne _ _ _ _ he, State.setCh_ch_ne _ _ _ _ he, State.setCh_ch_ne _ _ _ _ he]

/-- What an action leaves on the bus of a target's Holm: its own report goes with its outcome (R129). -/
def State.busAfter (s : State) (g : ActMsg) (o : Byte) : List ActMsg :=
  if bankOf g.src = bankOf g.tgt then (splitNotes ((s.holm (bankOf g.tgt)).bus.map (·.outcome o)) []).2 else (s.holm (bankOf g.tgt)).bus

/-- An off action on an idle switch (R38, R126). -/
theorem applyAction_off {g : ActMsg} {s : State} (i : s.Idle g.tgt) (hk : g.kind = .off) (hl : g.live = true) :
    TakesHold g.tgt g.hold s (applyAction g ⟨[]⟩ s) ∧
      ∃ o, ((applyAction g ⟨[]⟩ s).holm (bankOf g.tgt)).bus = s.busAfter g o := by
  have parked : (s.ch g.tgt).parked = false := by simp [Chan.parked, i.mode]
  have demand : actDemand (s.ch g.tgt) .off = some .off := by
    simp [actDemand, parked, Chan.inChange, Chan.modeMoving, i.moved, i.changing, i.mode]
  unfold applyAction
  extract_lets t d before s1 s2 s3 outcome s4
  have lead : t = g.tgt := lead_of_unpaired i.lone
  have executes : d = some .off := by simp [d, lead, i.mode, Mode.isOutput, hk, demand]
  have writes : s2 = (s.withHold g.tgt g.hold fun a => !(a.src == g.src && a.idx == g.idx)) := by
    simp only [s2, s1, executes, lead, hl, parked, hk]
    rfl
  obtain ⟨only, holms⟩ := withHold_only (h := g.hold) (keep := fun a => !(a.src == g.src && a.idx == g.idx)) i
  rw [← writes] at only holms
  have evaluates : s3 = evalOne g.tgt s2 := by
    simp only [s3, lead]
    exact evalOut_of_unpaired (by rw [only.own]; exact i.lone)
  have held3 : TakesHold g.tgt g.hold s s3 := evaluates ▸ evalOne_heldOff i rfl rfl only holms
  have bus3 (b : Bank) : (s3.holm b).bus = (s.holm b).bus := by
    have evaluated : ((evalOne g.tgt s2).holm b).bus = (s2.holm b).bus :=
      (congrArg Holm.bus ((evalOne_outputs g.tgt s2).holm b) :)
    rw [evaluates, evaluated, State.holm, holms]
    rfl
  have quiet : TakesHold g.tgt g.hold s s4 ∧ s4.holms = s3.holms := by
    simp only [s4, lead]
    exact held3.clampAfter
  obtain ⟨held4, holms4⟩ := quiet
  have bus4 (b : Bank) : (s4.holm b).bus = (s.holm b).bus := by rw [State.holm, holms4]; exact bus3 b
  unfold State.busAfter
  by_cases near : bankOf g.src = bankOf g.tgt
  · simp only [if_pos near]
    obtain ⟨chans, bus⟩ := flushNotes_leaves (bankOf g.src) (s4.setHolm (bankOf g.src) (fun h => { h with
      bus := h.bus.map (·.outcome outcome) }))
    refine ⟨held4.after chans, outcome, ?_⟩
    rw [State.setHolm_holm_self, near] at bus
    rw [← bus4, ← bus, ← near]
    rfl
  · simp only [if_neg near]
    exact ⟨held4, 0, bus4 _⟩

theorem actionNow_waiting {c : Ch} {m : ClampMeas} {s : State} {g : ActMsg}
    (h : (s.holm (bankOf c)).bus.find? (ActMsg.waitsFor c) = some g) (hu : (s.holm (bankOf c)).up = true)
    (hr : (s.holm (bankOf c)).restarted = false) : g.tgt = c ∧
      actionNow c m s = applyAction g m (s.setHolm (bankOf c) (fun h => { h with bus := takeAction c h.bus })) := by
  have waits := List.find?_some h
  simp only [ActMsg.waitsFor, Bool.and_eq_true, beq_iff_eq] at waits
  refine ⟨waits.1, ?_⟩
  unfold actionNow
  change (match (s.holm (bankOf c)).bus.find? (ActMsg.waitsFor c) with | some g => _ | none => _) = _
  rw [h]
  exact if_pos (by simp [State.holmLive, hu, hr])

/-- An off action that waits for an idle switch (R127). -/
theorem actionNow_off {c : Ch} {s : State} {g : ActMsg} (h : (s.holm (bankOf c)).bus.find? (ActMsg.waitsFor c) = some g)
    (hu : (s.holm (bankOf c)).up = true) (i : s.Idle c) (hk : g.kind = .off) (hl : g.live = true) :
    TakesHold c g.hold s (actionNow c ⟨[]⟩ s) ∧
      ((∀ a ∈ (s.holm (bankOf c)).bus, a.note = none ∧ (a.src = g.src → a.tgt = c)) →
        ((actionNow c ⟨[]⟩ s).holm (bankOf c)).bus = (s.holm (bankOf c)).bus.eraseP (ActMsg.waitsFor c)) := by
  obtain ⟨rfl, applies⟩ := actionNow_waiting (m := ⟨[]⟩) h hu (by simpa [State.holmLive] using i.live)
  obtain ⟨held, o, bus⟩ := applyAction_off (i.setBus (bankOf g.tgt) (takeAction g.tgt)) hk hl
  rw [← applies] at held bus
  refine ⟨⟨held.level, held.out, held.l5, held.conducting, held.acts, held.others⟩, fun waiting => bus.trans ?_⟩
  unfold State.busAfter
  rw [State.setHolm_holm_self]
  split
  · next near => exact takeAction_reported o h near waiting
  · next far => exact takeAction_foreign h far

/-! ### The statement -/

/-- Settles O46: what goes with a sample writes neither the chain nor the comparators, a firing arms only comparators that are DISARMED,
and the hold of an action governs an idle switch at level 4. -/
theorem samplesFeedComparatorsWhoseActionsTakeLevelFour : Obligations.SamplesFeedComparatorsWhoseActionsTakeLevelFour := by
  intro s c
  refine ⟨fun x y samples computed whole word passes => ?_, fun x samples uncomputed => ?_,
    fun x none => congrArg Host.Outcome.next (sampleNow_none none),
    fun g waits up started mode lone unlocked burrow l3 acts moved changing kind live => ?_,
    fun k due pending timer => ⟨fun runs => ?_, fun early => ?_⟩⟩
  · have only := fedBy_only c x s
    obtain ⟨ovr, gap, done⟩ := sampleNow_computed samples computed word
    obtain ⟨kept, counted, others, takes⟩ := sampleDone_spec (c := c) (y := y) (ovr := ovr) (gap := gap)
      (s := s.fedBy c x) whole (by rw [only.own]; exact passes)
    rw [← done] at kept counted others takes
    rw [only.own] at kept counted takes
    refine ⟨_, rfl, counted.seq, counted.gap, counted.lastTs, counted.lastSeq, kept, fun d hd => (others d hd).trans (only.others d hd),
      fun k => ?_⟩
    intro h st src sreq dskip ffire falling
    obtain ⟨fires, stays, level, ctrl, -⟩ := takes k ⟨st, src, sreq, dskip, ffire, falling⟩
    exact ⟨fires, stays, level, ctrl⟩
  · have only := sampleNow_uncomputed (x := x) samples uncomputed
    refine ⟨_, rfl, ?_, ?_, ?_, ?_, ?_, only.others⟩ <;> rw [only.own] <;> rfl
  · obtain ⟨held, bus⟩ := actionNow_off waits up ⟨mode, lone, by simp [State.holmLive, started], unlocked, burrow, l3, acts, moved,
      changing⟩ kind live
    exact ⟨_, rfl, held.level, held.out, held.l5, held.conducting, held.acts, bus, held.others⟩
  · exact congrArg Host.Outcome.next ((chainedArming_pending pending timer).trans (if_pos runs))
  · exact congrArg Host.Outcome.next ((chainedArming_pending pending timer).trans (if_neg (Nat.not_le.mpr early)))

end Sys2Proof.Machine
end

section
/-! PROOFS. The THR family (R119, R120, R124, R130, R470): what new settings make of a comparator, what THR.GET reports, what moves the
masked comparators of a channel and what the ends of their holds leave. -/

namespace Sys2Proof.Machine

/-! ### New settings of a comparator -/

/-- A comparator with new settings, whose rate window stands where SRC and RWIN are the same (R120). -/
def Thr.renewed (old n : Thr) : Thr := { n with window := if n.src = old.src ∧ n.rwin = old.rwin then old.window else [] }

/-- A channel one of whose comparators has new settings. -/
def Chan.withThr (k : Fin 4) (n : Thr) (ch : Chan) : Chan := { ch with thr := ch.thr.set k.val (ch.thr[k].renewed n) k.isLt }

theorem setThr_ch (c : Ch) (k : Fin 4) (n : Thr) (s : State) : (setThr c k n s).ch c = (s.ch c).withThr k n :=
  State.setCh_ch_self s c (Chan.withThr k n)

theorem withThr_self (k : Fin 4) (n : Thr) (ch : Chan) : (ch.withThr k n).thr[k] = ch.thr[k].renewed n :=
  Vector.getElem_set_self k.isLt

theorem withThr_other {j k : Fin 4} (n : Thr) (ch : Chan) (h : j ≠ k) : (ch.withThr k n).thr[j] = ch.thr[j] :=
  Vector.getElem_set_ne k.isLt j.isLt (fun e => h (Fin.ext e.symm))

/-- New settings of a comparator are an update of its channel's comparators alone. -/
theorem setThr_writes_thr (c : Ch) (k : Fin 4) (n : Thr) (s : State) :
    setThr c k n s = s.setCh c (fun ch => { ch with thr := ((s.ch c).withThr k n).thr }) := rfl

/-- THR.SET passes its checks (R119). -/
theorem thrSet_ok {r : Req} {c : Ch} {s : State} {old n : Thr} (ho : (s.ch c).thr[thrIdx r.payload] = old)
    (hn : thrOf r.payload old = n) (legal : s.isLegal c = false) (mode : (s.ch c).mode.usesFilter = true)
    (length : r.payload.length = 24) (head : rsvZero (byteAt r.payload 0) 0xFC#8 = true)
    (ctrl : rsvZero n.ctrl 0xF00301FF#32 = true) (tail : zeroBytes r.payload 22 2 = true)
    (range : thrRange (thrIdx r.payload).val n = true)
    (target : n.act = 0 ∨ (s.owns r.port (chObj n.tgt) = true ∧ s.oddMember n.tgt = false))
    (fired : old.st = .fired → n.act = old.act ∧ n.tgt = old.tgt) :
    thrSet r c s = ok (setThr c (thrIdx r.payload) n s) := by
  have port : s.legalPortOk r.port c = true := by simp [State.legalPortOk, legal]
  have owner : (n.act == 0 || s.owns r.port (chObj n.tgt)) = true := by
    rcases target with none | ⟨owned, -⟩
    · simp [none]
    · simp [owned]
  have single : (n.act == 0 || !s.oddMember n.tgt) = true := by
    rcases target with none | ⟨-, even⟩
    · simp [none]
    · simp [even]
  have keeps : (old.st == .fired && (n.act != old.act || n.tgt != old.tgt)) = false := by
    by_cases h : old.st = .fired
    · obtain ⟨act, tgt⟩ := fired h
      simp [act, tgt]
    · simp [h]
  unfold thrSet
  simp only [ho, hn]
  simp [checked, firstFail, port, mode, length, head, ctrl, tail, range, owner, single, keeps]

/-! ### What THR.GET reports -/

/-- The 112 bytes of THR.GET (R470). -/
def Chan.thrReport (ch : Chan) : List Byte := (List.finRange 4).flatMap (fun k => thrBytes k ch.thr[k])

theorem thrReport_length (ch : Chan) : ch.thrReport.length = 112 := rfl

/-- The block of a comparator names it in its first byte and its state in byte 24. -/
theorem thrReport_block (ch : Chan) (k : Fin 4) : ch.thrReport.getD (28 * k.val) 0 = BitVec.ofNat 8 k.val ∧
    ch.thrReport.getD (28 * k.val + 24) 0 = BitVec.ofNat 8 ch.thr[k].st.code :=
  match k with
  | 0 => ⟨rfl, rfl⟩
  | 1 => ⟨rfl, rfl⟩
  | 2 => ⟨rfl, rfl⟩
  | 3 => ⟨rfl, rfl⟩

theorem thrGet_ok {r : Req} {c : Ch} {s : State} (mode : (s.ch c).mode.usesFilter = true) (payload : r.payload = []) :
    thrGet r c s = okData (s.ch c).thrReport s := by
  simp [thrGet, checked, firstFail, mode, payload, Chan.thrReport]

/-! ### The stability detector -/

/-- A channel whose detector has new settings and an empty window (R130). -/
def Chan.withStab (d : List Byte) (ch : Chan) : Chan :=
  { ch with stab := Stab.mk (word16 d 0) (word32 d 4) (word32 d 8) [] false }

/-- THR.STAB writes its channel's detector, and an event where that was STABLE (R131). -/
theorem setStab_cases (c : Ch) (d : List Byte) (s : State) : setStab c d s = s.setCh c (Chan.withStab d) ∨
    setStab c d s = settleEvent c 3 (s.ch c).filt.lastSeq (s.ch c).filt.lastTs (s.setCh c (Chan.withStab d)) := by
  unfold setStab
  dsimp only
  split
  · exact .inr rfl
  · exact .inl rfl

theorem setStab_only (c : Ch) (d : List Byte) (s : State) : OnlyCh c ((s.ch c).withStab d) s (setStab c d s) := by
  have set : OnlyCh c ((s.ch c).withStab d) s (s.setCh c (Chan.withStab d)) := .setCh c (Chan.withStab d) s
  rcases setStab_cases c d s with e | e <;> rw [e]
  · exact set
  · exact set.after (settleEvent_leaves ..)

theorem setStab_calm (c : Ch) (d : List Byte) (s : State) : calm.rel s (setStab c d s) := by
  rcases setStab_cases c d s with e | e <;> rw [e]
  · simp
  · simp [settleEvent]

theorem setStab_now (c : Ch) (d : List Byte) (s : State) : (setStab c d s).sys.now = s.sys.now := by
  rcases setStab_cases c d s with e | e <;> rw [e]
  · rfl
  · exact now_of_anchor (by simp)

theorem thrStab_ok {r : Req} {c : Ch} {s : State} (legal : s.isLegal c = false) (mode : (s.ch c).mode.usesFilter = true)
    (length : r.payload.length = 12) (rsv : zeroBytes r.payload 2 2 = true) (one : leAt r.payload 0 2 ≠ 1)
    (most : leAt r.payload 0 2 ≤ 1024) (bands : leAt r.payload 4 4 ≤ leAt r.payload 8 4) :
    thrStab r c s = ok (setStab c r.payload s) := by
  have port : s.legalPortOk r.port c = true := by simp [State.legalPortOk, legal]
  have window : leAt r.payload 0 2 = 0 ∨ 2 ≤ leAt r.payload 0 2 := by omega
  simp [thrStab, checked, firstFail, port, mode, length, rsv, most, bands, window]

/-! ### Masked comparators -/

/-- A channel whose masked comparators have been moved to a state, with no timer. -/
def Chan.moveThr (x : ThrState) (k : Fin 4 → Bool) (ch : Chan) : Chan :=
  { ch with thr := Vector.ofFn (fun i => if k i then { ch.thr[i] with st := x, timer := none } else ch.thr[i]) }

theorem moveThr_getElem (x : ThrState) (k : Fin 4 → Bool) (ch : Chan) (i : Fin 4) :
    (ch.moveThr x k).thr[i] = if k i then { ch.thr[i] with st := x, timer := none } else ch.thr[i] :=
  Vector.getElem_ofFn i.isLt

/-- The end of holds changes no channel but by what evaluations decide (R124). -/
theorem dropHolds_settings (c : Ch) (k : Fin 4 → Bool) (s : State) (d : Ch) :
    ((dropHolds c k s).ch d).settings = (s.ch d).settings := by
  unfold dropHolds
  extract_lets f t
  have filtered : (t.ch d).settings = (s.ch d).settings := by simp [t, State.ch, Chan.settings]
  exact ((overAll_outputs evalOne_outputs t).chan d).trans filtered

/-- The masked comparators are moved, and the holds of those that leave their state end. -/
theorem arm_eq (c : Ch) (k : Fin 4 → Bool) (s : State) : arm c k s =
    dropHolds c (fun i => k i && (s.ch c).thr[i].st != .armed) (s.setCh c (Chan.moveThr .armed k)) := rfl

theorem disarm_eq (c : Ch) (k : Fin 4 → Bool) (s : State) :
    disarm c k s = dropHolds c k (s.setCh c (Chan.moveThr .disarmed k)) := rfl

theorem arm_settings (c : Ch) (k : Fin 4 → Bool) (s : State) :
    ((arm c k s).ch c).settings = ((s.ch c).moveThr .armed k).settings := by
  rw [arm_eq, dropHolds_settings, State.setCh_ch_self]

theorem disarm_settings (c : Ch) (k : Fin 4 → Bool) (s : State) :
    ((disarm c k s).ch c).settings = ((s.ch c).moveThr .disarmed k).settings := by
  rw [disarm_eq, dropHolds_settings, State.setCh_ch_self]

theorem mask_rsvZero {m : Byte} (h : m &&& 0xF0 = 0) : rsvZero m 0xF0#8 = true := beq_iff_eq.mpr h

theorem thrArm_ok {r : Req} {c : Ch} {s : State} {m : Byte} (mode : (s.ch c).mode.usesFilter = true) (payload : r.payload = [m])
    (mask : m &&& 0xF0 = 0) : thrArm r c s = ok (arm c (fun i => bit m i.val) s) := by
  simp [thrArm, checked, firstFail, mode, payload, byteAt, mask_rsvZero mask]

theorem thrDisarm_ok {r : Req} {c : Ch} {s : State} {m : Byte} (mode : (s.ch c).mode.usesFilter = true) (payload : r.payload = [m])
    (mask : m &&& 0xF0 = 0) : thrDisarm r c s = ok (disarm c (fun i => bit m i.val) s) := by
  simp [thrDisarm, checked, firstFail, mode, payload, byteAt, mask_rsvZero mask]

/-- From one channel to another the masked comparators have moved to a state, without their timers, and neither a setting nor the
filter and bridge state has changed. -/
structure MovesThr (x : ThrState) (k : Fin 4 → Bool) (ch ch' : Chan) : Prop where
  st : ∀ i : Fin 4, ch'.thr[i].st = if k i then x else ch.thr[i].st
  timer : ∀ i : Fin 4, k i = true → ch'.thr[i].timer = none
  ctrl : ∀ i : Fin 4, ch'.thr[i].ctrl = ch.thr[i].ctrl
  level : ∀ i : Fin 4, ch'.thr[i].level = ch.thr[i].level
  filt : ch'.filt = ch.filt
  brg : ch'.brg = ch.brg

theorem movesThr_of_settings {x : ThrState} {k : Fin 4 → Bool} {ch ch' : Chan} (h : ch'.settings = (ch.moveThr x k).settings) :
    MovesThr x k ch ch' := by
  have thr : ch'.thr = (ch.moveThr x k).thr := (congrArg Chan.thr h :)
  refine ⟨fun i => ?_, fun i hi => ?_, fun i => ?_, fun i => ?_, (congrArg Chan.filt h :), (congrArg Chan.brg h :)⟩ <;>
    rw [thr, moveThr_getElem]
  · split <;> rfl
  · rw [if_pos hi]
  · split <;> rfl
  · split <;> rfl

/-! ### The statement -/

/-- What stands besides a completion holds every channel. -/
theorem Completed.ch {op : BitVec 16} {r : Req} {st : Byte} {data : List Byte} {delay : Nat} {s e t : State}
    (h : Completed op r st data delay s e t) (d : Ch) : t.ch d = e.ch d := (congrArg (·.ch d) h.2 :)

/-- A command that completes OK at once with the masked comparators moved (R124). -/
theorem runCh_movesThr {op : BitVec 16} {r : Req} {s u : State} {c : Ch} {body : Ch → State → Res}
    {x : ThrState} {k : Fin 4 → Bool} (ready : Ready op r s) (hc : chOf r.obj = some c) (hb : body c (s.running r) = ok u)
    (steady : calm.rel (s.running r) u) (now : u.anchor = (s.running r).anchor)
    (moved : (u.ch c).settings = ((s.ch c).moveThr x k).settings) :
    Completion.mk r op (r.tag == 0) stOK [] s.sys.now ∈ (runCh op r s body).completions ∧
      MovesThr x k (s.ch c) ((runCh op r s body).ch c) := by
  obtain ⟨done, chans⟩ := runCh_ok ready hc hb steady (now_of_anchor now)
  exact ⟨done, movesThr_of_settings ((congrArg Chan.settings (chans c)).trans moved)⟩

/-- Settles O22: THR.SET and THR.STAB write their channel alone, and the ends of holds that arming and disarming bring leave its
comparators and its chain. -/
theorem comparatorSettingsAndArming : Obligations.ComparatorSettingsAndArming := by
  intro r s c hc mode legal
  refine ⟨fun ready length head ctrl tail range => ?_, fun ready payload => ?_,
    fun ready length rsv one most bands => ?_, fun m mask payload => ⟨fun ready => ?_, fun ready => ?_⟩⟩
  · intro old new target fired
    have body : thrSet r c (s.running r) = ok (setThr c (thrIdx r.payload) new (s.running r)) :=
      thrSet_ok (s := s.running r) rfl rfl legal mode length head ctrl tail range target fired
    obtain ⟨t, step, done⟩ := completes_done (c := .thrSet r) (t := setThr c (thrIdx r.payload) new (s.running r)) ready rfl
      (by simp only [hc]; exact body) rfl rfl rfl
    have own : t.ch c = (s.ch c).withThr (thrIdx r.payload) new := (done.ch c).trans (setThr_ch ..)
    rw [setThr_writes_thr, running_ch, ← own] at done
    refine ⟨t, step, done, fun k other => by rw [own, withThr_other new _ other], ?_⟩
    rw [own, withThr_self]
    exact ⟨rfl, rfl, rfl, rfl, rfl, rfl, rfl, rfl, rfl⟩
  · have body : thrGet r c (s.running r) = okData (s.ch c).thrReport (s.running r) := thrGet_ok (s := s.running r) mode payload
    exact ⟨(s.ch c).thrReport, completes_done ready rfl (by simp only [hc]; exact body) rfl rfl rfl, thrReport_length _,
      thrReport_block _⟩
  · obtain ⟨done, chans⟩ := runCh_ok ready hc (thrStab_ok (s := s.running r) legal mode length rsv one most bands)
      (setStab_calm ..) (setStab_now ..)
    have only := setStab_only c r.payload (s.running r)
    refine ⟨_, rfl, done, ?_, ?_, ?_, fun d hd => (chans d).trans (only.others d hd)⟩ <;> rw [chans, only.own] <;> rfl
  · obtain ⟨done, moves⟩ := runCh_movesThr ready hc (thrArm_ok (s := s.running r) mode payload mask) (by simp [arm])
      (arm_anchor ..) (arm_settings ..)
    exact ⟨_, rfl, done, fun k => ⟨moves.st k, moves.ctrl k, moves.level k⟩, moves.filt, moves.brg⟩
  · obtain ⟨done, moves⟩ := runCh_movesThr ready hc (thrDisarm_ok (s := s.running r) mode payload mask)
      (calm.keeps (disarm_stays ..)) (disarm_anchor ..) (disarm_settings ..)
    exact ⟨_, rfl, done, fun k => ⟨moves.st k, moves.timer k, moves.ctrl k, moves.level k⟩, moves.filt, moves.brg⟩

end Sys2Proof.Machine
end

section
/-! PROOFS. The modem's link (R24, R150 to R157): what enters the receive buffer, how an attempt of a transaction ends, what each role
makes of a frame, and the statement on them. -/

namespace Sys2Proof.Machine

/-! ### Updates of a modem -/

def Chan.withMdm (f : Mdm → Mdm) (ch : Chan) : Chan := { ch with mdm := f ch.mdm }

theorem setMdm_only (c : Ch) (f : Mdm → Mdm) (s : State) : OnlyCh c ((s.ch c).withMdm f) s (setMdm c f s) := .setCh c (Chan.withMdm f) s

theorem setCh_setCh (c : Ch) (f g : Chan → Chan) (s : State) : (s.setCh c f).setCh c g = s.setCh c (fun ch => g (f ch)) := by
  simp [State.setCh]

theorem setMdm_setMdm (c : Ch) (f g : Mdm → Mdm) (s : State) : setMdm c g (setMdm c f s) = setMdm c (fun m => g (f m)) s :=
  setCh_setCh ..

/-! ### The receive buffer -/

/-- A modem whose receive buffer has taken an entry. -/
def Mdm.received (e : MdmEntry) (m : Mdm) : Mdm := { m with rx := m.rx ++ [e] }

theorem mdmEvent_latched (c : Ch) (kind : Byte) (s : State) : (mdmEvent c kind s).latched (8 * c.val + 7) :=
  Calm.latched (calm.keeps (denEvent_stays ..)) (raise_latched (8 * c.val + 7) _ s (by omega))

/-- A buffer with room takes an entry, with the event of its channel (R156). -/
theorem mdmPush_enters {c : Ch} (e : MdmEntry) {s : State} (room : (s.ch c).mdm.rx.length < 8) :
    OnlyCh c ((s.ch c).withMdm (Mdm.received e)) s (mdmPush c e s) ∧ (mdmPush c e s).latched (8 * c.val + 7) := by
  rw [mdmPush, if_pos room]
  exact ⟨(setMdm_only c (Mdm.received e) s).after (mdmEvent_records ..).chans, fun p => mdmEvent_latched c 7 _ p⟩

/-- The same after an update of the modem that leaves the buffer. -/
theorem mdmPush_setMdm {c : Ch} (e : MdmEntry) {f : Mdm → Mdm} {s : State} (keeps : (f (s.ch c).mdm).rx = (s.ch c).mdm.rx)
    (room : (s.ch c).mdm.rx.length < 8) :
    OnlyCh c ((s.ch c).withMdm fun m => (f m).received e) s (mdmPush c e (setMdm c f s)) ∧
      (mdmPush c e (setMdm c f s)).latched (8 * c.val + 7) := by
  have updated := setMdm_only c f s
  have rx : ((setMdm c f s).ch c).mdm.rx = (s.ch c).mdm.rx := by rw [updated.own]; exact keeps
  obtain ⟨entered, latched⟩ := mdmPush_enters (c := c) e (s := setMdm c f s) (by rw [rx]; exact room)
  rw [updated.own] at entered
  exact ⟨updated.trans entered, latched⟩

/-! ### A failed attempt -/

/-- A modem that keeps quiet until a time, not shorter than before (R154). -/
def Mdm.hushed (until_ : Nat) (m : Mdm) : Mdm := { m with quietAt := max m.quietAt until_ }

/-- A modem that waits to repeat its transaction. -/
def Mdm.retrying (r : MdmRun) (reason at_ : Nat) (m : Mdm) : Mdm := { m.hushed (at_ + rt2) with run := some { r with lastReason := reason } }

/-- A modem whose transaction has ended. -/
def Mdm.ended (at_ : Nat) (m : Mdm) : Mdm := { m.hushed (at_ + rt2) with run := none }

theorem mdmFail_eq {c : Ch} {s : State} {r : MdmRun} (reason at_ : Nat) (run : (s.ch c).mdm.run = some r) :
    mdmFail c reason at_ s =
      if r.attempts ≤ fld (s.ch c).mdm.word 15 12 then setMdm c (Mdm.retrying r reason at_) s
      else mdmPush c (mdmFailure s c r.tx.txn r.attempts reason) (setMdm c (Mdm.ended at_) s) := by
  have word : ((s.quiet c (at_ + rt2)).ch c).mdm.word = (s.ch c).mdm.word := by
    rw [State.quiet, (setMdm_only ..).own]
    rfl
  simp only [mdmFail, run, word]
  split <;> rw [State.quiet, setMdm_setMdm] <;> rfl

/-- Without a carrier within RT1 the running attempt fails with reason 1 (R154). -/
theorem replyTimeout_due {c : Ch} {s : State} {r : MdmRun} (up : s.modemUp c = true) (run : (s.ch c).mdm.run = some r)
    (sent : r.lastReason = 0) (late : r.endAt + (s.ch c).rt1 ≤ s.sys.now) : replyTimeout c s = mdmFail c 1 s.sys.now s := by
  simp [replyTimeout, run, up, sent, late]

theorem replyTimeout_early {c : Ch} {s : State} {r : MdmRun} (run : (s.ch c).mdm.run = some r)
    (early : s.sys.now < r.endAt + (s.ch c).rt1) : replyTimeout c s = s := by
  simp [replyTimeout, run, Nat.not_le.mpr early]

/-! ### Transactions -/

/-- A modem that sends a frame, the first attempt of a transaction (R154). -/
def Mdm.starting (x : MdmTx) (rest : List MdmTx) (frame : List Byte) (now raw : Nat) (m : Mdm) : Mdm :=
  { m with txq := rest, run := some (MdmRun.mk x 1 (now + charTicks frame.length) 0), sent := frame, sentAt := raw }

theorem transaction_starts {c : Ch} {s : State} {x : MdmTx} {rest : List MdmTx} (up : s.modemUp c = true)
    (master : (s.ch c).master = true) (idle : (s.ch c).mdm.run = none) (queue : (s.ch c).mdm.txq = x :: rest)
    (quiet : (s.ch c).mdm.quietAt ≤ s.sys.now) :
    transaction c s = setMdm c (Mdm.starting x rest
      (mdmFrame x.preamb.toNat (x.body (mdmRole (s.ch c).mdm.word == 0))) s.sys.now s.sys.raw) s := by
  rw [transaction, if_neg (by simp [up, master, quiet])]
  simp only [idle, queue]
  rfl

theorem transaction_quiet {c : Ch} {s : State} (early : s.sys.now < (s.ch c).mdm.quietAt) : transaction c s = s := by
  rw [transaction, if_pos (by simp [early])]

/-! ### Frames heard -/

/-- A carrier of 80 mV or less is ignored, and one of 120 mV or more is detected (R150, R443). -/
theorem modemFrame_faint {c : Ch} {f : MdmHeard} {s : State} (faint : f.level ≤ 80) : modemFrame c f s = s := by
  simp [modemFrame, faint]

theorem modemFrame_detected {c : Ch} {f : MdmHeard} {s : State} (up : s.modemUp c = true) (clear : 120 ≤ f.level) :
    modemFrame c f s = frameHeard c f s := by
  have loud : ¬ f.level ≤ 80 := by omega
  simp [modemFrame, up, clear, loud]

/-- A sound reply that matches ends the transaction and is kept (R154, R156). -/
theorem masterHears_reply {c : Ch} {f : MdmHeard} {s : State} {r : MdmRun} (run : (s.ch c).mdm.run = some r)
    (sent : r.lastReason = 0) (carrier : f.carrierLost = false) (sound : MdmHeard.discarded f = false)
    (reply : fld (byteAt f.bytes 0) 2 0 = 6) (fits : replyMatches r.tx (mdmRole (s.ch c).mdm.word == 0) f.bytes = true) :
    masterHears c f s = mdmPush c
      (MdmEntry.mk 1 (BitVec.ofNat 8 r.attempts) r.tx.txn (s.stampAgo (bankOf c) f.age) f.bytes.dropLast)
      (setMdm c (Mdm.ended (s.sys.now - f.age)) s) := by
  simp only [masterHears, run, sent, carrier, sound, reply, fits, State.quiet, setMdm_setMdm, Bool.false_eq_true, reduceIte,
    decide_true, beq_self_eq_true, Bool.and_self, show ¬ 6 = 1 by decide]
  rfl

/-- A field device that has heard a request, its latest, under a number (R157). -/
def Mdm.asked (n : BitVec 16) (f : MdmHeard) (now : Nat) (m : Mdm) : Mdm :=
  { m with
    reqNum := n
    latest := some (MdmReq.mk n (now - f.age) ((f.bytes.drop 1).take (addrLen f.bytes)) (cmdOf f.bytes) (bit (byteAt f.bytes 0) 7)) }

/-- A sound request addressed to the field device, for which its buffer has room, is its latest (R153, R156, R157). -/
theorem deviceHears_request {c : Ch} {f : MdmHeard} {s : State} (sound : MdmHeard.discarded f = false)
    (carrier : f.carrierLost = false) (addressed : (s.ch c).mdm.accepts f.bytes = true) (room : (s.ch c).mdm.rx.length < 8) :
    deviceHears c f s = mdmPush c
      (MdmEntry.mk 2 0 ((s.ch c).mdm.reqNum + 1) (s.stampAgo (bankOf c) f.age) f.bytes.dropLast)
      (setMdm c (Mdm.asked ((s.ch c).mdm.reqNum + 1) f s.sys.now) s) := by
  rw [deviceHears, if_neg (by simp [sound, carrier, addressed])]
  dsimp only
  rw [if_pos room]
  rfl

/-- A frame with an error, or whose carrier was lost, does nothing to a field device (R151). -/
theorem deviceHears_discards {c : Ch} {f : MdmHeard} {s : State}
    (flawed : f.bad = true ∨ frameSound f.bytes = false ∨ f.carrierLost = true) : deviceHears c f s = s := by
  rw [deviceHears, if_pos]
  rcases flawed with h | h | h <;> simp [MdmHeard.discarded, h]

/-! ### The statement -/

/-- Settles O50: a transaction starts and is repeated by one update of its modem, and what ends it, or is heard, is such an update with
an entry in the buffer. -/
theorem modemTransactionsRunRetryAndAreHeard : Obligations.ModemTransactionsRunRetryAndAreHeard := by
  intro s c up
  refine ⟨fun master => ⟨fun x rest idle queue quiet => ?_, fun early => congrArg Host.Outcome.next (transaction_quiet early),
      fun r run sent => ⟨fun late more => ?_, fun late last room => ?_,
        fun early => congrArg Host.Outcome.next (replyTimeout_early run early),
        fun f clear carrier sound reply fits room => ?_⟩⟩,
    fun f faint => congrArg Host.Outcome.next (modemFrame_faint faint),
    fun device f clear => ⟨fun sound carrier addressed room => ?_, fun flawed => congrArg Host.Outcome.next ?_⟩⟩
  · exact congrArg Host.Outcome.next (transaction_starts up master idle queue quiet)
  · refine congrArg Host.Outcome.next ((replyTimeout_due up run sent late).trans ?_)
    rw [mdmFail_eq _ _ run, if_pos more]
    rfl
  · obtain ⟨only, latched⟩ := mdmPush_setMdm (c := c) (s := s) (mdmFailure s c r.tx.txn r.attempts 1)
      (f := Mdm.ended s.sys.now) rfl room
    have ends : replyTimeout c s = _ := (replyTimeout_due up run sent late).trans
      ((mdmFail_eq 1 s.sys.now run).trans (if_neg (Nat.not_le.mpr last)))
    rw [← ends] at only latched
    exact ⟨_, rfl, by rw [only.own]; rfl, by rw [only.own]; rfl, latched, only.others⟩
  · have hears : modemFrame c f s = _ := (modemFrame_detected up clear).trans
      ((if_pos master).trans (masterHears_reply run sent carrier sound reply fits))
    obtain ⟨only, latched⟩ := mdmPush_setMdm (c := c) (s := s)
      (MdmEntry.mk 1 (BitVec.ofNat 8 r.attempts) r.tx.txn (s.stampAgo (bankOf c) f.age) f.bytes.dropLast)
      (f := Mdm.ended (s.sys.now - f.age)) rfl room
    rw [← hears] at only latched
    exact ⟨_, rfl, by rw [only.own]; rfl, by rw [only.own]; rfl, by rw [only.own]; rfl, latched, only.others⟩
  · have hears : modemFrame c f s = _ := (modemFrame_detected up clear).trans
      ((if_neg (by simp [device])).trans (deviceHears_request sound carrier addressed room))
    obtain ⟨only, latched⟩ := mdmPush_setMdm (c := c) (s := s)
      (MdmEntry.mk 2 0 ((s.ch c).mdm.reqNum + 1) (s.stampAgo (bankOf c) f.age) f.bytes.dropLast)
      (f := Mdm.asked ((s.ch c).mdm.reqNum + 1) f s.sys.now) rfl room
    rw [← hears] at only latched
    exact ⟨_, rfl, by rw [only.own]; rfl, by rw [only.own]; rfl, ⟨_, by rw [only.own]; rfl, rfl, rfl⟩, latched, only.others⟩
  · rw [modemFrame_detected up clear, frameHeard, if_neg (by simp [device]), deviceHears_discards flawed]

end Sys2Proof.Machine
end

section
/-! PROOFS. A lone output through an evaluation (R35, R36, R149): what an evaluation keeps of a channel that no hold governs, and that
the channel then stands where it is governed. -/

namespace Sys2Proof.Machine

/-! ### What an evaluation keeps -/

/-- A channel without what an evaluation writes where neither a hold nor the end of a trim session comes with it. -/
def Chan.driven (ch : Chan) : Chan :=
  { ch.settings with l5 := ch.l5, acts := ch.acts, loop := { ch.loop with rampFrom := 0, rampAt := 0 } }

/-- The same without the trim session. -/
def Chan.commanded (ch : Chan) : Chan := { ch.driven with loop := { ch.driven.loop with session := .none } }

/-- What of a channel's commands an evaluation keeps in which no hold governs. -/
structure SameCommand (x y : Chan) : Prop where
  l5 : y.l5 = x.l5
  acts : y.acts = x.acts
  word : y.loop.word = x.loop.word
  trim : y.loop.trim = x.loop.trim
  alarm : y.loop.alarm = x.loop.alarm
  fallback : y.loop.fallback = x.loop.fallback
  readback : y.loop.readback = x.loop.readback

theorem SameCommand.of_commanded {x y : Chan} (h : y.commanded = x.commanded) : SameCommand x y :=
  have l := congrArg Chan.loop h
  ⟨(congrArg Chan.l5 h :), (congrArg Chan.acts h :), (congrArg Loop.word l :), (congrArg Loop.trim l :), (congrArg Loop.alarm l :),
   (congrArg Loop.fallback l :), (congrArg Loop.readback l :)⟩

theorem endTrim_commanded (c : Ch) (s : State) (d : Ch) : ((endTrim c s).ch d).commanded = (s.ch d).commanded := by
  unfold endTrim
  split
  · rfl
  · extract_lets s1 isT gone
    have ended : (s1.ch d).commanded = (s.ch d).commanded := setCh_keeps Chan.commanded c _ s d fun _ => rfl
    refine (overAll_keeps (fun u => (u.ch d).commanded) (fun h u => ?_) _).trans ended
    split
    · rw [finish_ch]
    · rfl

/-- An evaluation in which no hold governs ends an open trim session at levels 1 to 3 (R149), and keeps what is commanded. -/
theorem evalOne_ends {c : Ch} {s : State} (h : (s.govern c).1 ≠ 4) : ∃ u : State, (∀ d, (u.ch d).driven = (s.ch d).driven) ∧
    evalOne c s = if (s.govern c).1 ≠ 0 ∧ (s.govern c).1 ≠ 5 then endTrim c u else u := by
  unfold evalOne
  extract_lets ch g now on ramp moved from_ s1 s2 s3
  refine ⟨s2, fun d => ?_, ?_⟩
  · have kept : (s1.ch d).driven = (s.ch d).driven :=
      setCh_keeps Chan.driven c _ s d fun x => by dsimp only [Chan.driven, Chan.settings]; split <;> rfl
    rw [← kept]
    simp only [s2]
    split <;> rfl
  · rw [if_neg (by simp [g, h])]
    simp only [s3, Bool.and_eq_true, decide_eq_true_eq]
    rfl

theorem evalOne_commanded {c : Ch} {s : State} (h : (s.govern c).1 ≠ 4) (d : Ch) :
    ((evalOne c s).ch d).commanded = (s.ch d).commanded := by
  obtain ⟨u, kept, ends⟩ := evalOne_ends h
  have before : (u.ch d).commanded = (s.ch d).commanded := by rw [Chan.commanded, kept]; rfl
  rw [ends]
  split
  · rw [endTrim_commanded, before]
  · exact before

theorem evalOne_command {c : Ch} {s : State} (h : (s.govern c).1 ≠ 4) (d : Ch) : SameCommand (s.ch d) ((evalOne c s).ch d) :=
  .of_commanded (evalOne_commanded h d)

/-- At level 5 a trim session goes on (R149). -/
theorem evalOne_driven {c : Ch} {s : State} (h : (s.govern c).1 = 5) (d : Ch) : ((evalOne c s).ch d).driven = (s.ch d).driven := by
  obtain ⟨u, kept, ends⟩ := evalOne_ends (c := c) (s := s) (by rw [h]; decide)
  rw [ends, if_neg (by simp [h]), kept]

theorem evalOne_session {c : Ch} {s : State} (h : (s.govern c).1 = 5) (d : Ch) :
    ((evalOne c s).ch d).loop.session = (s.ch d).loop.session := (congrArg (·.loop.session) (evalOne_driven h d) :)

theorem OutputsOnly.mdm {s t : State} (h : OutputsOnly s t) (c : Ch) : (t.ch c).mdm = (s.ch c).mdm := (congrArg Chan.mdm (h.chan c) :)

theorem OutputsOnly.parked {s t : State} (h : OutputsOnly s t) (c : Ch) : (t.ch c).parked = (s.ch c).parked :=
  (congrArg Chan.parked (h.chan c) :)

/-- A parked channel executes no hold (R159). -/
theorem parked_action {ch : Chan} (h : ch.parked = true) : ch.action = none := by simp [Chan.action, actDemand, h]

/-! ### Where a lone channel stands -/

/-- What governs a channel rests on the channels, and of its Holm on what level 2 depends on (R35). -/
theorem govern_of_chans {s t : State} {c : Ch} (chans : t.chans = s.chans) (holm : SameBurrow (s.holm (bankOf c)) (t.holm (bankOf c))) :
    t.govern c = s.govern c := by
  have ch (d : Ch) : t.ch d = s.ch d := by simp only [State.ch, chans]
  have lead : t.lead c = s.lead c := by simp only [State.lead, ch]
  have live : t.holmLive (bankOf c) = s.holmLive (bankOf c) := by simp only [State.holmLive, holm.restarted]
  have burrow : t.burrowOn c = s.burrowOn c := by simp only [burrowOn_eq, ch, lead, holm.up, holm.burEn, holm.mapHere]
  have demand : t.burDemand c = s.burDemand c := burDemand_congr c (by rw [ch]) lead (by rw [ch]) holm.burIn
  have locked : t.locked c = s.locked c := by simp only [State.locked, State.members, ch]
  have loss (x : HostLoss) : t.l3Demand c x = s.l3Demand c x := by simp only [State.l3Demand, State.safeDemand, ch, lead, demand]
  simp only [State.govern, ch, lead, live, locked, burrow, demand, loss, actFor_eq]

/-- Outputs do not decide what governs a lone channel whose level 5 and holds stand, but at level 5 by its trim session (R35, R146). -/
theorem OutputsOnly.govern_lone {s t : State} (h : OutputsOnly s t) {c : Ch} (lone : (s.ch c).paired = false)
    (l5 : (t.ch c).l5 = (s.ch c).l5) (acts : (t.ch c).acts = (s.ch c).acts)
    (trim : (s.govern c).1 = 5 → (t.ch c).loop.trimNa = (s.ch c).loop.trimNa) : t.govern c = s.govern c := by
  have change : (t.ch c).inChange = (s.ch c).inChange := (congrArg Chan.inChange (h.chan c) :)
  have act : t.actFor c = s.actFor c := by
    simp only [actFor_eq, h.lead, lead_of_unpaired lone, Chan.action, acts, actDemand, h.parked, change, h.mode]
  by_cases five : (s.govern c).1 = 5
  · simp only [State.govern, h.mode, h.holmLive, h.locked, h.inBreak, h.burrowOn, h.burDemand, h.lead, lead_of_unpaired lone, h.l3,
      h.l3Demand, act, h.parked, l5, trim five]
  · revert five
    simp only [State.govern, h.mode, h.holmLive, h.locked, h.inBreak, h.burrowOn, h.burDemand, h.lead, lead_of_unpaired lone, h.l3,
      h.l3Demand, act]
    repeat' split
    all_goals simp

/-- A lone channel that no hold governs stands after its evaluation where it is governed. -/
theorem evalOne_settled {c : Ch} {s : State} (lone : (s.ch c).paired = false) (h : (s.govern c).1 ≠ 4) :
    (evalOne c s).settled c := by
  have out := evalOne_outputs c s
  have kept := evalOne_command h c
  have stands : (evalOne c s).standing c = s.govern c := by rw [evalOne_standing, if_pos rfl]
  refine stands.trans (out.govern_lone lone kept.l5 kept.acts fun five => ?_).symm
  simp only [Loop.trimNa, evalOne_session five, kept.trim]

/-- A notice leaves every channel where it stood and governed as it was. -/
theorem notify_settled {b : Bank} {src : Nat} {d : List Byte} {den : Option Nat} {obj : BitVec 16} {s : State} {c : Ch}
    (h : s.settled c) : (notify b src d den obj s).settled c :=
  (standing_of_chans (notify_chans ..) c).trans (h.trans (govern_of_chans (notify_chans ..) (notify_burrow ..)).symm)

end Sys2Proof.Machine
end

section
/-! PROOFS. Fields of payloads that begin with other fields (R6): what a little-endian field and a byte at a position read. -/

namespace Sys2Proof.Machine

@[simp] theorem leBytes_length (v n : Nat) : (leBytes v n).length = n := by
  induction n generalizing v with
  | zero => rfl
  | succ n ih => simp [leBytes, ih]

theorem byteAt_append {a : List Byte} {k : Nat} (h : a.length = k) (l : List Byte) (i : Nat) : byteAt (a ++ l) (k + i) = byteAt l i := by
  simp [byteAt, ← h, List.getElem?_append_right]

theorem leAt_append {a : List Byte} {k : Nat} (h : a.length = k) (l : List Byte) (i n : Nat) : leAt (a ++ l) (k + i) n = leAt l i n := by
  induction n generalizing i with
  | zero => rfl
  | succ n ih => rw [leAt, leAt, byteAt_append h, Nat.add_assoc, ih]

theorem leAt_cons_succ (b : Byte) (l : List Byte) (i n : Nat) : leAt (b :: l) (i + 1) n = leAt l i n := by
  rw [Nat.add_comm]
  exact leAt_append (a := [b]) rfl l i n

/-- A field that was written stands there (R6). -/
theorem leAt_leBytes (v n : Nat) (l : List Byte) : leAt (leBytes v n ++ l) 0 n = v % 256 ^ n := by
  induction n generalizing v with
  | zero => simp [leAt, Nat.mod_one]
  | succ n ih =>
    rw [leBytes, leAt, List.cons_append, leAt_cons_succ, ih, Nat.pow_succ']
    simp [byteAt, Nat.mod_mul]

theorem leAt_le32 (v : BitVec 32) (l : List Byte) : leAt (le32 v.toNat ++ l) 0 4 = v.toNat :=
  (leAt_leBytes ..).trans (Nat.mod_eq_of_lt v.isLt)

theorem word16_le16 (v : BitVec 16) (l : List Byte) : word16 (le16 v.toNat ++ l) 0 = v := by
  rw [word16, le16, leAt_leBytes, Nat.mod_eq_of_lt (by exact v.isLt), BitVec.ofNat_toNat, BitVec.setWidth_eq]

theorem word32_le32_append (v : BitVec 32) (l : List Byte) : word32 (le32 v.toNat ++ l) 0 = v := by
  rw [word32, leAt_le32, BitVec.ofNat_toNat, BitVec.setWidth_eq]

theorem word64_le64 (v : BitVec 64) : word64 (le64 v.toNat) 0 = v := by
  rw [word64, le64, ← List.append_nil (leBytes ..), leAt_leBytes, Nat.mod_eq_of_lt (by exact v.isLt), BitVec.ofNat_toNat,
    BitVec.setWidth_eq]

end Sys2Proof.Machine
end

section
/-! PROOFS. The modem's commands (R152, R155 to R157, R159): what a new modem word makes of its channel, and the statement on MDM.CFG,
MDM.SEND, MDM.READ and MDM.REPLY. -/

namespace Sys2Proof.Machine

/-! ### A new modem word -/

/-- A modem with a word and a long address. -/
def Mdm.configured (w : BitVec 32) (uid : BitVec 38) (m : Mdm) : Mdm := { m with word := w, uid := uid }

/-- Level 5 of a channel that is parked takes 4.0 mA, and its alarm ends (R140, R159). -/
def parking (c : Ch) (s : State) : State := (setL5 c (.cur 4000000) s).setCh c Chan.unalarmed

/-- The same of the channel. -/
def Chan.atPark (ch : Chan) : Chan :=
  { ch with l5 := ch.putL5 (.cur 4000000), loop := { ch.loop with alarm := false, fallback := false } }

theorem atPark_l5 (ch : Chan) : ch.atPark.l5 = .cur 4000000 := ite_self _

theorem parking_only {c : Ch} {s : State} (lone : (s.ch c).paired = false) : OnlyCh c (s.ch c).atPark s (parking c s) := by
  rw [parking, setL5_lone lone, setCh_setCh]
  exact .setCh c Chan.atPark s

/-- The trim session that a new word ends where it parks its channel or ends the parking (log entry 127). -/
def wordGiven (c : Ch) (w : BitVec 32) (uid : BitVec 38) (s : State) : State :=
  let s1 := setMdm c (Mdm.configured w uid) s
  if (s1.ch c).parked != (s.ch c).parked then endTrim c s1 else s1

theorem setModem_eq (c : Ch) (w : BitVec 32) (uid : BitVec 38) (s : State) : setModem c w uid s =
    if ((wordGiven c w uid s).ch c).parked && !(s.ch c).parked then evalOut c (parking c (wordGiven c w uid s))
    else evalOut c (wordGiven c w uid s) := rfl

theorem wordGiven_outputs (c : Ch) (w : BitVec 32) (uid : BitVec 38) (s : State) :
    OutputsOnly (setMdm c (Mdm.configured w uid) s) (wordGiven c w uid s) :=
  ite_outputs (endTrim_outputs ..) (.refl _)

theorem wordGiven_others {c d : Ch} (w : BitVec 32) (uid : BitVec 38) (s : State) (h : d ≠ c) :
    (wordGiven c w uid s).ch d = s.ch d := by
  have set := (setMdm_only c (Mdm.configured w uid) s).others d h
  unfold wordGiven
  dsimp only
  split
  · rw [endTrim_ch_ne c d _ h, set]
  · exact set

/-- A new modem word stands, and parks a channel at 4.0 mA whose POLLADR leaves 0 (R152, R159). -/
theorem setModem_spec {c : Ch} {w : BitVec 32} {uid : BitVec 38} {s : State} (lone : (s.ch c).paired = false) :
    let x := (s.ch c).withMdm (Mdm.configured w uid)
    let t := setModem c w uid s
    (t.ch c).mdm = x.mdm ∧ (∀ d : Ch, d ≠ c → t.ch d = s.ch d) ∧
      (x.parked = true → (s.ch c).parked = false →
        (t.ch c).parked = true ∧ (t.ch c).l5 = .cur 4000000 ∧ (t.ch c).loop.alarm = false) := by
  intro x t
  have given := wordGiven_outputs c w uid s
  have own : (setMdm c (Mdm.configured w uid) s).ch c = x := (setMdm_only c (Mdm.configured w uid) s).own
  have alone : ((wordGiven c w uid s).ch c).paired = false := by rw [given.paired, own]; exact lone
  have parked : ((wordGiven c w uid s).ch c).parked = x.parked := by rw [given.parked, own]
  have mdm : ((wordGiven c w uid s).ch c).mdm = x.mdm := by rw [given.mdm, own]
  have ht : t = if x.parked && !(s.ch c).parked then evalOut c (parking c (wordGiven c w uid s)) else evalOut c (wordGiven c w uid s) := by
    rw [← parked]
    exact setModem_eq c w uid s
  by_cases parks : x.parked = true ∧ (s.ch c).parked = false
  · have only := parking_only alone
    have lone' : ((parking c (wordGiven c w uid s)).ch c).paired = false := by rw [only.own]; exact alone
    have stays : ((parking c (wordGiven c w uid s)).ch c).parked = true := by rw [only.own]; exact parked.trans parks.1
    have eval : t = evalOne c (parking c (wordGiven c w uid s)) := by
      rw [ht, if_pos (by simp [parks]), evalOut_of_unpaired lone']
    have out := evalOne_outputs c (parking c (wordGiven c w uid s))
    have kept := evalOne_command (c := c) (s := parking c (wordGiven c w uid s))
      (govern_ne_four (by rw [actFor_eq, lead_of_unpaired lone', parked_action stays])) c
    rw [← eval] at out kept
    rw [only.own] at kept
    refine ⟨?_, fun d hd => ?_, fun _ _ => ⟨?_, ?_, kept.alarm⟩⟩
    · rw [out.mdm, only.own]
      exact mdm
    · rw [eval, evalOne_others lone' hd, only.others d hd, wordGiven_others w uid s hd]
    · exact (out.parked c).trans stays
    · exact kept.l5.trans (atPark_l5 _)
  · have eval : t = evalOne c (wordGiven c w uid s) := by
      rw [ht, if_neg (by simpa using parks), evalOut_of_unpaired alone]
    refine ⟨?_, fun d hd => ?_, fun h k => absurd ⟨h, k⟩ parks⟩
    · rw [eval, (evalOne_outputs ..).mdm, mdm]
    · rw [eval, evalOne_others alone hd, wordGiven_others w uid s hd]

theorem setModem_calm (c : Ch) (w : BitVec 32) (uid : BitVec 38) (s : State) : calm.rel s (setModem c w uid s) :=
  calm.keeps (by simp [setModem_eq, wordGiven, parking, setMdm])

/-! ### The commands -/

/-- A channel command that is free to run and whose own part answers a status at once completes with it. -/
theorem Ready.completes_ch {cmd : Instr} {op : BitVec 16} {r : Req} {s t : State} {c : Ch} {body : Ch → State → Res} {st : Byte}
    {data : List Byte} {delay : Nat} (ready : Ready op r s) (hc : chOf r.obj = some c) (run : exec cmd s = .next (runCh op r s body))
    (done : body c (s.running r) = .done t st data delay) (link : t.linkOk r.obj = s.linkOk r.obj)
    (completions : t.completions = s.completions) (now : t.sys.now = s.sys.now) : Completes cmd op r st data delay s t :=
  completes_done ready run (by simp only [hc]; exact done) link completions now

/-- Reserved bits that a mask finds clear (R8). -/
theorem rsvZero_of_and {n : Nat} {w mask : BitVec n} (h : w &&& mask = 0) : rsvZero w mask = true := beq_iff_eq.mpr h

/-- A byte below 64 has its two top bits clear. -/
theorem topBits_zero : ∀ b : Byte, b.toNat < 64 → rsvZero b 0xC0#8 = true := by decide

theorem mdmOn_of_modem {ch : Chan} (h : ch.modem = true) : ch.mdmOn = true := (Bool.and_eq_true_iff.mp h).2

theorem mdmCfg_ok {r : Req} {c : Ch} {s : State} {w : BitVec 32} {u : BitVec 38} (modem : (s.ch c).modem = true)
    (payload : r.payload = le32 w.toNat ++ leBytes u.toNat 5 ++ [0, 0, 0]) (reserved : w &&& 0xFF000F00#32 = 0)
    (role : if (s.ch c).mode = .aot then fld w 23 22 = 2 else fld w 23 22 < 2 ∧ fld w 21 16 = 0) (retry : fld w 15 12 ≤ 3)
    (shortest : 10 ≤ fld w 7 0) (longest : fld w 7 0 ≤ 240) : mdmCfg r c s = ok (setModem c w u s) := by
  rw [List.append_assoc] at payload
  have word : word32 r.payload 0 = w := by rw [payload, word32_le32_append]
  have uid : BitVec.ofNat 38 (leAt r.payload 4 5) = u := by
    rw [payload, le32, show (4 : Nat) = 4 + 0 from rfl, leAt_append (leBytes_length ..), leAt_leBytes,
      Nat.mod_eq_of_lt (Nat.lt_trans u.isLt (by decide)), BitVec.ofNat_toNat, BitVec.setWidth_eq]
  have top : rsvZero (byteAt r.payload 8) 0xC0#8 = true := by
    refine topBits_zero _ ?_
    have := u.isLt
    simp [payload, le32, leBytes, byteAt]
    omega
  have tail : zeroBytes r.payload 9 3 = true := by simp [payload, zeroBytes, le32, leBytes]
  have length : r.payload.length = 12 := by simp [payload, le32]
  by_cases aot : (s.ch c).mode = .aot
  · rw [if_pos aot] at role
    simp [mdmCfg, checked, firstFail, modem, word, uid, top, tail, length, rsvZero_of_and reserved, mdmRole, role, aot, retry, shortest,
      longest]
  · rw [if_neg aot] at role
    obtain ⟨master, poll⟩ := role
    have field : fld w 23 22 ≠ 2 := by omega
    have valid : fld w 23 22 ≠ 3 := by omega
    simp [mdmCfg, checked, firstFail, modem, word, uid, top, tail, length, rsvZero_of_and reserved, mdmRole, field, valid, poll, aot,
      retry, shortest, longest]

theorem mdmSend_ok {r : Req} {c : Ch} {s : State} (modem : (s.ch c).modem = true) (master : (s.ch c).master = true)
    (room : (s.ch c).mdm.txq.length < 8) (least : 9 ≤ r.payload.length) (most : r.payload.length ≤ 264)
    (flags : byteAt r.payload 0 &&& 0xFE = 0) (short : byteAt r.payload 2 &&& 0xC0 = 0) (long : byteAt r.payload 7 &&& 0xC0 = 0)
    (unused : if bit (byteAt r.payload 0) 0 then leAt r.payload 2 1 = 0 else leAt r.payload 3 5 = 0)
    (preamble : 5 ≤ leAt r.payload 1 1) (preambles : leAt r.payload 1 1 ≤ 20) :
    mdmSend r c s = okData (le16 (s.ch c).mdm.nextTxn.toNat) (queueTx c r.payload s) := by
  have flags' : rsvZero (byteAt r.payload 0) 0xFE#8 = true := rsvZero_of_and flags
  have short' : rsvZero (byteAt r.payload 2) 0xC0#8 = true := rsvZero_of_and short
  have long' : rsvZero (byteAt r.payload 7) 0xC0#8 = true := rsvZero_of_and long
  have address : (if bit (byteAt r.payload 0) 0 then leAt r.payload 2 1 == 0 else leAt r.payload 3 5 == 0) = true := by
    split at unused <;> simp_all
  simp [mdmSend, checked, firstFail, modem, master, room, least, most, flags', short', long', address, preamble, preambles]

theorem mdmRead_ok {r : Req} {c : Ch} {s : State} (modem : (s.ch c).modem = true) (payload : r.payload = []) :
    mdmRead r c s = okData (mdmOldest (s.ch c).mdm).bytes
      (s.setCh c (fun ch => { ch with mdm := { ch.mdm with rx := ch.mdm.rx.drop 1 } })) := by
  simp [mdmRead, checked, firstFail, modem, payload]

/-- An update of a channel is what it makes of that channel. -/
theorem setCh_congr {c : Ch} {f g : Chan → Chan} {s : State} (h : f (s.ch c) = g (s.ch c)) : s.setCh c f = s.setCh c g := by
  change { s with chans := s.chans.set c.val (f (s.ch c)) c.isLt } = { s with chans := s.chans.set c.val (g (s.ch c)) c.isLt }
  rw [h]

/-- A channel that an update leaves as it is. -/
theorem setCh_same (c : Ch) (f : Chan → Chan) (s : State) (h : f (s.ch c) = s.ch c) : s.setCh c f = s := by
  change { s with chans := s.chans.set c.val (f (s.ch c)) c.isLt } = s
  rw [h]
  congr 1
  exact Vector.set_getElem_self c.isLt

/-- A reply of a field device in its preamble's range, to its latest request (R157). -/
structure Replies (r : Req) (c : Ch) (q : MdmReq) (p : Byte) (d : List Byte) (s : State) : Prop where
  modem : (s.ch c).modem = true
  device : (s.ch c).master = false
  latest : (s.ch c).mdm.latest = some q
  payload : r.payload = le16 q.num.toNat ++ [p, 0] ++ d
  length : d.length ≤ 255
  least : 5 ≤ p.toNat
  most : p.toNat ≤ 20

theorem Replies.preamble {r : Req} {c : Ch} {q : MdmReq} {p : Byte} {d : List Byte} {s : State} (h : Replies r c q p d s) :
    leAt r.payload 2 1 = p.toNat := by simp [h.payload, leAt, byteAt, le16, leBytes]

theorem Replies.checks {r : Req} {c : Ch} {q : MdmReq} {p : Byte} {d : List Byte} {s : State} (h : Replies r c q p d s) :
    mdmReply r c s = if s.repliesGo c = true ∧ s.sys.now ≤ q.endAt + 10000 * fld (s.ch c).mdm.word 7 0
      then ok (sendReply c r.payload s) else .done s stE_TIMEOUT [] 0 := by
  have payload : r.payload = le16 q.num.toNat ++ ([p, 0] ++ d) := by rw [h.payload, List.append_assoc]
  have number : word16 r.payload 0 = q.num := by rw [payload, word16_le16]
  have length : r.payload.length = d.length + 4 := by simp [payload, le16]; omega
  have zero : zeroBytes r.payload 3 1 = true := by simp [payload, zeroBytes, le16, leBytes]
  by_cases intime : s.sys.now ≤ q.endAt + 10000 * fld (s.ch c).mdm.word 7 0
  all_goals
    cases goes : s.repliesGo c <;>
      simp [mdmReply, checked, firstFail, h.modem, h.device, h.latest, number, length, h.length, zero, h.preamble, h.least, h.most,
        msTicks, goes, intime]

theorem Replies.frame {r : Req} {c : Ch} {q : MdmReq} {p : Byte} {d : List Byte} {s : State} (h : Replies r c q p d s) :
    sendReply c r.payload s =
      setMdm c (fun _ => { (s.ch c).mdm with sent := mdmFrame p.toNat (replyBody q d), sentAt := s.sys.raw }) s := by
  have data : r.payload.drop 4 = d := by simp [h.payload, le16, leBytes]
  change setMdm c (fun _ => { (s.ch c).mdm with
    sent := match (s.ch c).mdm.latest with
      | some q => mdmFrame (leAt r.payload 2 1) (replyBody q (r.payload.drop 4))
      | none => (s.ch c).mdm.sent
    sentAt := s.sys.raw }) s = _
  simp only [h.latest, h.preamble, data]

/-! ### The statement -/

/-- Settles O25: each command passes its checks and is one update of its modem, and MDM.CFG goes on to one evaluation of its output. -/
theorem modemCommandsConfigureQueueReadAndReply : Obligations.ModemCommandsConfigureQueueReadAndReply := by
  intro r s c hc modem lone
  refine ⟨fun w u ready payload reserved role retry shortest longest => ?_,
    fun ready master room least most flags short long unused preamble preambles => ?_,
    fun ready payload => ⟨fun e rest full => ?_, fun empty => ?_⟩,
    fun q p d ready device latest payload length least most => ?_⟩
  · obtain ⟨done, chans⟩ := runCh_ok ready hc (mdmCfg_ok (s := s.running r) modem payload reserved role retry shortest longest)
      (setModem_calm ..) (now_of_anchor (setModem_anchor ..))
    obtain ⟨mdm, others, parks⟩ := setModem_spec (c := c) (w := w) (uid := u) (s := s.running r) lone
    refine ⟨_, rfl, done, (congrArg Chan.mdm (chans c)).trans mdm, fun aot polled before => ?_,
      fun d hd => (chans d).trans (others d hd)⟩
    rw [chans c]
    have on : bit (s.ch c).wiring 6 = true := mdmOn_of_modem modem
    exact parks (by simp [Chan.parked, Chan.withMdm, Mdm.configured, aot, polled, Chan.mdmOn, on]) before
  · exact ready.completes_ch hc rfl
      (mdmSend_ok (s := s.running r) modem master room least most flags short long unused preamble preambles) rfl rfl rfl
  · have read := ready.completes_ch (cmd := .mdmRead r) hc rfl (mdmRead_ok (s := s.running r) modem payload) rfl rfl rfl
    have oldest : mdmOldest (s.ch c).mdm = e := by simp [mdmOldest, full]
    have kept : (s.ch c).mdm.rx.drop 1 = rest := by simp [full]
    rw [running_ch, oldest, setCh_congr (g := fun ch => { ch with mdm := { ch.mdm with rx := rest } })
      (by simp only [running_ch, kept])] at read
    exact read
  · have read := ready.completes_ch (cmd := .mdmRead r) hc rfl (mdmRead_ok (s := s.running r) modem payload) rfl rfl rfl
    have oldest : (mdmOldest (s.ch c).mdm).bytes = List.replicate 11 0 := by
      simp only [mdmOldest, empty]
      decide
    rw [running_ch, oldest, setCh_same _ _ _ (by simp only [running_ch, empty, List.drop_nil]; rw [← empty])] at read
    exact read
  · have reply : Replies r c q p d (s.running r) := ⟨modem, device, latest, payload, length, least, most⟩
    refine ⟨fun goes intime => ?_, fun late => ?_⟩
    · have sent := ready.completes_ch (cmd := .mdmReply r) hc rfl (reply.checks.trans (if_pos ⟨goes, intime⟩)) rfl rfl rfl
      rw [reply.frame, setMdm, setCh_congr (g := fun ch => { ch with mdm := { ch.mdm with
        sent := mdmFrame p.toNat (replyBody q d), sentAt := s.sys.raw } }) rfl] at sent
      exact sent
    · exact ready.completes_ch hc rfl (reply.checks.trans (if_neg fun k => absurd k.2 (Nat.not_le.mpr late))) rfl rfl rfl

end Sys2Proof.Machine
end

section
/-! PROOFS. Loop diagnostics (R139, R140, R143, R144): what each makes of its channel once its time has run, and the statement on them. -/

namespace Sys2Proof.Machine

/-! ### A diagnosis -/

/-- A channel with what an update makes of its loop. -/
def Chan.withLoop (f : Chan → Loop) (ch : Chan) : Chan := { ch with loop := f ch }

theorem withLoop_eq (f : Chan → Loop) : Chan.withLoop f = fun ch => { ch with loop := f ch } := rfl

theorem loopUp_of_live {s : State} {c : Ch} (loop : (s.ch c).mode.isLoop = true) (up : (s.holm (bankOf c)).up = true)
    (live : (s.holm (bankOf c)).restarted = false) : s.loopUp c = true := by simp [State.loopUp, State.holmLive, loop, up, live]

/-- A loop event is a notice: it changes no channel. -/
theorem OnlyCh.loopEvent {c : Ch} {x : Chan} {s u : State} (h : OnlyCh c x s u) (kind : Byte) : OnlyCh c x s (loopEvent c kind u) :=
  h.after (notify_chans ..)

/-- A diagnosis that leaves where its channel stands. -/
theorem OnlyCh.still {c : Ch} {x : Chan} {s t : State} (h : OnlyCh c x s t) (out : x.out = (s.ch c).out) (l5 : x.l5 = (s.ch c).l5) :
    (t.ch c).loop = x.loop ∧ (t.ch c).out = (s.ch c).out ∧ (t.ch c).l5 = (s.ch c).l5 ∧ ∀ d : Ch, d ≠ c → t.ch d = s.ch d := by
  rw [h.own]
  exact ⟨rfl, out, l5, h.others⟩

/-! ### Compliance (R139) -/

theorem compliance_begins {s : State} {c : Ch} (up : s.loopUp c = true) (out : (s.ch c).mode.isLoopOut = true)
    (near : (s.ch c).loop.compl = false) (held : s.heldFor c .compBelow 100000 = true) : compliance c true s =
    loopEvent c 1 (s.setCh c (Chan.withLoop fun ch => { ch.loop with compl := true, complAt := s.sys.raw })) := by
  simp [compliance, up, out, near, held, withLoop_eq]

theorem compliance_ends {s : State} {c : Ch} (up : s.loopUp c = true) (out : (s.ch c).mode.isLoopOut = true)
    (short : (s.ch c).loop.compl = true) (held : s.heldFor c .compNear 1000000 = true) : compliance c false s =
    loopEvent c 2 (s.setCh c (Chan.withLoop fun ch => { ch.loop with compl := false })) := by
  simp [compliance, up, out, short, held, withLoop_eq]

theorem compliance_begins_early {s : State} {c : Ch} (held : s.heldFor c .compBelow 100000 = false) : compliance c true s = s := by
  simp [compliance, held]

theorem compliance_ends_early {s : State} {c : Ch} (held : s.heldFor c .compNear 1000000 = false) : compliance c false s = s := by
  simp [compliance, held]

/-! ### An alarm current at level 5 (R140, R143) -/

/-- A channel whose level 5 takes an alarm current. -/
def Chan.alarmed (n : Nat) (f : Chan → Loop) (ch : Chan) : Chan := Chan.withLoop f { ch with l5 := ch.putL5 (.cur n) }

/-- Level 5 takes an alarm current, in one evaluation of the output. -/
def writeAlarm (c : Ch) (n : Nat) (f : Chan → Loop) (s : State) : State :=
  evalOut c ((setL5 c (.cur n) s).setCh c (Chan.withLoop f))

/-- An alarm current stands at level 5 of a lone channel that no hold governs, and the channel stands where it is governed. -/
theorem writeAlarm_spec {c : Ch} {s : State} (n : Nat) (f : Chan → Loop) (lone : (s.ch c).paired = false) (acts : (s.ch c).acts = []) :
    SameCommand ((s.ch c).alarmed n f) ((writeAlarm c n f s).ch c) ∧ (writeAlarm c n f s).settled c ∧
      ∀ d : Ch, d ≠ c → (writeAlarm c n f s).ch d = s.ch d := by
  have only : OnlyCh c ((s.ch c).alarmed n f) s ((setL5 c (.cur n) s).setCh c (Chan.withLoop f)) := by
    rw [setL5_lone lone, setCh_setCh]
    exact .setCh c (Chan.alarmed n f) s
  have lone' : (((setL5 c (.cur n) s).setCh c (Chan.withLoop f)).ch c).paired = false := by rw [only.own]; exact lone
  have free : (((setL5 c (.cur n) s).setCh c (Chan.withLoop f)).govern c).1 ≠ 4 := by
    refine govern_ne_four ?_
    rw [actFor_eq, lead_of_unpaired lone', only.own]
    simp [Chan.action, Chan.alarmed, Chan.withLoop, acts]
  have command := evalOne_command free c
  rw [only.own] at command
  rw [writeAlarm, evalOut_of_unpaired lone']
  exact ⟨command, evalOne_settled lone' free, fun d hd => (evalOne_others lone' hd).trans (only.others d hd)⟩

theorem putL5_unparked {ch : Chan} (h : ch.parked = false) (d : Demand) : ch.putL5 d = d := by simp [Chan.putL5, h]

theorem alarmFallback_due {s : State} {c : Ch} (up : s.loopUp c = true) (out : (s.ch c).mode.isLoopOut = true)
    (driven : (s.ch c).alarmDriven = true) (high : (s.ch c).highAlarm = true) (first : (s.ch c).loop.fallback = false)
    (short : (s.ch c).loop.compl = true) (due : (s.ch c).loop.complAt + 500000 ≤ s.sys.raw) : alarmFallback c s =
    loopEvent c 3 (writeAlarm c ((s.ch c).alarmNa false) (fun ch => { ch.loop with fallback := true }) (assertFault s)) := by
  simp [alarmFallback, up, out, driven, high, first, short, due, writeAlarm, withLoop_eq]

theorem alarmFallback_early {s : State} {c : Ch} (early : s.sys.raw < (s.ch c).loop.complAt + 500000) : alarmFallback c s = s := by
  simp [alarmFallback, Nat.not_le.mpr early]

/-- The low alarm in place of a high one that compliance keeps short (R140). -/
theorem alarmFallback_spec {s : State} {c : Ch} (lone : (s.ch c).paired = false) (acts : (s.ch c).acts = []) :
    let t := loopEvent c 3 (writeAlarm c ((s.ch c).alarmNa false) (fun ch => { ch.loop with fallback := true }) (assertFault s))
    SameCommand ((s.ch c).alarmed ((s.ch c).alarmNa false) fun ch => { ch.loop with fallback := true }) (t.ch c) ∧ t.settled c ∧
      ∀ d : Ch, d ≠ c → t.ch d = s.ch d := by
  have same (d : Ch) : (assertFault s).ch d = s.ch d := by simp only [State.ch, (assertFault_leaves s).1]
  obtain ⟨command, settled, others⟩ := writeAlarm_spec (c := c) (s := assertFault s) ((s.ch c).alarmNa false)
    (fun ch => { ch.loop with fallback := true }) (by rw [same]; exact lone) (by rw [same]; exact acts)
  rw [same] at command
  have noticed := OnlyCh.loopEvent ⟨rfl, others⟩ 3
  exact ⟨by rw [noticed.own]; exact command, notify_settled settled, fun d hd => (noticed.others d hd).trans (same d)⟩

/-- No alarm is driven, or none that is high (R140). -/
theorem alarmFallback_idle {s : State} {c : Ch}
    (idle : (s.ch c).loop.alarm = false ∨ (s.ch c).loop.session ≠ .none ∨ (s.ch c).highAlarm = false) : alarmFallback c s = s := by
  obtain quiet | session | low := idle
  · simp [alarmFallback, Chan.alarmDriven, quiet]
  · simp [alarmFallback, Chan.alarmDriven, session]
  · simp [alarmFallback, low]

/-- A state whose loop has its readback fault. -/
def readbackOff (c : Ch) (s : State) : State := (assertFault s).setCh c (Chan.withLoop fun ch => { ch.loop with readback := true })

theorem readbackFault_due {s : State} {c : Ch} (up : s.loopUp c = true) (out : (s.ch c).mode.isLoopOut = true)
    (first : (s.ch c).loop.readback = false) (held : s.heldFor c .rbFault 500000 = true) : readbackFault c s =
    loopEvent c 9 (if bit (s.ch c).loop.word 9 then
      writeAlarm c (s.ch c).alarmTarget (fun ch => { ch.loop with alarm := !ch.parked }) (readbackOff c s) else readbackOff c s) := by
  simp [readbackFault, up, out, first, held, writeAlarm, readbackOff, withLoop_eq]

/-- A readback fault leaves level 5, or with ALMRB writes the alarm target into it (R143). -/
theorem readbackFault_spec {s : State} {c : Ch} (lone : (s.ch c).paired = false) (acts : (s.ch c).acts = [])
    (unparked : (s.ch c).parked = false) :
    let t := loopEvent c 9 (if bit (s.ch c).loop.word 9 then
      writeAlarm c (s.ch c).alarmTarget (fun ch => { ch.loop with alarm := !ch.parked }) (readbackOff c s) else readbackOff c s)
    (t.ch c).loop.readback = true ∧ (∀ d : Ch, d ≠ c → t.ch d = s.ch d) ∧
      (bit (s.ch c).loop.word 9 = false → (t.ch c).l5 = (s.ch c).l5 ∧ (t.ch c).out = (s.ch c).out) ∧
      (bit (s.ch c).loop.word 9 = true →
        (t.ch c).l5 = .cur (s.ch c).alarmTarget ∧ (t.ch c).loop.alarm = true ∧ t.settled c) := by
  intro t
  have off : OnlyCh c _ s (readbackOff c s) := assertFault_only c (Chan.withLoop _) s
  cases almrb : bit (s.ch c).loop.word 9 with
  | false =>
    have plain : t = loopEvent c 9 (readbackOff c s) := by simp [t, almrb]
    have only := off.loopEvent 9
    rw [← plain] at only
    obtain ⟨loop, out, l5, others⟩ := only.still rfl rfl
    exact ⟨congrArg Loop.readback loop, others, fun _ => ⟨l5, out⟩, (nomatch ·)⟩
  | true =>
    obtain ⟨command, settled, others⟩ := writeAlarm_spec (c := c) (s := readbackOff c s) (s.ch c).alarmTarget
      (fun ch => { ch.loop with alarm := !ch.parked }) (by rw [off.own]; exact lone) (by rw [off.own]; exact acts)
    rw [off.own] at command
    have noticed := OnlyCh.loopEvent ⟨rfl, others⟩ 9
    have written : t = loopEvent c 9 (writeAlarm c (s.ch c).alarmTarget (fun ch => { ch.loop with alarm := !ch.parked })
        (readbackOff c s)) := by simp only [t, almrb, if_true]
    rw [← noticed.own, ← written] at command
    refine ⟨command.readback, fun d hd => ?_, (nomatch ·), fun _ => ⟨?_, ?_, ?_⟩⟩
    · rw [written, noticed.others d hd, off.others d hd]
    · exact command.l5.trans (putL5_unparked unparked _)
    · exact command.alarm.trans (congrArg not unparked)
    · rw [written]
      exact notify_settled settled

theorem readbackFault_early {s : State} {c : Ch} (held : s.heldFor c .rbFault 500000 = false) : readbackFault c s = s := by
  simp [readbackFault, held]

/-! ### Wire break, short and fold-back (R144) -/

theorem loopBreak_detected {s : State} {c : Ch} (up : s.loopUp c = true) (whole : (s.ch c).loop.wireBreak = false)
    (held : s.heldFor c .breakOn 1000000 = true) : loopBreak c true s =
    loopEvent c 4 ((assertFault s).setCh c (Chan.withLoop fun ch => { ch.loop with wireBreak := true })) := by
  simp [loopBreak, up, whole, held, withLoop_eq]

theorem loopBreak_cleared {s : State} {c : Ch} (up : s.loopUp c = true) (broken : (s.ch c).loop.wireBreak = true)
    (held : s.heldFor c .breakOff (breakOffTicks (s.ch c).mode) = true) : loopBreak c false s =
    s.setCh c (Chan.withLoop fun ch => { ch.loop with wireBreak := false }) := by
  simp [loopBreak, up, broken, held, withLoop_eq]

/-- An input whose supply is short: AII folds it back (R144). -/
def Chan.shorted (aii : Bool) (raw : Nat) (ch : Chan) : Chan :=
  { ch with
    watch := ch.watch.filter (fun e => e.1 != .shortOn)
    loop := { ch.loop with short := true, folded := aii, foldAt := raw } }

theorem shorted_eq (aii : Bool) (raw : Nat) : Chan.shorted aii raw = fun ch => { ch with
    watch := ch.watch.filter (fun e => e.1 != .shortOn)
    loop := { ch.loop with short := true, folded := aii, foldAt := raw } } := rfl

theorem loopShort_detected {s : State} {c : Ch} (up : s.loopUp c = true) (mode : (s.ch c).mode = .aii ∨ (s.ch c).mode = .aip)
    (full : (s.ch c).loop.folded = false) (first : (s.ch c).loop.short = false ∨ (s.ch c).mode = .aii)
    (held : s.heldFor c .shortOn 1000000 = true) :
    loopShort c true s = loopEvent c 5 ((assertFault s).setCh c (Chan.shorted ((s.ch c).mode == .aii) s.sys.raw)) := by
  obtain aii | aip := mode
  · simp [loopShort, up, aii, full, held, shorted_eq]
  · simp [loopShort, up, aip, full, held, first.resolve_right (by simp [aip]), shorted_eq]

theorem loopShort_cleared {s : State} {c : Ch} (up : s.loopUp c = true) (mode : (s.ch c).mode = .aii ∨ (s.ch c).mode = .aip)
    (short : (s.ch c).loop.short = true) (held : s.heldFor c .shortOff 2000000 = true) :
    loopShort c false s = s.setCh c (Chan.withLoop fun ch => { ch.loop with short := false }) := by
  obtain aii | aip := mode
  · simp [loopShort, up, aii, short, held, withLoop_eq]
  · simp [loopShort, up, aip, short, held, withLoop_eq]

theorem loopShort_early {s : State} {c : Ch} (held : s.heldFor c .shortOn 1000000 = false) : loopShort c true s = s := by
  simp [loopShort, held]

theorem foldRetry_due {s : State} {c : Ch} (recovered : Bool) (mode : (s.ch c).mode = .aii) (up : (s.holm (bankOf c)).up = true)
    (live : (s.holm (bankOf c)).restarted = false) (folded : (s.ch c).loop.folded = true)
    (due : (s.ch c).loop.foldAt + 10000000 ≤ s.sys.raw) : foldRetry c recovered s =
    s.setCh c (Chan.withLoop fun ch => { ch.loop with folded := !recovered, foldAt := s.sys.raw }) := by
  simp [foldRetry, State.holmLive, mode, up, live, folded, due, withLoop_eq]

theorem foldRetry_early {s : State} {c : Ch} (recovered : Bool) (mode : (s.ch c).mode = .aii)
    (early : (s.ch c).loop.folded = false ∨ s.sys.raw < (s.ch c).loop.foldAt + 10000000) : foldRetry c recovered s = s := by
  obtain full | soon := early
  · simp [foldRetry, mode, Mode.isDigital, full]
  · simp [foldRetry, mode, Mode.isDigital, Nat.not_le.mpr soon]

/-! ### The statement -/

/-- Settles O49: each diagnosis is one update of its channel and a notice, and an alarm current goes on to one evaluation. -/
theorem loopDiagnosticsAndFallback : Obligations.LoopDiagnosticsAndFallback := by
  intro s c holmUp live lone acts unparked b k others l still
  have here : chAt b k = c := chAt_bankOf_posOf c
  refine ⟨fun mode => ?_, fun loop => ?_, fun mode => ?_, fun aii recovered => ⟨fun folded due => ?_, fun early => ?_⟩⟩
  · have out : (s.ch c).mode.isLoopOut = true := by obtain h | h := mode <;> simp [h, Mode.isLoopOut]
    have up : s.loopUp c = true := loopUp_of_live (by obtain h | h := mode <;> simp [h, Mode.isLoop]) holmUp live
    refine ⟨fun near held => ?_, fun held => ?_, fun short held => ?_, fun held => ?_,
      fun alarm open_ high first short level => ⟨fun due => ?_, fun early => ?_⟩, fun idle => ?_, fun first held => ?_, fun held => ?_⟩
    · exact ⟨_, congrArg Host.Outcome.next ((congrArg (compliance · true s) here).trans (compliance_begins up out near held)),
        OnlyCh.still ((OnlyCh.setCh c (Chan.withLoop _) s).loopEvent 1) rfl rfl⟩
    · exact congrArg Host.Outcome.next ((congrArg (compliance · true s) here).trans (compliance_begins_early held))
    · exact ⟨_, congrArg Host.Outcome.next ((congrArg (compliance · false s) here).trans (compliance_ends up out short held)),
        OnlyCh.still ((OnlyCh.setCh c (Chan.withLoop _) s).loopEvent 2) rfl rfl⟩
    · exact congrArg Host.Outcome.next ((congrArg (compliance · false s) here).trans (compliance_ends_early held))
    · have driven : (s.ch c).alarmDriven = true := by 
        simpa [Chan.alarmDriven, level, unparked] using And.intro alarm open_
      obtain ⟨command, settled, kept⟩ := alarmFallback_spec lone acts
      exact ⟨_, congrArg Host.Outcome.next ((congrArg (alarmFallback · s) here).trans
        (alarmFallback_due up out driven high first short due)), command.fallback, command.alarm.trans alarm,
        command.l5.trans (putL5_unparked unparked _), settled, kept⟩
    · exact congrArg Host.Outcome.next ((congrArg (alarmFallback · s) here).trans (alarmFallback_early early))
    · exact congrArg Host.Outcome.next ((congrArg (alarmFallback · s) here).trans (alarmFallback_idle idle))
    · obtain ⟨readback, kept, plain, write⟩ := readbackFault_spec lone acts unparked
      exact ⟨_, congrArg Host.Outcome.next ((congrArg (readbackFault · s) here).trans (readbackFault_due up out first held)),
        readback, kept, plain, write⟩
    · exact congrArg Host.Outcome.next ((congrArg (readbackFault · s) here).trans (readbackFault_early held))
  · have up : s.loopUp c = true := loopUp_of_live loop holmUp live
    refine ⟨fun whole held => ?_, fun broken held => ?_⟩
    · exact ⟨_, congrArg Host.Outcome.next ((congrArg (loopBreak · true s) here).trans (loopBreak_detected up whole held)),
        OnlyCh.still ((assertFault_only c (Chan.withLoop _) s).loopEvent 4) rfl rfl⟩
    · exact congrArg Host.Outcome.next ((congrArg (loopBreak · false s) here).trans (loopBreak_cleared up broken held))
  · have up : s.loopUp c = true := loopUp_of_live (by obtain h | h := mode <;> simp [h, Mode.isLoop]) holmUp live
    refine ⟨fun full first held => ?_, fun short held => ?_, fun held => ?_⟩
    · exact ⟨_, congrArg Host.Outcome.next ((congrArg (loopShort · true s) here).trans (loopShort_detected up mode full first held)),
        OnlyCh.still ((assertFault_only c (Chan.shorted _ s.sys.raw) s).loopEvent 5) rfl rfl⟩
    · exact congrArg Host.Outcome.next ((congrArg (loopShort · false s) here).trans (loopShort_cleared up mode short held))
    · exact congrArg Host.Outcome.next ((congrArg (loopShort · true s) here).trans (loopShort_early held))
  · exact congrArg Host.Outcome.next (foldRetry_due recovered aii holmUp live folded due)
  · exact congrArg Host.Outcome.next (foldRetry_early recovered aii early)

end Sys2Proof.Machine
end

section
/-! PROOFS. A priced command that finds nothing waiting in the Badger (R222, R226, R229, R239): the evaluation that its submission brings
lets it run at once. -/

namespace Sys2Proof.Machine

/-! ### The evaluation of one head -/

/-- The state without its ports and the Badger. -/
def State.unqueued (s : State) : State := { s with ports := State.reset.ports, badger := State.reset.badger }

/-- The head under which a priced command waits in the Badger. -/
def submitted (op : BitVec 16) (r : Req) (kind : PricedKind) (m : ClampMeas) (s : State) : Head :=
  Head.mk kind op (some r) (effPrio s r kind) (match s.slotOf op r with | some sl => sl.order | none => s.sys.accepted)
    (deadlineAt s op r) (if s.coreDown 6 then 0x0A else 0) false 0 m

/-- The state with the head of a priced command in the Badger. -/
def State.withHead (h : Head) (s : State) : State := s.setBadger fun b => { b with heads := b.heads ++ [h] }

/-- A command may be evaluated: C6 and Mainland serve, nothing waits in the Badger, and nothing else keeps it waiting. -/
structure Evaluable (op : BitVec 16) (r : Req) (s : State) : Prop where
  core : s.coreDown 6 = false
  power : s.sys.vddOk = true
  queue : s.badger.heads = []
  link : s.linkOk r.obj = true
  journal : s.mustWait r.obj = false
  heard : s.unheard r.obj = none
  legal : s.legalWaits op r = false

/-- A command that is free to run, as far as the Badger serves and holds no head. -/
theorem Ready.evaluable {op : BitVec 16} {r : Req} {s : State} (h : Ready op r s) (core : s.coreDown 6 = false)
    (queue : s.badger.heads = []) : Evaluable op r (s.running r) := by
  have ready := h.1
  simp only [State.opReady, State.coreServes, Bool.and_eq_true, Bool.not_eq_true'] at ready
  obtain ⟨⟨⟨⟨⟨power, -⟩, -⟩, legal⟩, journal⟩, -⟩ := ready
  exact ⟨core, power, queue, h.linkOk, journal, h.2.2, legal⟩

/-- What a submitted command is judged by: its declared cost, and the ledgers that it raises. -/
def submittedProfile (op : BitVec 16) (r : Req) (kind : PricedKind) (m : ClampMeas) (s : State) : Profile :=
  profileOf (s.withHead (submitted op r kind m s)) op (submitted op r kind m s).bytes kind

/-- An operation that leaves the Badger runs in a state that differs by its slot and the Badger. -/
theorem letRun_submitted (op : BitVec 16) (r : Req) (kind : PricedKind) (m : ClampMeas) (p : Profile) (s : State) :
    ∃ u, letRun (submitted op r kind m s) p (s.withHead (submitted op r kind m s)) = applyAdmitted (submitted op r kind m s) u ∧
      u.unqueued = s.unqueued := ⟨_, rfl, rfl⟩

theorem submitted_same (op : BitVec 16) (r : Req) (kind : PricedKind) (m : ClampMeas) (s : State) :
    (submitted op r kind m s).same (submitted op r kind m s) = true := by simp [Head.same, submitted]

/-- The accumulator with which the evaluation of a submitted command begins. -/
def evalStart (op : BitVec 16) (r : Req) (kind : PricedKind) (m : ClampMeas) (s : State) : EvalAcc :=
  EvalAcc.mk (s.withHead (submitted op r kind m s)) (s.withHead (submitted op r kind m s)).badger [] []

/-- A head of a command whose turn in an evaluation has come, with nothing that keeps it from being judged. -/
structure Judgeable (a : EvalAcc) (h : Head) (r : Req) : Prop where
  req : h.req = some r
  fresh : h.deferred = false
  waits : a.s.badger.heads.any (·.same h) = true
  link : a.s.linkOk r.obj = true
  journal : a.s.mustWait r.obj = false
  heard : a.s.unheard r.obj = none
  legal : a.s.legalWaits h.opcode r = false

theorem Judgeable.holds {a : EvalAcc} {h : Head} {r : Req} (j : Judgeable a h r) : a.s.headHolds h = true := by
  simp [State.headHolds, j.req]

theorem Judgeable.obj {a : EvalAcc} {h : Head} {r : Req} (j : Judgeable a h r) : h.obj = r.obj := by simp [Head.obj, j.req]

theorem Judgeable.kept {a : EvalAcc} {h : Head} {r : Req} (j : Judgeable a h r) : a.s.turnedAway h = none := by
  simp [State.turnedAway, j.req, j.fresh]

/-- A head of priority SAFETY, or one that raises no ledger, is let run (R222, R229). -/
theorem Judgeable.lets_at_once {a : EvalAcc} {h : Head} {r : Req} (j : Judgeable a h r) {p : Profile}
    (profile : profileOf (a.s.withLimits a.lims) h.opcode h.bytes h.kind = p)
    (timely : h.late a.s.sys.now = false ∨ raisedBy p h.kind.turnOn? = [])
    (free : h.prio = 3 ∨ raisedBy p h.kind.turnOn? = []) : (evalHead a h).s = letRun h p a.s := by
  have inTime : (h.late a.s.sys.now && (h.deferred || !(raisedBy p h.kind.turnOn?).isEmpty)) = false := by
    obtain late | none := timely <;> simp [j.fresh, *]
  have runs : (h.prio.toNat = 3 || (raisedBy p h.kind.turnOn?).isEmpty) = true := by
    obtain safety | none := free <;> simp [*]
  simp only [evalHead, j.waits, j.holds, j.obj, j.link, j.journal, j.heard, j.req, j.legal, j.kept, profile, inTime, runs]
  rfl

/-- The profile of an MRAM write (R222, R239). -/
def writeProfile (op : BitVec 16) (c : Ch) (n : Nat) : Profile := { Profile.none_ op c with mram := n }

/-- An MRAM write fits while the reserve of the hold-up covers its bytes (R239). -/
theorem failures_writeProfile {s : State} {alone : Bool} {prio : Nat} {op : BitVec 16} {c : Ch} {n : Nat}
    (reserve : s.den.bufBytes + n ≤ s.badger.reserveBytes) : failures s alone prio (writeProfile op c n) none = [] := by
  have fits : (if alone then 0 else s.den.bufBytes) + n ≤ s.badger.reserveBytes := by split <;> omega
  simp [failures, writeProfile, Profile.none_, Profile.raisesF, Profile.raisesX, Profile.raisesP, noSteps, flat, fits]

/-- An MRAM write that the reserve covers is let run beside closed ledgers and admissions of none (R226, R239). -/
theorem Judgeable.lets_write {a : EvalAcc} {h : Head} {r : Req} (j : Judgeable a h r) {c : Ch} {n : Nat}
    (profile : profileOf (a.s.withLimits a.lims) h.opcode h.bytes h.kind = writeProfile h.opcode c n) (on : h.kind.turnOn? = none)
    (timely : h.late a.s.sys.now = false) (blocked : a.blocked = []) (elastic : a.elastic = [])
    (reserve : a.s.den.bufBytes + n ≤ (a.s.withLimits a.lims).badger.reserveBytes) :
    (evalHead a h).s = letRun h (writeProfile h.opcode c n) a.s := by
  have flatWrite : (writeProfile h.opcode c n).raisesF = false := by simp [writeProfile, Profile.none_, Profile.raisesF, noSteps, flat]
  have fits (alone : Bool) : failures (a.s.withLimits a.lims) alone h.prio.toNat (writeProfile h.opcode c n) none = [] :=
    failures_writeProfile reserve
  have open_ (l : List (Nat × Nat)) : l.find? (fun _ => false) = none := List.find?_eq_none.mpr (by simp)
  simp [evalHead, j.waits, j.holds, j.obj, j.link, j.journal, j.heard, j.req, j.legal, j.kept, profile, on, timely, blocked, elastic,
    flatWrite, fits, open_, apply_ite]

section
variable {op : BitVec 16} {r : Req} {s : State} (e : Evaluable op r s) (kind : PricedKind) (m : ClampMeas)
include e

/-- A submission is one evaluation of its head, with threshold events and the report (R226, R240, R241). -/
theorem Evaluable.submit_unreported : (submit op r kind m s).unreported =
    (evalHead (evalStart op r kind m s) (submitted op r kind m s)).s.unreported := by
  have evaluated : submit op r kind m s = evaluate (s.withHead (submitted op r kind m s)) := by
    rw [submit, if_neg (by simp [State.setBadger, State.coreDown, show s.sys.failedEngines.any _ = false from e.core])]
    rfl
  have heads : (s.withHead (submitted op r kind m s)).badger.heads = [submitted op r kind m s] := by
    simp [State.withHead, State.setBadger, e.queue]
  have serves : ¬((s.withHead (submitted op r kind m s)).coreDown 6 || !(s.withHead (submitted op r kind m s)).sys.vddOk) = true := by
    simp [show (s.withHead _).coreDown 6 = false from e.core, show (s.withHead _).sys.vddOk = true from e.power]
  rw [evaluated, evaluate, if_neg serves, heads, sortHeads, List.mergeSort_singleton]
  exact (setReport_unreported _ _).trans (thresholdEvents_unreported _)

theorem Evaluable.judged : Judgeable (evalStart op r kind m s) (submitted op r kind m s) r where
  req := rfl
  fresh := rfl
  waits := by simp [evalStart, State.withHead, State.setBadger, e.queue, submitted_same]
  link := e.link
  journal := e.journal
  heard := e.heard
  legal := e.legal

/-- A command without a deadline that runs at SAFETY runs with its submission, and so does one that raises no ledger. -/
theorem Evaluable.runs_at_once
    (free : r.deadline = 0 ∧ effPrio s r kind = 3 ∨ raisedBy (submittedProfile op r kind m s) kind.turnOn? = []) :
    ∃ u, (submit op r kind m s).unreported = (applyAdmitted (submitted op r kind m s) u).unreported ∧ u.unqueued = s.unqueued := by
  obtain ⟨u, lets, same⟩ := letRun_submitted op r kind m (submittedProfile op r kind m s) s
  refine ⟨u, ?_, same⟩
  rw [e.submit_unreported, (e.judged kind m).lets_at_once rfl (free.imp (fun h => ?_) id) (free.imp And.right id)]
  · exact congrArg State.unreported lets
  · simp [submitted, Head.late, deadlineAt, h.1]

/-- A command without a deadline that writes to MRAM runs with its submission while the reserve covers its bytes (R239). -/
theorem Evaluable.runs_write {c : Ch} {n : Nat} (undated : r.deadline = 0)
    (profile : submittedProfile op r kind m s = writeProfile op c n) (on : kind.turnOn? = none)
    (reserve : s.den.bufBytes + n ≤ s.badger.reserveBytes) :
    ∃ u, (submit op r kind m s).unreported = (applyAdmitted (submitted op r kind m s) u).unreported ∧ u.unqueued = s.unqueued := by
  obtain ⟨u, lets, same⟩ := letRun_submitted op r kind m (writeProfile op c n) s
  refine ⟨u, ?_, same⟩
  rw [e.submit_unreported, (e.judged kind m).lets_write (c := c) (n := n) profile on
    (by simp [submitted, Head.late, deadlineAt, undated]) rfl rfl reserve]
  exact congrArg State.unreported lets

end

end Sys2Proof.Machine
end

section
/-! PROOFS. A lone channel that level 5 governs (R35, R146, R149): which changes leave it there, and where an evaluation then stands it. -/

namespace Sys2Proof.Machine

/-- What of a channel decides its level: not what level 5 demands, nor its loop. -/
def Chan.leveled (ch : Chan) : Chan := { ch.settings with acts := ch.acts, loop := Loop.reset .factory }

/-- The current or state that level 5 demands of a channel that is not parked, a trim code's in a session (R146). -/
def Chan.demanded (ch : Chan) : Demand :=
  match ch.loop.trimNa with
  | some n => .cur n
  | none => normDemand ch.mode ch.l5

/-- A channel alone and neither parked nor in the break of a mode change, that level 5 governs. -/
structure AtFive (c : Ch) (s : State) : Prop where
  lone : (s.ch c).paired = false
  unbroken : (s.ch c).inBreak = false
  unparked : (s.ch c).parked = false
  level : (s.govern c).1 = 5

theorem AtFive.congr {c : Ch} {s t : State} (h : AtFive c s) (chan : (t.ch c).leveled = (s.ch c).leveled)
    (holm : SameBurrow (s.holm (bankOf c)) (t.holm (bankOf c))) : AtFive c t := by
  have paired : (t.ch c).paired = (s.ch c).paired := (congrArg Chan.paired chan :)
  have unbroken : (t.ch c).inBreak = (s.ch c).inBreak := (congrArg Chan.inBreak chan :)
  have parked : (t.ch c).parked = (s.ch c).parked := (congrArg Chan.parked chan :)
  have mode : (t.ch c).mode = (s.ch c).mode := (congrArg Chan.mode chan :)
  have locks : (t.ch c).locks = (s.ch c).locks := (congrArg Chan.locks chan :)
  have l3 : (t.ch c).l3 = (s.ch c).l3 := (congrArg Chan.l3 chan :)
  have bmap : (t.ch c).bmap = (s.ch c).bmap := (congrArg Chan.bmap chan :)
  have action : (t.ch c).action = (s.ch c).action := (congrArg Chan.action chan :)
  have lead : t.lead c = c := lead_of_unpaired (paired.trans h.lone)
  have live : t.holmLive (bankOf c) = s.holmLive (bankOf c) := by simp only [State.holmLive, holm.restarted]
  have locked : t.locked c = s.locked c := by simp [State.locked, State.members, paired, h.lone, locks]
  have burrow : t.burrowOn c = s.burrowOn c := by
    simp only [burrowOn_eq, mode, bmap, lead, lead_of_unpaired h.lone, holm.up, holm.burEn, holm.mapHere]
  refine ⟨paired.trans h.lone, unbroken.trans h.unbroken, parked.trans h.unparked, ?_⟩
  rw [← h.level]
  simp only [govern_level, mode, live, locked, unbroken, burrow, lead, lead_of_unpaired h.lone, l3, actFor_eq, action]

theorem AtFive.of_chans {c : Ch} {s t : State} (h : AtFive c s) (chans : t.chans = s.chans)
    (holm : SameBurrow (s.holm (bankOf c)) (t.holm (bankOf c))) : AtFive c t :=
  h.congr (by simp only [State.ch, chans]) holm

theorem AtFive.setCh {c : Ch} {s : State} (h : AtFive c s) {f : Chan → Chan} (kept : (f (s.ch c)).leveled = (s.ch c).leveled) :
    AtFive c (s.setCh c f) := h.congr (by rw [State.setCh_ch_self, kept]) ⟨rfl, rfl, rfl, rfl, rfl⟩

theorem AtFive.govern {c : Ch} {s : State} (h : AtFive c s) : s.govern c = (5, (s.ch c).demanded) := by
  obtain ⟨lone, unbroken, unparked, level⟩ := h
  revert level
  unfold State.govern Chan.demanded
  simp only [lead_of_unpaired lone, unbroken, unparked]
  repeat' split
  all_goals simp_all

/-- From s to t a channel becomes x up to what an evaluation writes, and stands at level 5 where x demands; no other channel changes. -/
structure Demanded (c : Ch) (x : Chan) (s t : State) : Prop where
  driven : (t.ch c).driven = x.driven
  level : (t.ch c).level = 5
  out : (t.ch c).out = x.demanded
  others : ∀ d : Ch, d ≠ c → t.ch d = s.ch d

theorem Demanded.l5 {c : Ch} {x : Chan} {s t : State} (h : Demanded c x s t) : (t.ch c).l5 = x.l5 := (congrArg Chan.l5 h.driven :)

/-- The loop of a channel but for its ramp. -/
theorem Demanded.loop {c : Ch} {x : Chan} {s t : State} (h : Demanded c x s t) :
    { (t.ch c).loop with rampFrom := 0, rampAt := 0 } = { x.loop with rampFrom := 0, rampAt := 0 } := (congrArg Chan.loop h.driven :)

theorem Demanded.after {c : Ch} {x : Chan} {s t u : State} (h : Demanded c x s t) (chans : u.chans = t.chans) : Demanded c x s u := by
  have same (d : Ch) : u.ch d = t.ch d := by simp only [State.ch, chans]
  exact ⟨by rw [same, h.driven], by rw [same, h.level], by rw [same, h.out], fun d hd => (same d).trans (h.others d hd)⟩

/-- An evaluation of a channel that has become x and that level 5 governs. -/
theorem AtFive.evalOut {c : Ch} {x : Chan} {s u : State} (h : AtFive c u) (only : OnlyCh c x s u) :
    Demanded c x s (evalOut c u) ∧ AtFive c (evalOut c u) := by
  have driven := evalOne_driven h.level c
  have stands : (evalOne c u).standing c = (5, (u.ch c).demanded) := by rw [evalOne_standing, if_pos rfl, h.govern]
  rw [evalOut_of_unpaired h.lone]
  rw [only.own] at driven stands
  refine ⟨⟨driven, congrArg Prod.fst stands, congrArg Prod.snd stands, fun d hd => ?_⟩, h.congr ?_ ((evalOne_outputs c u).burrow _)⟩
  · exact (evalOne_others h.lone hd).trans (only.others d hd)
  · rw [only.own]
    exact (congrArg Chan.leveled driven :)

end Sys2Proof.Machine
end

section
/-! PROOFS. The loop's commands (R135, R136, R138, R142, R146 to R148): the word, the current and the trim session of a loop channel, and
the statement on LOOP.CFG, LOOP.SET and LOOP.TRIM. -/

namespace Sys2Proof.Machine

/-! ### Commands of a lone channel at level 5 -/

theorem Demanded.before {c : Ch} {x : Chan} {s t u : State} (h : Demanded c x t u) (chans : t.chans = s.chans) : Demanded c x s u :=
  ⟨h.driven, h.level, h.out, fun d hd => (h.others d hd).trans (by simp only [State.ch, chans])⟩

/-- A command on a channel completes OK at once after a calm step within its instant. -/
theorem finish_calm {op : BitVec 16} {r : Req} {c : Ch} {s t : State} (hc : chOf r.obj = some c) (link : s.linkOk r.obj = true)
    (quiet : calm.rel s t) (now : t.sys.now = s.sys.now) :
    Completion.mk r op (r.tag == 0) stOK [] s.sys.now ∈ (finish op r stOK [] 0 t).completions := by
  have bank : objBank r.obj = some (bankOf c) := by simp [objBank, hc]
  simp only [State.linkOk, bank] at link
  exact finish_now bank ((quiet.holm _).link.trans link) now

/-- The Badger's part in a command and its slot leave what level 5 governs. -/
theorem AtFive.unqueued {c : Ch} {s u : State} (h : AtFive c s) (same : u.unqueued = s.unqueued) : AtFive c u := by
  have holms : u.holms = s.holms := (congrArg State.holms same :)
  refine h.of_chans (congrArg State.chans same :) ?_
  simp only [State.holm, holms]
  exact ⟨rfl, rfl, rfl, rfl, rfl⟩

/-- A channel command that is free to run and does not complete at once leaves the state that its own part answers. -/
theorem Ready.held_ch {op : BitVec 16} {r : Req} {s t : State} {c : Ch} {body : Ch → State → Res} (ready : Ready op r s)
    (hc : chOf r.obj = some c) (held : body c (s.running r) = .held t) : runCh op r s body = t :=
  runMail_held ready (by simp only [hc]; exact held)

/-! ### LOOP.CFG -/

/-- A channel with a new loop word (R135, R142). -/
def Chan.givenWord (w : BitVec 64) (high : Bool) (now : Nat) (ch : Chan) : Chan :=
  ch.withLoop fun ch => { ch.loop with
    word := w
    dirHigh := high
    cls := if bit w 8 then ch.loop.cls else 2
    rampFrom := ch.rampNow now
    rampAt := now }

theorem loopCfg_ok {r : Req} {c : Ch} {s : State} {w : BitVec 64} (payload : r.payload = le64 w.toNat)
    (reserved : w &&& 0x00000000FF00F0FF#64 = 0)
    (valid : ((s.ch c).mode.isLoopOut = true ∧ 21000 ≤ fld w 63 48 ∧ fld w 63 48 ≤ 23000 ∧ 3500 ≤ fld w 47 32 ∧
          fld w 47 32 ≤ 3600 ∧ fld w 11 10 ≠ 3 ∧ bit w 8 = false ∧
          (alarmDir (s.holm (bankOf c)).strap (fld w 11 10)).2 = true) ∨
        ((s.ch c).mode.isLoop = true ∧ (s.ch c).mode.isLoopOut = false ∧ fld w 63 48 = 0x53FC ∧ fld w 47 32 = 0x0DDE ∧
          fld w 23 16 = 0 ∧ fld w 11 10 = 0 ∧ bit w 9 = true)) :
    loopCfg r c s = ok (setLoopWord c w s) := by
  have word : word64 r.payload 0 = w := by rw [payload, word64_le64]
  have length : r.payload.length = 8 := by simp [payload, le64]
  have reserved' : rsvZero w 0x00000000FF00F0FF#64 = true := rsvZero_of_and reserved
  obtain ⟨out, high, highest, low, lowest, dir, class_, stands⟩ | ⟨loop, input, high, low, slew, dir, almrb⟩ := valid
  · have loop : (s.ch c).mode.isLoop = true := by cases m : (s.ch c).mode <;> simp_all [Mode.isLoopOut, Mode.isLoop]
    simp [loopCfg, checked, firstFail, word, length, reserved', loop, out, loopRange, loopForeign, high, highest, low, lowest, dir, class_,
      stands]
  · simp [loopCfg, checked, firstFail, word, length, reserved', loop, input, loopForeign, high, low, slew, dir, almrb]

theorem setLoopWord_eq (c : Ch) (w : BitVec 64) (s : State) : setLoopWord c w s =
    s.setCh c (Chan.givenWord w (alarmDir (s.holm (bankOf c)).strap (fld w 11 10)).1 s.sys.now) := rfl

/-! ### LOOP.SET -/

/-- An output that takes a demand by command, or its alarm. -/
def Chan.takes (d : Demand) (alarm : Bool) (ch : Chan) : Chan :=
  { ch with
    l5 := ch.putL5 d
    loop := { ch.loop with alarm := alarm, fallback := ch.loop.fallback && alarm, readback := false } }

/-- What a LOOP.SET to a current, or to the alarm, makes level 5 demand (R136, R140). -/
def Chan.target (ch : Chan) (n : Nat) (alarm : Bool) : Demand := if alarm then .cur ch.alarmTarget else .cur n

theorem setDemand_loop {c : Ch} {s : State} {n : Nat} {alarm : Bool} (lone : (s.ch c).paired = false)
    (out : (s.ch c).mode.isLoopOut = true) :
    setDemand c (.cur n) alarm s = s.setCh c (Chan.takes ((s.ch c).target n alarm) alarm) := by
  rw [setDemand, setL5_lone lone]
  simp only [State.setCh_ch_self, out, if_true, setCh_setCh]
  rfl

/-- A LOOP.SET that the Badger has let run, on a bank without a QUIET bridge (R136, R212). -/
theorem levelChange_spec {op : BitVec 16} {r : Req} {c : Ch} {s : State} {n : Nat} {alarm : Bool} {m : ClampMeas} (five : AtFive c s)
    (out : (s.ch c).mode.isLoopOut = true) (still : s.movedTo (bankOf c) = none) (hc : chOf r.obj = some c)
    (link : s.linkOk r.obj = true) :
    Demanded c ((s.ch c).takes ((s.ch c).target n alarm) alarm) s (levelChange c (.cur n) alarm m op r s) ∧
      Completion.mk r op (r.tag == 0) stOK [] s.sys.now ∈ (levelChange c (.cur n) alarm m op r s).completions := by
  have drive : (s.ch c).mode.isSwitch = false := by cases h : (s.ch c).mode <;> simp_all [Mode.isLoopOut, Mode.isSwitch]
  have runs : levelChange c (.cur n) alarm m op r s =
      finish op r stOK [] 0 (evalOut c (s.setCh c (Chan.takes ((s.ch c).target n alarm) alarm))) := by
    simp [levelChange, levelRun, five.level, still, setDemand_loop five.lone out, clampAfter, drive]
  rw [runs]
  refine ⟨Demanded.after ?_ (finish_chans ..), finish_calm hc link (calm.keeps (by simp)) (now_of_anchor (by simp))⟩
  exact ((five.setCh rfl).evalOut (.setCh c _ s)).1

theorem cancelRestore_idle {c : Ch} {s : State} (restore : (s.ch c).restore = .none) (presag : (s.ch c).presag = none) :
    cancelRestore c s = s := by
  simp only [cancelRestore, restore, Chan.restoreDue, presag, Bool.and_false, Bool.or_false, bne_self_eq_false,
    Bool.false_eq_true, if_false]
  exact setCh_same _ _ _ (by rw [← restore, ← presag])

/-- A LOOP.SET that the Badger lets run with its submission. -/
theorem loopSet_runs {r : Req} {c : Ch} {s : State} {n : Nat} {alarm : Bool} {m : ClampMeas} (e : Evaluable 0x0602 r s)
    (five : AtFive c s) (out : (s.ch c).mode.isLoopOut = true) (quiet : s.quietRates (bankOf c) = []) (hc : chOf r.obj = some c)
    (free : r.deadline = 0 ∧ effPrio s r (.loopSet c n alarm) = 3 ∨
      raisedBy (submittedProfile 0x0602 r (.loopSet c n alarm) m s) (PricedKind.turnOn? (.loopSet c n alarm)) = []) :
    Demanded c ((s.ch c).takes ((s.ch c).target n alarm) alarm) s (submit 0x0602 r (.loopSet c n alarm) m s) ∧
      Completion.mk r 0x0602 (r.tag == 0) stOK [] s.sys.now ∈ (submit 0x0602 r (.loopSet c n alarm) m s).completions := by
  obtain ⟨u, ran, same⟩ := e.runs_at_once (.loopSet c n alarm) m free
  have chans : u.chans = s.chans := (congrArg State.chans same :)
  have own : u.ch c = s.ch c := by simp only [State.ch, chans]
  have still : u.movedTo (bankOf c) = none := by
    rw [show u.movedTo (bankOf c) = s.movedTo (bankOf c) from (congrArg (·.movedTo (bankOf c)) same :)]
    simp [State.movedTo, State.quietDue, quiet]
  have link : u.linkOk r.obj = true := (congrArg (·.linkOk r.obj) same :).trans e.link
  obtain ⟨demanded, done⟩ := levelChange_spec (op := 0x0602) (n := n) (alarm := alarm) (m := m) (five.unqueued same)
    (by rw [own]; exact out) still hc link
  rw [own] at demanded
  rw [show u.sys = s.sys from (congrArg State.sys same :)] at done
  exact ⟨(demanded.before chans).after (congrArg State.chans ran :), (congrArg State.completions ran :) ▸ done⟩

/-- A current that raises no load raises no ledger (R138, R222). -/
theorem loopSet_raises_nothing {op : BitVec 16} {r : Req} {c : Ch} {s : State} {n : Nat} {m : ClampMeas} (low : n ≤ (s.ch c).outNa) :
    raisedBy (submittedProfile op r (.loopSet c n false) m s) (PricedKind.turnOn? (.loopSet c n false)) = [] := by
  have same : (s.withHead (submitted op r (.loopSet c n false) m s)).ch c = s.ch c := rfl
  simp [submittedProfile, profileOf, loopProfile, same, Nat.sub_eq_zero_of_le low, raisedBy, Profile.none_, Profile.raisesF,
    Profile.raisesX, Profile.raisesP, noSteps, flat, PricedKind.turnOn?]

theorem loopSet_current {r : Req} {c : Ch} {s : State} {i : BitVec 32} (out : (s.ch c).mode.isLoopOut = true)
    (session : (s.ch c).loop.session = .none) (five : AtFive c s) (restore : (s.ch c).restore = .none)
    (presag : (s.ch c).presag = none) (payload : r.payload = le32 i.toNat ++ [0, 0, 0, 0]) (most : i.toNat ≤ 24000000)
    (least : (s.ch c).mode = .aot → 3500000 ≤ i.toNat) :
    loopSet r c s = .held (submit 0x0602 r (.loopSet c i.toNat false) (ClampMeas.mk []) s) := by
  have current : leAt r.payload 0 4 = i.toNat := by rw [payload, leAt_le32]
  have length : r.payload.length = 8 := by simp [payload, le32]
  have flags : byteAt r.payload 4 = 0 := by simp [payload, le32, leBytes, byteAt]
  have zero : zeroBytes r.payload 5 3 = true := by simp [payload, zeroBytes, le32, leBytes]
  have plain : bit (0 : Byte) 0 = false := by decide
  have reserved : rsvZero (0 : Byte) 0xFE = true := by decide
  have range : ((s.ch c).mode != .aot || decide (3500000 ≤ i.toNat)) = true := by
    by_cases aot : (s.ch c).mode = .aot
    · simp [least aot]
    · simp [aot]
  simp only [loopSet, checked, firstFail, current, length, flags, zero, plain, reserved, range, out, session, five.unparked, five.level,
    loopTarget, cancelRestore_idle restore presag, most]
  simp

theorem loopSet_alarm {r : Req} {c : Ch} {s : State} (out : (s.ch c).mode.isLoopOut = true)
    (session : (s.ch c).loop.session = .none) (five : AtFive c s) (restore : (s.ch c).restore = .none)
    (presag : (s.ch c).presag = none) (payload : r.payload = [0, 0, 0, 0, 1, 0, 0, 0]) :
    loopSet r c s = .held (submit 0x0602 r (.loopSet c (s.ch c).alarmTarget true) (ClampMeas.mk []) s) := by
  have alarm : bit (1 : Byte) 0 = true := by decide
  have reserved : rsvZero (1 : Byte) 0xFE = true := by decide
  have flags : byteAt r.payload 4 = 1 := by simp [payload, byteAt]
  have current : leAt r.payload 0 4 = 0 := by simp [payload, leAt, byteAt]
  have zero : zeroBytes r.payload 5 3 = true := by simp [payload, zeroBytes]
  have length : r.payload.length = 8 := by simp [payload]
  simp only [loopSet, checked, firstFail, current, length, flags, zero, alarm, reserved, out, session, five.unparked, five.level,
    loopTarget, cancelRestore_idle restore presag]
  simp

theorem normDemand_current {m : Mode} {n : Nat} (out : m.isLoopOut = true) (most : n ≤ 24000000) (least : m = .aot → 3500000 ≤ n) :
    normDemand m (.cur n) = .cur n := by
  cases m <;> simp_all [Mode.isLoopOut, normDemand]

/-- A current or an alarm at level 5 outside a trim session (R136, R146). -/
theorem takes_demanded {ch : Chan} {d : Demand} {alarm : Bool} (session : ch.loop.session = .none) (unparked : ch.parked = false) :
    (ch.takes d alarm).l5 = d ∧ (ch.takes d alarm).demanded = normDemand ch.mode d := by
  have l5 : (ch.takes d alarm).l5 = d := putL5_unparked unparked d
  refine ⟨l5, ?_⟩
  rw [Chan.demanded, l5]
  simp [Chan.takes, Loop.trimNa, session]

/-! ### LOOP.TRIM -/

/-- An output in a trim session, or out of it. -/
def Chan.inSession (t : TrimSession) (ch : Chan) : Chan := { ch with loop := { ch.loop with session := t } }

/-- A step of the trim session: the output stands at the code's current, or where level 5 demands (R146). -/
theorem setSession_spec {c : Ch} {s : State} (five : AtFive c s) (t : TrimSession) :
    Demanded c ((s.ch c).inSession t) s (setSession c t s) := ((five.setCh rfl).evalOut (.setCh c (Chan.inSession t) s)).1

theorem setSession_calm (c : Ch) (t : TrimSession) (s : State) : calm.rel s (setSession c t s) := calm.keeps (by simp [setSession])

/-- A loop output with another trim. -/
def Chan.trimmed (t : Trim) (ch : Chan) : Chan := { ch with loop := { ch.loop with trim := t } }

theorem legalTakes_records (obj : BitVec 16) (s : State) : RecordsOnly s (legalTakes obj s) := by
  unfold legalTakes
  split
  · exact (setDen_records _ _).trans (raise_records ..)
  · exact .refl s

/-- A trim that is written stands, and ends the session (R146, R148). -/
theorem trimApply_spec {op : BitVec 16} {r : Req} {c : Ch} {s : State} {m4 m20 : Nat} {factory : Bool} (five : AtFive c s)
    (plain : s.isLegal c = false) (reads : s.configReads = true) (hc : chOf r.obj = some c) (link : s.linkOk r.obj = true) :
    let t := trimApply c m4 m20 factory op r s
    (t.ch c).loop.session = .none ∧ (t.ch c).loop.trim = (if factory then .factory else .user m4 m20) ∧
      (∀ d : Ch, d ≠ c → t.ch d = s.ch d) ∧ Completion.mk r op (r.tag == 0) stOK [] s.sys.now ∈ t.completions := by
  intro t
  let trim : Trim := if factory then .factory else .user m4 m20
  let u := denEvent 2 0xFF (chObj c) (le32 m4 ++ le32 m20) (legalTakes r.obj (s.setCh c (Chan.trimmed trim)))
  have records : RecordsOnly (s.setCh c (Chan.trimmed trim)) u := (legalTakes_records ..).trans (denEvent_records ..)
  have only : OnlyCh c ((s.ch c).trimmed trim) s u := (OnlyCh.setCh c (Chan.trimmed trim) s).after records.chans
  have trimmed : AtFive c u := by
    refine (five.setCh rfl : AtFive c (s.setCh c (Chan.trimmed trim))).of_chans records.chans ?_
    simp only [State.holm, records.holms]
    exact ⟨rfl, rfl, rfl, rfl, rfl⟩
  obtain ⟨written, stays⟩ := trimmed.evalOut only
  have ended := setSession_spec stays .none
  have eq : t = finish op r stOK [] 0 (setSession c .none (evalOut c u)) := by
    simp [t, trimApply, legalNote, plain, reads]
    rfl
  have done := ended.after (finish_chans op r stOK [] 0 (setSession c .none (evalOut c u)))
  rw [← eq] at done
  refine ⟨(congrArg Loop.session done.loop :), ?_, fun d hd => (done.others d hd).trans (written.others d hd), ?_⟩
  · exact (congrArg Loop.trim done.loop :).trans (congrArg Loop.trim written.loop :)
  · rw [eq]
    exact finish_calm hc link (calm.keeps (by simp [setSession, u])) (now_of_anchor (by simp [u]))

/-- A trim that the Badger lets run with its submission: nothing waits, and the reserve covers its bytes (R239). -/
theorem trim_runs {r : Req} {c : Ch} {s : State} {m4 m20 : Nat} {factory : Bool} {m : ClampMeas} (e : Evaluable 0x0603 r s)
    (five : AtFive c s) (plain : s.isLegal c = false) (reads : s.configReads = true) (hc : chOf r.obj = some c)
    (undated : r.deadline = 0) (length : r.payload.length = 8) (reserve : s.den.bufBytes + 8 ≤ s.badger.reserveBytes) :
    let t := submit 0x0603 r (.mramTrim c m4 m20 factory) m s
    Completion.mk r 0x0603 (r.tag == 0) stOK [] s.sys.now ∈ t.completions ∧ (t.ch c).loop.session = .none ∧
      (t.ch c).loop.trim = (if factory then .factory else .user m4 m20) ∧ ∀ d : Ch, d ≠ c → t.ch d = s.ch d := by
  intro t
  have profile : submittedProfile 0x0603 r (.mramTrim c m4 m20 factory) m s = writeProfile 0x0603 c 8 := by
    rw [← length]
    rfl
  obtain ⟨u, ran, same⟩ := e.runs_write (.mramTrim c m4 m20 factory) m undated profile rfl reserve
  obtain ⟨session, trim, others, done⟩ := trimApply_spec (op := 0x0603) (r := r) (m4 := m4) (m20 := m20) (factory := factory)
    (five.unqueued same) ((congrArg (·.isLegal c) same :).trans plain) ((congrArg State.configReads same :).trans reads) hc
    ((congrArg (·.linkOk r.obj) same :).trans e.link)
  have chans : u.chans = s.chans := (congrArg State.chans same :)
  have own (d : Ch) : t.ch d = (trimApply c m4 m20 factory 0x0603 r u).ch d := (congrArg (·.ch d) ran :)
  rw [show u.sys = s.sys from (congrArg State.sys same :)] at done
  refine ⟨(congrArg State.completions ran :) ▸ done, ?_, ?_, fun d hd => ?_⟩
  · rw [own, session]
  · rw [own, trim]
  · rw [own, others d hd]
    simp only [State.ch, chans]

/-- The checks of a LOOP.TRIM on a loop output that is not legal. -/
theorem loopTrim_eq {r : Req} {c : Ch} {s : State} (plain : s.isLegal c = false) (out : (s.ch c).mode.isLoopOut = true)
    (length : r.payload.length = 8) (zero : zeroBytes r.payload 1 3 = true) : loopTrim r c s = trimStep r c s := by
  simp [loopTrim, checked, firstFail, State.legalOk, plain, out, length, zero]

/-- A LOOP.TRIM whose payload is a step and a measured current. -/
theorem loopTrim_measured {r : Req} {c : Ch} {s : State} {k : Byte} {m : BitVec 32} (plain : s.isLegal c = false)
    (out : (s.ch c).mode.isLoopOut = true) (payload : r.payload = [k, 0, 0, 0] ++ le32 m.toNat) :
    loopTrim r c s = trimStep r c s ∧ byteAt r.payload 0 = k ∧ leAt r.payload 4 4 = m.toNat := by
  refine ⟨loopTrim_eq plain out (by simp [payload, le32]) (by simp [payload, zeroBytes]), by simp [payload, byteAt], ?_⟩
  rw [payload, show 4 = 4 + 0 from rfl, leAt_append (by rfl), ← List.append_nil (le32 m.toNat), leAt_le32]

theorem trimStep_start {r : Req} {c : Ch} {s : State} (first : byteAt r.payload 0 = 1) (session : (s.ch c).loop.session = .none)
    (five : AtFive c s) : trimStep r c s = ok (setSession c .atC4 s) := by
  simp [trimStep, first, session, five.level]

theorem trimStep_p4 {r : Req} {c : Ch} {s : State} (first : byteAt r.payload 0 = 2) (session : (s.ch c).loop.session = .atC4) :
    trimStep r c s = ok (setSession c (.atC20 (leAt r.payload 4 4)) s) := by
  simp [trimStep, first, session]

theorem trimStep_p20 {r : Req} {c : Ch} {s : State} {m4 : Nat} (first : byteAt r.payload 0 = 3)
    (session : (s.ch c).loop.session = .atC20 m4) : trimStep r c s =
      if trimOk m4 (leAt r.payload 4 4) then .held (submit 0x0603 r (.mramTrim c m4 (leAt r.payload 4 4) false) (ClampMeas.mk []) s)
      else .done s stE_RANGE [] 0 := by
  simp [trimStep, first, session]

theorem trimStep_stop {r : Req} {c : Ch} {s : State} (first : byteAt r.payload 0 = 0) (session : (s.ch c).loop.session ≠ .none) :
    trimStep r c s = ok (setSession c .none s) := by
  cases h : (s.ch c).loop.session with
  | none => exact absurd h session
  | atC4 => simp [trimStep, first, h]
  | atC20 m4 => simp [trimStep, first, h]

theorem trimStep_reset {r : Req} {c : Ch} {s : State} (first : byteAt r.payload 0 = 4) (session : (s.ch c).loop.session = .none)
    (five : AtFive c s) : trimStep r c s = .held (submit 0x0603 r (.mramTrim c 0 0 true) (ClampMeas.mk []) s) := by
  simp [trimStep, first, session, five.level]

theorem trimOk_iff {m4 m20 : Nat} : trimOk m4 m20 = true ↔ 3600125 ≤ m4 ∧ m4 ≤ 4400125 ∧ 19599875 ≤ m20 ∧ m20 ≤ 20399875 := by
  simp only [trimOk, decide_eq_true_eq]
  omega

/-- A step that moves the session completes OK, and the output stands at level 5. -/
theorem session_step {r : Req} {c : Ch} {s : State} {t : TrimSession} (ready : Ready 0x0603 r s) (hc : chOf r.obj = some c)
    (five : AtFive c s) (step : loopTrim r c (s.running r) = ok (setSession c t (s.running r))) :
    ∃ u, exec (.loopTrim r) s = .next u ∧ Completion.mk r 0x0603 (r.tag == 0) stOK [] s.sys.now ∈ u.completions ∧
      (u.ch c).loop.session = t ∧ (u.ch c).out = ((s.ch c).inSession t).demanded ∧ (u.ch c).loop.trim = (s.ch c).loop.trim ∧
      ∀ d : Ch, d ≠ c → u.ch d = s.ch d := by
  obtain ⟨done, chans⟩ := runCh_ok ready hc step (setSession_calm ..) (now_of_anchor (setSession_anchor ..))
  have moved := setSession_spec (five.unqueued rfl : AtFive c (s.running r)) t
  refine ⟨_, rfl, done, ?_, ?_, ?_, fun d hd => (chans d).trans (moved.others d hd)⟩ <;> rw [chans c]
  · exact (congrArg Loop.session moved.loop :)
  · exact moved.out
  · exact (congrArg Loop.trim moved.loop :)

/-! ### The statement -/

/-- Settles O24: the word is one update of its channel; a current, an alarm and a step of the trim session are each one evaluation at
level 5, those that are priced with the evaluation of their one head. -/
theorem loopCommandsSetWordCurrentAndTrimSession : Obligations.LoopCommandsSetWordCurrentAndTrimSession := by
  intro r s c hc lone done
  have atFive {op : BitVec 16} (ready : Ready op r s) (unparked : (s.ch c).parked = false) (level : (s.govern c).1 = 5) : AtFive c s :=
    ⟨lone, by simp [Chan.inBreak, ready.changing hc], unparked, level⟩
  refine ⟨fun w ready payload reserved valid => ?_,
    fun out ready session unparked level restore presag quiet core =>
      ⟨fun i payload queue most least low => ?_, fun payload undated queue => ?_⟩,
    fun out plain unparked ready level =>
      ⟨fun payload session => ?_, fun m payload session => ?_, fun payload session => ?_, fun m4 m payload session wide => ?_,
       fun undated queue core reads reserve => ⟨fun m4 m payload session low4 high4 low20 high20 => ?_, fun payload session => ?_⟩⟩⟩
  · obtain ⟨t, step, completed⟩ := ready.completes_ch (cmd := .loopCfg r) hc rfl (loopCfg_ok (s := s.running r) payload reserved valid)
      rfl rfl rfl
    have own : t.ch c = (s.ch c).givenWord w (alarmDir (s.holm (bankOf c)).strap (fld w 11 10)).1 s.sys.now := by
      rw [show t.ch c = (setLoopWord c w (s.running r)).ch c from (congrArg (·.ch c) completed.2 :), setLoopWord_eq, State.setCh_ch_self]
      rfl
    refine ⟨t, step, ?_, ?_⟩
    · rw [setLoopWord_eq, setCh_congr (g := fun ch => { ch with loop := (t.ch c).loop }) (by rw [own]; rfl)] at completed
      exact completed
    · rw [own]
      exact ⟨rfl, rfl, rfl, rfl⟩
  · have five : AtFive c (s.running r) := (atFive ready unparked level).unqueued rfl
    have held := ready.held_ch hc (loopSet_current out session five restore presag payload most least)
    obtain ⟨set, ok⟩ := loopSet_runs (m := ClampMeas.mk []) (ready.evaluable core queue) five out quiet hc
      (.inr (loopSet_raises_nothing low))
    obtain ⟨l5, demanded⟩ := takes_demanded (ch := s.ch c) (d := .cur i.toNat) (alarm := false) session unparked
    exact ⟨_, congrArg Host.Outcome.next held, ok, set.l5.trans l5, set.out.trans (demanded.trans (normDemand_current out most least)),
      set.level, (congrArg Loop.alarm set.loop :), (congrArg Loop.word set.loop :), set.others⟩
  · have five : AtFive c (s.running r) := (atFive ready unparked level).unqueued rfl
    have held := ready.held_ch hc (loopSet_alarm out session five restore presag payload)
    obtain ⟨set, ok⟩ := loopSet_runs (n := (s.ch c).alarmTarget) (alarm := true) (m := ClampMeas.mk []) (ready.evaluable core queue)
      five out quiet hc (.inl ⟨undated, rfl⟩)
    obtain ⟨l5, -⟩ := takes_demanded (ch := s.ch c) (d := .cur (s.ch c).alarmTarget) (alarm := true) session unparked
    refine ⟨_, congrArg Host.Outcome.next held, ok, (set.l5.trans l5).trans ?_, set.level, (congrArg Loop.alarm set.loop :),
      (congrArg Loop.word set.loop :), set.others⟩
    simp [Chan.alarmTarget, Chan.alarmNa]
  · have five := atFive ready unparked level
    have checks := loopTrim_eq (r := r) (s := s.running r) plain out (by simp [payload]) (by simp [payload, zeroBytes])
    obtain ⟨t, step, ok, now, stands, rest⟩ := session_step ready hc five
      (checks.trans (trimStep_start (by simp [payload, byteAt]) session (five.unqueued rfl)))
    refine ⟨t, step, ok, now, stands.trans ?_, rest⟩
    cases h : (s.ch c).loop.trim <;> simp [Chan.demanded, Chan.inSession, Loop.trimNa, h]
  · obtain ⟨checks, first, measured⟩ := loopTrim_measured (s := s.running r) plain out payload
    obtain ⟨t, step, ok, now, stands, rest⟩ := session_step ready hc (atFive ready unparked level)
      (checks.trans (trimStep_p4 first session))
    rw [measured] at now stands
    refine ⟨t, step, ok, now, stands.trans ?_, rest⟩
    cases h : (s.ch c).loop.trim <;> simp [Chan.demanded, Chan.inSession, Loop.trimNa, h]
  · have checks := loopTrim_eq (r := r) (s := s.running r) plain out (by simp [payload]) (by simp [payload, zeroBytes])
    exact session_step ready hc (atFive ready unparked level) (checks.trans (trimStep_stop (by simp [payload, byteAt]) session))
  · obtain ⟨checks, first, measured⟩ := loopTrim_measured (s := s.running r) plain out payload
    have refused : ¬trimOk m4 (leAt r.payload 4 4) = true := fun h => wide (trimOk_iff.mp (measured ▸ h))
    exact ready.completes_ch hc rfl (checks.trans ((trimStep_p20 (s := s.running r) first session).trans (if_neg refused))) rfl rfl rfl
  · obtain ⟨checks, first, measured⟩ := loopTrim_measured (s := s.running r) plain out payload
    have fits : trimOk m4 (leAt r.payload 4 4) = true := trimOk_iff.mpr (by rw [measured]; exact ⟨low4, high4, low20, high20⟩)
    have held := ready.held_ch hc (checks.trans ((trimStep_p20 (s := s.running r) first session).trans (if_pos fits)))
    rw [measured] at held
    exact ⟨_, congrArg Host.Outcome.next held, trim_runs (factory := false) (ready.evaluable core queue)
      ((atFive ready unparked level).unqueued rfl) plain reads hc undated (by simp [payload, le32]) reserve⟩
  · have five : AtFive c (s.running r) := (atFive ready unparked level).unqueued rfl
    have checks := loopTrim_eq (r := r) (s := s.running r) plain out (by simp [payload]) (by simp [payload, zeroBytes])
    have held := ready.held_ch hc (checks.trans (trimStep_reset (by simp [payload, byteAt]) session five))
    exact ⟨_, congrArg Host.Outcome.next held, trim_runs (factory := true) (ready.evaluable core queue) five plain reads hc undated
      (by simp [payload]) reserve⟩

end Sys2Proof.Machine
end

section
/-! PROOFS. Digital inputs and counters (R162, R167 to R173): what a level, a wire break, an overload, a counted edge and a capture each
make of the input of their channel, and the statement on them. -/

namespace Sys2Proof.Machine

/-! ### Updates of an input -/

/-- A channel with what an update makes of its input. -/
def Chan.withDin (f : Din → Din) (ch : Chan) : Chan := { ch with din := f ch.din }

theorem withDin_eq (f : Din → Din) : Chan.withDin f = fun ch => { ch with din := f ch.din } := rfl

/-- An input channel of a Holm that is up and live senses (R267). -/
theorem dinUp_of_live {s : State} {c : Ch} (digital : (s.ch c).mode.isDigital = true) (up : (s.holm (bankOf c)).up = true)
    (live : (s.holm (bankOf c)).restarted = false) : s.dinUp c = true := by simp [State.dinUp, State.holmLive, digital, up, live]

/-- A channel's event is a notice: it changes no channel. -/
theorem OnlyCh.notifyCh {c : Ch} {x : Chan} {s u : State} (h : OnlyCh c x s u) (k : Nat) (payload : List Byte) (den : Option Nat) :
    OnlyCh c x s (notifyCh c k payload den u) := h.after (notify_chans ..)

/-- The input of the one channel that changes. -/
theorem OnlyCh.input {c : Ch} {x : Chan} {s t : State} (h : OnlyCh c x s t) :
    (t.ch c).din = x.din ∧ ∀ d : Ch, d ≠ c → t.ch d = s.ch d := ⟨congrArg Chan.din h.own, h.others⟩

/-! ### Levels and debounce (R167, R168, R170) -/

/-- An input whose filtered level has been the same since an instant. -/
def Din.filtered (level : Bool) (since : Nat) (d : Din) : Din := { d with raw := level, rawSince := since }

/-- An input that reports a new state, with the timestamp of its transition. -/
def Din.reported (new : Bool) (ts : Nat) (d : Din) : Din :=
  { d with
    state := new
    tsRise := if new then ts else d.tsRise
    tsFall := if new then d.tsFall else ts }

/-- The state that the filtered level asks for, inverted by INV. -/
def Din.asked (d : Din) : Bool := d.raw != bit d.word 18

/-- When the filtered level has stood for DEB. -/
def Din.debounced (d : Din) : Nat := max d.rawSince d.debFrom + 1000 * fld d.word 8 0

theorem debounce_reports {c : Ch} {s : State} (whole : (s.ch c).din.wireBreak = false)
    (differs : (s.ch c).din.asked ≠ (s.ch c).din.state) (due : (s.ch c).din.debounced ≤ s.sys.raw) :
    OnlyCh c ((s.ch c).withDin (.reported (s.ch c).din.asked (s.stampAgo (bankOf c) (s.sys.raw - (s.ch c).din.rawSince)))) s
      (debounce c s) := by
  have moved := OnlyCh.setCh c
    (.withDin (.reported (s.ch c).din.asked (s.stampAgo (bankOf c) (s.sys.raw - (s.ch c).din.rawSince)))) s
  rw [debounce, if_neg (by simpa [whole, Din.asked, Din.debounced] using And.intro differs due)]
  dsimp only
  split
  · exact moved.notifyCh ..
  · exact moved

/-- A wire break freezes the state, a level of the state's own asks for no change, and one that has not stood for DEB waits. -/
theorem debounce_waits {c : Ch} {s : State} (h : (s.ch c).din.wireBreak = true ∨ (s.ch c).din.asked = (s.ch c).din.state ∨
    s.sys.raw < (s.ch c).din.debounced) : debounce c s = s :=
  if_pos (by simpa [Din.asked, Din.debounced, or_assoc] using h)

/-- A level that has passed the glitch filter is the filtered level, and is debounced. -/
theorem edgeNow_passes {c : Ch} {s : State} {vip : Int} {held : Nat} (up : s.dinUp c = true) (di : (s.ch c).mode = .di)
    (changed : inputLevel (s.ch c).din.word (s.ch c).din.raw vip ≠ (s.ch c).din.raw) (past : 5 ≤ held) :
    edgeNow c vip held s = debounce c
      (s.setCh c (.withDin (.filtered (inputLevel (s.ch c).din.word (s.ch c).din.raw vip) (s.sys.raw - held)))) := by
  simp [edgeNow, up, di, changed, past, withDin_eq, Din.filtered]

theorem edgeNow_same {c : Ch} {s : State} {vip : Int} {held : Nat} (up : s.dinUp c = true) (di : (s.ch c).mode = .di)
    (same : inputLevel (s.ch c).din.word (s.ch c).din.raw vip = (s.ch c).din.raw) : edgeNow c vip held s = debounce c s := by
  simp [edgeNow, up, di, same]

/-! ### Wire break and sensor supply (R170, R171) -/

theorem dinBreak_changes {c : Ch} {s : State} (on : Bool) (up : s.dinUp c = true) (di : (s.ch c).mode = .di)
    (enabled : bit (s.ch c).din.word 19 = true) (differs : (s.ch c).din.wireBreak = !on)
    (held : (if on then s.heldFor c .sinkLow 100000 else s.heldFor c .sinkHigh 500000) = true) :
    OnlyCh c ((s.ch c).withDin fun d => { d with wireBreak := on }) s (dinBreak c on s) := by
  rw [dinBreak, if_pos (by simp [up, di, enabled, differs, held])]
  cases on with
  | true => exact (assertFault_only c (Chan.withDin fun d => { d with wireBreak := true }) s).notifyCh ..
  | false => exact (OnlyCh.setCh c (Chan.withDin fun d => { d with wireBreak := false }) s).notifyCh ..

theorem dinBreak_early {c : Ch} {s : State} (h : bit (s.ch c).din.word 19 = false ∨ s.heldFor c .sinkLow 100000 = false) :
    dinBreak c true s = s := by
  obtain disabled | early := h
  · simp [dinBreak, disabled]
  · simp [dinBreak, early]

/-- An input whose sensor supply folds back, with its overload. -/
def Chan.supplyFolded (raw : Nat) (ch : Chan) : Chan :=
  { ch with
    watch := ch.watch.filter (fun e => e.1 != .supplyLimit)
    din := { ch.din with overload := true, folded := true, foldAt := raw } }

theorem sensorOverload_folds {c : Ch} {s : State} (up : s.dinUp c = true) (supplied : (s.ch c).ssup = true)
    (full : (s.ch c).din.folded = false) (held : s.heldFor c .supplyLimit 1000000 = true) :
    OnlyCh c ((s.ch c).supplyFolded s.sys.raw) s (sensorOverload c true s) := by
  rw [sensorOverload, if_neg (by simp [up, supplied]), if_pos (by simp [full, held])]
  exact (assertFault_only c (Chan.supplyFolded s.sys.raw) s).notifyCh ..

theorem sensorOverload_clears {c : Ch} {s : State} (up : s.dinUp c = true) (supplied : (s.ch c).ssup = true)
    (overload : (s.ch c).din.overload = true) (held : s.heldFor c .supplyClear 2000000 = true) :
    sensorOverload c false s = s.setCh c (.withDin fun d => { d with overload := false }) := by
  simp [sensorOverload, up, supplied, overload, held, withDin_eq]

theorem sensorOverload_unsupplied {c : Ch} {s : State} (on : Bool) (none : (s.ch c).ssup = false) : sensorOverload c on s = s := by
  simp [sensorOverload, none]

theorem foldRetry_input {c : Ch} {s : State} (recovered : Bool) (digital : (s.ch c).mode.isDigital = true)
    (up : (s.holm (bankOf c)).up = true) (live : (s.holm (bankOf c)).restarted = false) (folded : (s.ch c).din.folded = true)
    (due : (s.ch c).din.foldAt + 10000000 ≤ s.sys.raw) :
    foldRetry c recovered s = s.setCh c (.withDin fun d => { d with folded := !recovered, foldAt := s.sys.raw }) := by
  have noLoop : ((s.ch c).mode == .aii) = false := beq_eq_false_iff_ne.mpr fun aii => by simp [aii, Mode.isDigital] at digital
  simp [foldRetry, State.holmLive, noLoop, digital, up, live, folded, due, withDin_eq]

/-! ### Counting (R172) -/

theorem pinLevel_held {w : BitVec 32} {was : Bool} {e : PinEdge} (h : glitchNs w ≤ e.widthNs) :
    pinLevel w was e = inputLevel w was e.mv := if_pos h

theorem pinLevel_glitch {w : BitVec 32} {was : Bool} {e : PinEdge} (h : e.widthNs < glitchNs w) : pinLevel w was e = was :=
  if_neg (Nat.not_le.mpr h)

/-- A counter whose IP has risen, with its gate as it then reads. -/
def Din.risen (ts : Nat) (g : PinEdge) (d : Din) : Din :=
  { d with
    raw := true
    state := true
    inLevel := if fld d.word 23 22 = 1 then pinLevel d.word d.inLevel g else d.inLevel
    tsRise := ts }

/-- A counter that has counted one edge. -/
def Din.counted (d : Din) : Din := { d with count := d.count + 1, ovf := d.ovf || d.count == 0xFFFFFFFF#32 }

/-- A counter after a rising edge on IP counts it where CEDGE takes it and no gate is closed. -/
def Din.countsRise (d : Din) : Bool := counts d.word true && (fld d.word 23 22 != 1 || d.gateOpen)

/-- A counter after a rising edge on IP, which it has counted where that edge counts. -/
def Din.tallied (d : Din) : Din := if d.countsRise then d.counted else d

theorem Din.tallied_ungated {d : Din} (rising : fld d.word 25 24 = 0) (ungated : fld d.word 23 22 ≠ 1) : d.tallied = d.counted :=
  if_pos (by simp [countsRise, counts, rising, ungated])

/-- None counts through a closed gate. -/
theorem Din.tallied_closed {d : Din} (gated : fld d.word 23 22 = 1) (closed : d.inLevel = bit d.word 21) : d.tallied = d :=
  if_neg (by simp [countsRise, gateOpen, gated, closed])

theorem countEdge_rises {c : Ch} {s : State} {e : PinEdge} (g : PinEdge) (up : s.dinUp c = true) (cnt : (s.ch c).mode = .cnt)
    (low : (s.ch c).din.raw = false) (wide : glitchNs (s.ch c).din.word ≤ e.widthNs)
    (high : inputLevel (s.ch c).din.word false e.mv = true) :
    countEdge c e g s = s.setCh c (.withDin fun d => (d.risen (s.stampAgo (bankOf c) (e.widthNs / 100)) g).tallied) := by
  have rises : pinLevel (s.ch c).din.word (s.ch c).din.raw e = true := by rw [pinLevel_held wide, low, high]
  have changes : (pinLevel (s.ch c).din.word (s.ch c).din.raw e == (s.ch c).din.raw) = false := by rw [rises, low]; rfl
  rw [countEdge, if_neg (by simp [up, cnt, changes])]
  refine setCh_congr ?_
  simp only [rises, Chan.withDin, Din.tallied, apply_ite (fun d => ({ s.ch c with din := d } : Chan))]
  rfl

theorem countEdge_glitch {c : Ch} {s : State} {e : PinEdge} (g : PinEdge) (short : e.widthNs < glitchNs (s.ch c).din.word) :
    countEdge c e g s = s := by simp [countEdge, pinLevel_glitch short]

/-! ### Captures (R173) -/

/-- A counter that has stored a capture at a rise of IN. -/
def Din.stored (ts : Nat) (d : Din) : Din := { d with inLevel := true, caps := d.caps ++ [(d.count, ts)] }

/-- A counter that has lost a capture at a rise of IN: the lost are counted up to 65535. -/
def Din.lost (d : Din) : Din := { d with inLevel := true, capLost := if d.capLost == 0xFFFF then d.capLost else d.capLost + 1 }

theorem captureEdge_captures {c : Ch} {s : State} {e : PinEdge} (up : s.dinUp c = true) (cnt : (s.ch c).mode = .cnt)
    (wide : glitchNs (s.ch c).din.word ≤ e.widthNs) (low : (s.ch c).din.inLevel = false)
    (high : inputLevel (s.ch c).din.word false e.mv = true) (capture : fld (s.ch c).din.word 23 22 = 2)
    (rising : bit (s.ch c).din.word 21 = false) :
    let ts := s.stampAgo (bankOf c) (e.widthNs / 100)
    captureEdge c e s =
      if (s.ch c).din.caps.length < 4 then
        notifyCh c 5 (le32 (s.ch c).din.count.toNat ++ le48 (ts % 2 ^ 48)) none (s.setCh c (.withDin (.stored ts)))
      else s.setCh c (.withDin .lost) := by
  have rises : pinLevel (s.ch c).din.word (s.ch c).din.inLevel e = true := by rw [pinLevel_held wide, low, high]
  have changes : (pinLevel (s.ch c).din.word (s.ch c).din.inLevel e == (s.ch c).din.inLevel) = false := by rw [rises, low]; rfl
  intro ts
  rw [captureEdge, if_neg (by simp [up, cnt, changes])]
  simp only [rises, State.setCh_ch_self, setCh_setCh]
  rw [if_neg (by simp [capture, rising])]
  rfl

/-- The counter of lost captures stops at 65535. -/
theorem capLost_next (n : BitVec 16) : (if n == 0xFFFF then n else n + 1).toNat = min 65535 (n.toNat + 1) := by
  split
  · simp_all
  · have : n.toNat ≠ 65535 := fun h => by simp_all [← BitVec.toNat_inj]
    bv_omega

/-! ### The statement -/

/-- Settles O51: each reading that passes its checks is one update of its channel's input, with a notice or none. -/
theorem digitalInputsFollowCountAndCapture : Obligations.DigitalInputsFollowCountAndCapture := by
  intro s c holmUp live others din ago
  refine ⟨fun di => ?_, fun mode => ?_, fun cnt => ?_⟩
  · have up : s.dinUp c = true := dinUp_of_live (by rw [di]; rfl) holmUp live
    refine ⟨fun vip held => ⟨fun changed past whole differs due => ?_, fun changed past stays => ?_, fun same state => ?_⟩,
      fun enabled => ⟨fun whole held => ?_, fun broken held => ?_⟩, fun early => ?_⟩
    · have passed := OnlyCh.setCh c (.withDin (.filtered (inputLevel din.word din.raw vip) (s.sys.raw - held))) s
      have reports := debounce_reports (c := c) (s := s.setCh c _) (by rw [passed.own]; exact whole) (by rw [passed.own]; exact differs)
        (by rw [passed.own]; exact due)
      have moved := passed.trans reports
      rw [← edgeNow_passes up di changed past, passed.own] at moved
      have began : s.sys.raw - (s.sys.raw - held) = min held s.sys.raw := by omega
      obtain ⟨input, rest⟩ := moved.input
      refine ⟨_, rfl, ?_, rest⟩
      rw [input, ← began]
      rfl
    · refine congrArg Host.Outcome.next ((edgeNow_passes up di changed past).trans (debounce_waits ?_))
      rw [State.setCh_ch_self]
      exact stays.imp_right fun early => .inr (Nat.not_le.mp early)
    · refine congrArg Host.Outcome.next ((edgeNow_same up di same).trans (debounce_waits (.inr (.inl ?_))))
      rw [← state, Din.asked]
      exact congrArg (· != bit din.word 18) same.symm
    · exact ⟨_, rfl, (dinBreak_changes true up di enabled whole held).input⟩
    · exact ⟨_, rfl, (dinBreak_changes false up di enabled broken held).input⟩
    · exact congrArg Host.Outcome.next (dinBreak_early early)
  · have digital : (s.ch c).mode.isDigital = true := by obtain h | h := mode <;> rw [h] <;> rfl
    have up : s.dinUp c = true := dinUp_of_live digital holmUp live
    refine ⟨fun supplied => ⟨fun full held => ?_, fun overload held => ?_⟩, fun none on => ?_, fun recovered folded due => ?_⟩
    · exact ⟨_, rfl, (sensorOverload_folds up supplied full held).input⟩
    · exact congrArg Host.Outcome.next (sensorOverload_clears up supplied overload held)
    · exact congrArg Host.Outcome.next (sensorOverload_unsupplied on none)
    · exact congrArg Host.Outcome.next (foldRetry_input recovered digital holmUp live folded due)
  · have up : s.dinUp c = true := dinUp_of_live (by rw [cnt]; rfl) holmUp live
    refine ⟨fun e g low high => ⟨fun wide rising ungated => ?_, fun wide gated closed => ?_, fun short => ?_⟩,
      fun e wide low high capture rising => ⟨fun room => ?_, fun full => ?_⟩⟩
    · refine congrArg Host.Outcome.next ((countEdge_rises g up cnt low wide high).trans (setCh_congr ?_))
      simp only [Chan.withDin]
      rw [Din.tallied_ungated (d := din.risen (ago (e.widthNs / 100)) g) rising ungated]
      simp [Din.risen, Din.counted, ungated, din, ago]
    · have gate : (din.risen (ago (e.widthNs / 100)) g).inLevel = bit din.word 21 := (if_pos gated).trans closed
      obtain ⟨input, rest⟩ := (OnlyCh.setCh c (.withDin fun d => (d.risen (ago (e.widthNs / 100)) g).tallied) s).input
      replace input := input.trans (Din.tallied_closed (d := din.risen _ g) gated gate)
      refine ⟨_, congrArg Host.Outcome.next (countEdge_rises g up cnt low wide high), ?_⟩
      rw [input]
      exact ⟨rfl, rfl, gate, rfl, rest⟩
    · exact congrArg Host.Outcome.next (countEdge_glitch g short)
    · exact ⟨_, congrArg Host.Outcome.next ((captureEdge_captures up cnt wide low high capture rising).trans (if_pos room)),
        ((OnlyCh.setCh c (.withDin (.stored (ago (e.widthNs / 100)))) s).notifyCh 5 _ none).input⟩
    · obtain ⟨input, rest⟩ := (OnlyCh.setCh c (.withDin .lost) s).input
      refine ⟨_, congrArg Host.Outcome.next ((captureEdge_captures up cnt wide low high capture rising).trans
        (if_neg (Nat.not_lt.mpr full))), ?_, ?_, ?_, rest⟩
      · exact (congrArg Din.caps input :)
      · exact (congrArg Din.count input :)
      · exact (congrArg (·.capLost.toNat) input).trans (capLost_next _)

end Sys2Proof.Machine
end

section
/-! PROOFS. A lone switch in DO or DOP (R35, R36, R189 to R193, R202, R253): what one evaluation makes of it, what a lock makes of it,
and what the energy of a turn-off makes of it. -/

namespace Sys2Proof.Machine

/-- A channel alone in a switch mode, of a Holm that holds the modes of its channels (R35, R267). -/
structure LoneSwitch (c : Ch) (s : State) : Prop where
  switch : (s.ch c).mode.isSwitch = true
  lone : (s.ch c).paired = false
  live : s.holmLive (bankOf c) = true

theorem Mode.switch_cases {m : Mode} (h : m.isSwitch = true) : m = .dout ∨ m = .dop := by
  cases m <;> simp_all [Mode.isSwitch]

/-! ### What governs a lone channel -/

/-- A channel without what takes no part in what governs it: where it stands, its restore and its switch (R35). -/
def Chan.governed (ch : Chan) : Chan :=
  { ch with level := 0, out := .off, conducting := false, presag := none, restore := .none, sw := .reset }

/-- What governs a lone channel rests on the channel, and of its Holm on what level 2 depends on (R35). -/
theorem govern_of_governed {s t : State} {c : Ch} (lone : (s.ch c).paired = false) (chan : (t.ch c).governed = (s.ch c).governed)
    (holm : SameBurrow (s.holm (bankOf c)) (t.holm (bankOf c))) : t.govern c = s.govern c := by
  have mode : (t.ch c).mode = (s.ch c).mode := (congrArg Chan.mode chan :)
  have paired : (t.ch c).paired = (s.ch c).paired := (congrArg Chan.paired chan :)
  have locks : (t.ch c).locks = (s.ch c).locks := (congrArg Chan.locks chan :)
  have inBreak : (t.ch c).inBreak = (s.ch c).inBreak := (congrArg Chan.inBreak chan :)
  have l3 : (t.ch c).l3 = (s.ch c).l3 := (congrArg Chan.l3 chan :)
  have l5 : (t.ch c).l5 = (s.ch c).l5 := (congrArg Chan.l5 chan :)
  have bmap : (t.ch c).bmap = (s.ch c).bmap := (congrArg Chan.bmap chan :)
  have safety : (t.ch c).safety = (s.ch c).safety := (congrArg Chan.safety chan :)
  have action : (t.ch c).action = (s.ch c).action := (congrArg Chan.action chan :)
  have trim : (t.ch c).loop = (s.ch c).loop := (congrArg Chan.loop chan :)
  have parked : (t.ch c).parked = (s.ch c).parked := (congrArg Chan.parked chan :)
  have led : s.lead c = c := lead_of_unpaired lone
  have lead : t.lead c = c := lead_of_unpaired (paired.trans lone)
  have live : t.holmLive (bankOf c) = s.holmLive (bankOf c) := by simp only [State.holmLive, holm.restarted]
  have locked : t.locked c = s.locked c := by simp [State.locked, State.members, paired, lone, locks]
  have burrow : t.burrowOn c = s.burrowOn c := by simp only [burrowOn_eq, mode, bmap, lead, led, holm.up, holm.burEn, holm.mapHere]
  have demand : t.burDemand c = s.burDemand c := burDemand_congr c mode (lead.trans led.symm) (by rw [led, bmap]) holm.burIn
  have loss (x : HostLoss) : t.l3Demand c x = s.l3Demand c x := by
    simp only [State.l3Demand, State.safeDemand, mode, lead, led, safety, bmap, demand]
  simp only [State.govern, mode, live, locked, inBreak, burrow, demand, lead, led, l3, loss, actFor_eq, action, trim, parked, l5]

/-- A lone output under a lock is de-energised at level 1 (R35, R37). -/
theorem LoneSwitch.govern_locked {c : Ch} {s : State} (h : LoneSwitch c s) (locks : (s.ch c).locks.any = true) :
    s.govern c = (1, .off) := by
  have locked : s.locked c = true := by simp [State.locked, State.members, h.lone, locks]
  unfold State.govern
  obtain m | m := Mode.switch_cases h.switch <;> simp [m, h.live, locked, deenergised, Mode.isOutput]

/-! ### One evaluation -/

/-- Whether a switch conducts under a demand: in DO while it is on, in DOP only as it did while it was driven before (R36, R202). -/
def Chan.drives (ch : Chan) (d : Demand) : Bool := d == .on && (ch.mode == .dout || ch.out == .on && ch.conducting)

/-- A switch as an evaluation stands it at a level with its demand, at a time and a count of its generator's oscillator. -/
def Chan.stoodAt (g : Nat × Demand) (now tb : Nat) (ch : Chan) : Chan :=
  { ch with
    level := g.1
    out := g.2
    conducting := ch.drives g.2
    sw := { ch.sw with
      limiting := ch.sw.limiting && ch.drives g.2
      edgeFrom := if ch.mode == .dop && g.2 == .on && ch.out != .on then (tb : Int) - 1 else ch.sw.edgeFrom
      onSince := if ch.drives g.2 && !ch.conducting then now else ch.sw.onSince
      lrnDone := ch.sw.lrnDone && !(ch.drives g.2 && !ch.conducting)
      offSince := if !ch.drives g.2 && ch.conducting then now else ch.sw.offSince }
    loop := if g.1 = 0 ∨ g.1 = 5 then ch.loop else (ch.inSession .none).loop }

theorem OnlyCh.refl {c : Ch} {x : Chan} {s : State} (h : s.ch c = x) : OnlyCh c x s s := ⟨h, fun _ _ => rfl⟩

theorem OnlyCh.congr {c : Ch} {x y : Chan} {s t : State} (h : OnlyCh c x s t) (k : x = y) : OnlyCh c y s t := k ▸ h

theorem endTrim_only (c : Ch) (s : State) : OnlyCh c ((s.ch c).inSession .none) s (endTrim c s) := by
  unfold endTrim
  split
  · next none => exact .refl (by rw [Chan.inSession, ← none])
  · refine (OnlyCh.setCh c (Chan.inSession .none) s).after (overAll_keeps State.chans (fun h u => ?_) _)
    split
    · exact finish_chans ..
    · rfl

/-- An evaluation of a lone switch that no hold governs changes the switch alone (R36, R57). -/
theorem evalOne_only {c : Ch} {s : State} (switch : (s.ch c).mode.isSwitch = true) (h4 : (s.govern c).1 ≠ 4) :
    OnlyCh c ((s.ch c).stoodAt (s.govern c) s.sys.now (s.tbNow (bankOf c))) s (evalOne c s) := by
  unfold evalOne
  extract_lets ch g now on ramp moved from_ s1 s2 s3
  have drives : on = (s.ch c).drives g.2 := by
    obtain m | m := Mode.switch_cases switch <;> simp [on, ch, Chan.drives, m, Bool.and_assoc, show (Mode.dop == Mode.dout) = false from rfl]
  have still : ramp = false := by obtain m | m := Mode.switch_cases switch <;> simp [ramp, ch, m, Mode.isLoopOut]
  have first : OnlyCh c { (s.ch c).stoodAt g now (s.tbNow (bankOf c)) with loop := (s.ch c).loop } s s1 := by
    refine (OnlyCh.setCh c _ s).congr ?_
    simp only [drives, still, Bool.false_eq_true, if_false]
    rfl
  have second : OnlyCh c { (s.ch c).stoodAt g now (s.tbNow (bankOf c)) with loop := (s.ch c).loop } s s2 := by
    refine first.after ?_
    simp only [s2]
    split <;> rfl
  have third : OnlyCh c ((s.ch c).stoodAt g now (s.tbNow (bankOf c))) s s3 := by
    by_cases quiet : g.1 = 0 ∨ g.1 = 5
    · have e : s3 = s2 := if_neg (by obtain q | q := quiet <;> simp [q])
      rw [e]
      exact second.congr (by simp only [Chan.stoodAt, if_pos quiet])
    · have e : s3 = endTrim c s2 := if_pos (by simpa [not_or] using quiet)
      rw [e]
      refine (second.trans (endTrim_only c s2)).congr ?_
      rw [second.own]
      simp only [Chan.stoodAt, if_neg quiet, Chan.inSession]
  rw [if_neg (by simp [g, h4])]
  exact third

/-- A switch that its demand does not hold on does not conduct (R36). -/
theorem drives_of_not_on {ch : Chan} {d : Demand} (h : d ≠ .on) : ch.drives d = false := by simp [Chan.drives, h]

/-! ### Locks -/

/-- A switch under a lock: off at level 1, out of a trim session (R35, R37, R149). -/
def Chan.lockedOff (now : Nat) (ch : Chan) : Chan :=
  { ch with
    level := 1
    out := .off
    conducting := false
    sw := { ch.sw with limiting := false, offSince := if ch.conducting then now else ch.sw.offSince }
    loop := (ch.inSession .none).loop }

theorem LoneSwitch.evalOne_locked {c : Ch} {s : State} (h : LoneSwitch c s) (locks : (s.ch c).locks.any = true) :
    OnlyCh c ((s.ch c).lockedOff s.sys.now) s (evalOne c s) := by
  have governs := h.govern_locked locks
  refine (evalOne_only h.switch (by rw [governs]; decide)).congr ?_
  rw [governs]
  simp [Chan.stoodAt, Chan.lockedOff, drives_of_not_on (ch := s.ch c) (d := .off) (by decide)]

/-- A channel that a lock is set on: a restore that waits is cancelled (R253). -/
def Chan.locking (f : Locks → Locks) (ch : Chan) : Chan := (ch.withLocks f).restoreCancelled

/-- A lone channel is locked and evaluated. -/
theorem setLock_lone {c : Ch} {f : Locks → Locks} {s : State} (lone : (s.ch c).paired = false) :
    ∃ u, OnlyCh c ((s.ch c).locking f) s u ∧ u.holms = s.holms ∧ u.sys.now = s.sys.now ∧ setLock c f s = evalOne c u := by
  obtain ⟨chans, holms, now, -⟩ := assertFault_leaves s
  have alone : (assertFault s).members c = [c] := if_neg (by rw [State.ch, chans]; exact (Bool.eq_false_iff.mp lone))
  have only := (assertFault_only c (Chan.withLocks f) s).trans (cancelRestore_only c _)
  rw [(assertFault_only c (Chan.withLocks f) s).own] at only
  refine ⟨cancelRestore c ((assertFault s).setCh c (Chan.withLocks f)), only, (cancelRestore_holms ..).trans holms,
    (now_of_anchor (by simp)), ?_⟩
  rw [← evalOut_of_unpaired (by rw [only.own]; exact lone), setLock, alone]
  rfl

/-- A lock turns a lone switch off and changes no other channel (R35, R253). -/
theorem LoneSwitch.setLock_only {c : Ch} {f : Locks → Locks} {s : State} (h : LoneSwitch c s)
    (locks : (f (s.ch c).locks).any = true) : OnlyCh c (((s.ch c).locking f).lockedOff s.sys.now) s (setLock c f s) := by
  obtain ⟨u, only, holms, now, eq⟩ := setLock_lone (f := f) h.lone
  have switch : LoneSwitch c u :=
    ⟨by rw [only.own]; exact h.switch, by rw [only.own]; exact h.lone, by simpa only [State.holmLive, State.holm, holms] using h.live⟩
  have off := switch.evalOne_locked (by rw [only.own]; exact locks)
  rw [only.own, now] at off
  rw [eq]
  exact only.trans off

/-! ### Turn-offs -/

/-- A switch whose turn-off the sequencer measured (R191, R193). -/
def Chan.clamped (e start : Nat) (ch : Chan) : Chan :=
  { ch with sw := { ch.sw with
    bucket := ch.sw.bucket + e
    pulse := (ch.sw.offSince, e)
    elast := if start > 200 then e else ch.sw.elast
    ilast := if start > 200 then start else ch.sw.ilast } }

/-- A lock that one pulse or a full bucket sets (R192). -/
def Locks.clamping (l : Locks) : Locks := { l with clamp := true }

/-- The energy of a turn-off enters the bucket of its switch, and may lock it (R191 to R193). -/
theorem LoneSwitch.clampPulse_cases {c : Ch} {m : ClampMeas} {s : State} (h : LoneSwitch c s) :
    let x := (s.ch c).clamped (clampEnergy (s.holm (bankOf c)).vf m) (clampStart m)
    OnlyCh c x s (clampPulse c m s) ∨ OnlyCh c ((x.locking Locks.clamping).lockedOff s.sys.now) s (clampPulse c m s) := by
  intro x
  unfold clampPulse
  extract_lets e s1 full
  have measured : OnlyCh c x s s1 := .setCh c (Chan.clamped e (clampStart m)) s
  have switch : LoneSwitch c s1 := ⟨by rw [measured.own]; exact h.switch, by rw [measured.own]; exact h.lone, h.live⟩
  have lock : OnlyCh c ((x.locking Locks.clamping).lockedOff s.sys.now) s (setLock c Locks.clamping s1) := by
    have off := switch.setLock_only (f := Locks.clamping) (by simp [Locks.any, Locks.clamping])
    rw [measured.own] at off
    exact measured.trans off
  split
  · exact .inr (lock.after (notify_chans ..))
  · split
    · exact .inr (lock.after (notify_chans ..))
    · exact .inl measured

/-- A measured turn-off leaves a switch that is off as it is commanded and as it came to be off. -/
structure OffAfterClamp (x : Chan) (e : Nat) (y : Chan) : Prop where
  conducting : y.conducting = false
  l5 : y.l5 = x.l5
  bucket : y.sw.bucket = x.sw.bucket + e
  prun : y.sw.prun = x.sw.prun
  lastOn : y.sw.lastOn = x.sw.lastOn
  edgeFrom : y.sw.edgeFrom = x.sw.edgeFrom
  offSince : y.sw.offSince = x.sw.offSince

theorem offAfterClamp_clamped {x : Chan} (off : x.conducting = false) (e start : Nat) : OffAfterClamp x e (x.clamped e start) :=
  ⟨off, rfl, rfl, rfl, rfl, rfl, rfl⟩

theorem offAfterClamp_locked {x : Chan} (off : x.conducting = false) (e start now : Nat) (f : Locks → Locks) :
    OffAfterClamp x e (((x.clamped e start).locking f).lockedOff now) :=
  ⟨rfl, rfl, rfl, rfl, rfl, rfl, if_neg (Bool.eq_false_iff.mp off)⟩

theorem LoneSwitch.clampPulse_off {c : Ch} {m : ClampMeas} {s : State} (h : LoneSwitch c s) (off : (s.ch c).conducting = false) :
    OffAfterClamp (s.ch c) (clampEnergy (s.holm (bankOf c)).vf m) ((clampPulse c m s).ch c) ∧
      ∀ d : Ch, d ≠ c → (clampPulse c m s).ch d = s.ch d := by
  obtain only | only := h.clampPulse_cases (m := m) <;> refine ⟨?_, only.others⟩ <;> rw [only.own]
  · exact offAfterClamp_clamped off ..
  · exact offAfterClamp_locked off ..

/-- The same of a turn-off that counts only when the step has turned the switch off. -/
theorem LoneSwitch.clampAfter_off {c : Ch} {m : ClampMeas} {before s : State} (h : LoneSwitch c s) (off : (s.ch c).conducting = false) :
    ((clampAfter c m before s).ch c).conducting = false ∧ ((clampAfter c m before s).ch c).l5 = (s.ch c).l5 ∧
      ∀ d : Ch, d ≠ c → (clampAfter c m before s).ch d = s.ch d := by
  unfold clampAfter
  split
  · obtain ⟨after, others⟩ := h.clampPulse_off (m := m) off
    exact ⟨after.conducting, after.l5, others⟩
  · exact ⟨off, rfl, fun _ _ => rfl⟩

end Sys2Proof.Machine
end

section
/-! PROOFS. OUT.SET on a lone switch (R36, R39, R180, R181, R226, R253): off at once behind an evaluation of the Badger, on as the
Badger's admission lets it run. -/

namespace Sys2Proof.Machine

/-! ### Cancelled restores -/

theorem cancelRestore_governed (c : Ch) (s : State) (d : Ch) : ((cancelRestore c s).ch d).governed = (s.ch d).governed := by
  by_cases e : d = c
  · rw [e, (cancelRestore_only c s).own]
    rfl
  · rw [(cancelRestore_only c s).others d e]

theorem cancelRestore_heads (c : Ch) {s : State} (h : s.badger.heads = []) : (cancelRestore c s).badger.heads = [] := by
  unfold cancelRestore
  extract_lets ch submitted isR s1 t
  have none : s1.badger.heads = [] := by
    simp only [s1]
    split
    · simp [endInternal, State.setSys, State.setBadger, h]
    · exact h
  split
  · rw [(denEvent_records ..).badger]
    exact none
  · exact none

theorem cancelRestore_burrow (c : Ch) (s : State) (b : Bank) : SameBurrow (s.holm b) ((cancelRestore c s).holm b) := by
  rw [State.holm, State.holm, cancelRestore_holms]
  exact ⟨rfl, rfl, rfl, rfl, rfl⟩

/-- A channel's share in the edge scheduling of its bank (R212). -/
def Chan.quiet (ch : Chan) : Option (Fin 5) := if ch.carrierMode && bit ch.brg.meas 10 then some ch.rateNow else none

theorem cancelRestore_quiet (c : Ch) (s : State) (b : Bank) : (cancelRestore c s).quietRates b = s.quietRates b := by
  have same (d : Ch) : ((cancelRestore c s).ch d).quiet = (s.ch d).quiet := (congrArg Chan.quiet (cancelRestore_governed c s d) :)
  exact List.filterMap_congr fun d _ => same d

/-- Without a QUIET bridge no change of a bank is moved (R212). -/
theorem movedTo_of_quiet {s : State} {b : Bank} (quiet : s.quietRates b = []) : s.movedTo b = none := by
  simp [State.movedTo, State.quietDue, quiet]

theorem AtFive.of_governed {c : Ch} {s t : State} (h : AtFive c s) (chan : (t.ch c).governed = (s.ch c).governed)
    (holm : SameBurrow (s.holm (bankOf c)) (t.holm (bankOf c))) : AtFive c t :=
  ⟨(congrArg Chan.paired chan :).trans h.lone, (congrArg Chan.inBreak chan :).trans h.unbroken,
   (congrArg Chan.parked chan :).trans h.unparked, by rw [govern_of_governed h.lone chan holm, h.level]⟩

/-! ### A change of level 5 -/

theorem switch_unparked {ch : Chan} (h : ch.mode.isSwitch = true) : ch.parked = false := by
  obtain m | m := Mode.switch_cases h <;> simp [Chan.parked, m]

theorem AtFive.live {c : Ch} {s : State} (h : AtFive c s) : s.holmLive (bankOf c) = true := by
  by_contra dead
  exact absurd h.level (by simp [govern_level, dead])

theorem AtFive.loneSwitch {c : Ch} {s : State} (h : AtFive c s) (switch : (s.ch c).mode.isSwitch = true) : LoneSwitch c s :=
  ⟨switch, h.lone, h.live⟩

/-- A channel that takes a demand at level 5 (R159). -/
def Chan.putting (d : Demand) (ch : Chan) : Chan := { ch with l5 := ch.putL5 d }

theorem setDemand_switch {c : Ch} {d : Demand} {s : State} (switch : (s.ch c).mode.isSwitch = true) (lone : (s.ch c).paired = false) :
    setDemand c d false s = s.setCh c (Chan.putting d) := by
  have mode : ((s.setCh c (Chan.putting d)).ch c).mode.isLoopOut = false := by
    rw [State.setCh_ch_self]
    obtain m | m := Mode.switch_cases switch <;> simp [Chan.putting, m, Mode.isLoopOut]
  rw [setDemand, setL5_lone lone]
  exact if_neg (Bool.eq_false_iff.mp mode)

/-- A lone switch at level 5 takes a demand there in one evaluation (R36). -/
theorem evalOut_putting {c : Ch} {s : State} (h : AtFive c s) (switch : (s.ch c).mode.isSwitch = true) (d : Demand) :
    OnlyCh c (((s.ch c).putting d).stoodAt (5, ((s.ch c).putting d).demanded) s.sys.now (s.tbNow (bankOf c))) s
      (evalOut c (setDemand c d false s)) := by
  have only : OnlyCh c ((s.ch c).putting d) s (s.setCh c (Chan.putting d)) := .setCh c (Chan.putting d) s
  have five : AtFive c (s.setCh c (Chan.putting d)) := h.setCh rfl
  have governs := five.govern
  have eval := evalOne_only (c := c) (s := s.setCh c (Chan.putting d)) (by rw [only.own]; exact switch) (by simp [governs])
  rw [governs, only.own] at eval
  rw [setDemand_switch switch h.lone, evalOut_of_unpaired five.lone]
  exact only.trans eval

theorem levelChange_now {op : BitVec 16} {r : Req} {c : Ch} {s : State} {d : Demand} {alarm : Bool} {m : ClampMeas} (five : AtFive c s)
    (still : s.movedTo (bankOf c) = none) : levelChange c d alarm m op r s =
      finish op r stOK [] 0 (clampAfter c m s (evalOut c (setDemand c d alarm s))) := by
  simp [levelChange, levelRun, five.level, still]

/-- Level 5 in off holds a switch off, whatever trim session its loop was left in. -/
theorem putting_off_demanded {ch : Chan} (switch : ch.mode.isSwitch = true) :
    (ch.putting .off).l5 = .off ∧ (ch.putting .off).demanded ≠ .on := by
  have l5 : (ch.putting .off).l5 = .off := putL5_unparked (switch_unparked switch) .off
  refine ⟨l5, ?_⟩
  rw [Chan.demanded, l5]
  split
  · exact Demand.noConfusion
  · obtain m | m := Mode.switch_cases switch <;> simp [Chan.putting, m, normDemand, deenergised]

theorem putting_on_demanded {ch : Chan} (mode : ch.mode = .dout) (session : ch.loop.session = .none) :
    (ch.putting .on).l5 = .on ∧ (ch.putting .on).demanded = .on := by
  have l5 : (ch.putting .on).l5 = .on := putL5_unparked (switch_unparked (by rw [mode]; rfl)) .on
  refine ⟨l5, ?_⟩
  rw [Chan.demanded, l5]
  simp [Chan.putting, Loop.trimNa, session, mode, normDemand]

/-- A command sets a lone switch off at level 5, at once (R180, R213). -/
theorem levelChange_off {op : BitVec 16} {r : Req} {c : Ch} {s : State} {m : ClampMeas} (five : AtFive c s)
    (switch : (s.ch c).mode.isSwitch = true) (still : s.movedTo (bankOf c) = none) (hc : chOf r.obj = some c)
    (link : s.linkOk r.obj = true) :
    let t := levelChange c .off false m op r s
    Completion.mk r op (r.tag == 0) stOK [] s.sys.now ∈ t.completions ∧ (t.ch c).l5 = .off ∧ (t.ch c).conducting = false ∧
      ∀ d : Ch, d ≠ c → t.ch d = s.ch d := by
  intro t
  obtain ⟨l5, notOn⟩ := putting_off_demanded switch
  have only := evalOut_putting five switch .off
  have off : LoneSwitch c (evalOut c (setDemand c .off false s)) := by
    refine ⟨by rw [only.own]; exact switch, by rw [only.own]; exact five.lone, ?_⟩
    rw [(evalOut_outputs ..).holmLive, setDemand_switch switch five.lone]
    exact five.live
  obtain ⟨conducting, kept, others⟩ := off.clampAfter_off (m := m) (before := s) (by rw [only.own]; exact drives_of_not_on notOn)
  have eq : t = finish op r stOK [] 0 (clampAfter c m s (evalOut c (setDemand c .off false s))) := levelChange_now five still
  rw [eq]
  refine ⟨finish_calm hc link (calm.keeps (by simp)) (now_of_anchor (by simp)), ?_, ?_, fun d hd => ?_⟩
  · rw [finish_ch, kept, only.own]
    exact l5
  · rw [finish_ch, conducting]
  · rw [finish_ch, others d hd, only.others d hd]

/-- A command that the Badger has let run turns a lone switch in DO on at level 5, at once (R180, R226). -/
theorem levelChange_on {op : BitVec 16} {r : Req} {c : Ch} {s : State} {m : ClampMeas} (five : AtFive c s)
    (mode : (s.ch c).mode = .dout) (session : (s.ch c).loop.session = .none) (still : s.movedTo (bankOf c) = none)
    (hc : chOf r.obj = some c) (link : s.linkOk r.obj = true) :
    let t := levelChange c .on false m op r s
    Completion.mk r op (r.tag == 0) stOK [] s.sys.now ∈ t.completions ∧
      OnlyCh c (((s.ch c).putting .on).stoodAt (5, .on) s.sys.now (s.tbNow (bankOf c))) s t := by
  intro t
  have only := evalOut_putting five (by rw [mode]; rfl) .on
  rw [(putting_on_demanded mode session).2] at only
  have conducts : ((evalOut c (setDemand c .on false s)).ch c).conducting = true := by
    rw [only.own]
    simp [Chan.stoodAt, Chan.drives, Chan.putting, mode]
  have eq : t = finish op r stOK [] 0 (evalOut c (setDemand c .on false s)) := by
    rw [show t = _ from levelChange_now five still, clampAfter, if_neg (by simp [conducts])]
  rw [eq]
  exact ⟨finish_calm hc link (calm.keeps (by simp)) (now_of_anchor (by simp)), only.after (finish_chans ..)⟩

/-! ### Off -/

theorem outSet_off {r : Req} {m : ClampMeas} {c : Ch} {s : State} (payload : r.payload = [0, 0, 0, 0])
    (switch : (s.ch c).mode.isSwitch = true) (lone : (s.ch c).paired = false) (level : (s.govern c).1 = 5)
    (on : (s.ch c).l5 = .on) :
    outSet r m c s = .held (levelChange c .off false m 0x0301 r (evaluate (cancelRestore c s))) := by
  have alone : s.members c = [c] := if_neg (Bool.eq_false_iff.mp lone)
  have even : s.oddMember c = false := by simp [State.oddMember, lone]
  have stands : normDemand ((cancelRestore c s).ch c).mode ((cancelRestore c s).ch c).l5 = .on := by
    rw [(cancelRestore_only c s).own]
    obtain k | k := Mode.switch_cases switch <;> simp [Chan.restoreCancelled, k, on, normDemand]
  simp [outSet, checked, firstFail, payload, switch, even, level, byteAt, zeroBytes, outSetRun, alone, overAll, stands]

theorem outSet_governed {r : Req} {m : ClampMeas} {c : Ch} {s : State} (payload : r.payload = [0, 0, 0, 0])
    (switch : (s.ch c).mode.isSwitch = true) (lone : (s.ch c).paired = false) (level : (s.govern c).1 ≠ 5) :
    outSet r m c s = .done s stE_STATE [] 0 := by
  have even : s.oddMember c = false := by simp [State.oddMember, lone]
  simp [outSet, checked, firstFail, payload, switch, even, level, byteAt, zeroBytes]

/-- A channel that level 5 governs when its next command is free to run. -/
theorem Ready.atFive {op : BitVec 16} {r : Req} {s : State} {c : Ch} (ready : Ready op r s) (hc : chOf r.obj = some c)
    (switch : (s.ch c).mode.isSwitch = true) (lone : (s.ch c).paired = false) (level : (s.govern c).1 = 5) :
    AtFive c (s.running r) :=
  ⟨lone, by simp [Chan.inBreak, ready.changing hc], switch_unparked switch, level⟩

/-- Settles O18: behind a cancelled restore and an evaluation of the Badger without a head, level 5 takes off in one evaluation of the
switch, and no lock that its turn-off sets turns it on. -/
theorem outSetTurnsASwitchOff : Obligations.OutSetTurnsASwitchOff := by
  intro r m s c hc ready payload switch lone
  refine ⟨fun level on quiet heads => ?_, fun level => ?_⟩
  · have five := ready.atFive hc switch lone level
    let v := cancelRestore c (s.running r)
    have reported : (evaluate v).unreported = v.unreported := evaluate_unreported (cancelRestore_heads c heads)
    have chans : (evaluate v).chans = v.chans := (congrArg State.chans reported :)
    have own : (evaluate v).ch c = ((s.running r).ch c).restoreCancelled := by
      rw [State.ch, chans]
      exact (cancelRestore_only c _).own
    have stands : AtFive c (evaluate v) := by
      refine (five.of_governed (cancelRestore_governed ..) (cancelRestore_burrow ..)).of_chans chans ?_
      rw [show (evaluate v).holm (bankOf c) = v.holm (bankOf c) from (congrArg (·.holm (bankOf c)) reported :)]
      exact ⟨rfl, rfl, rfl, rfl, rfl⟩
    have still : (evaluate v).movedTo (bankOf c) = none := by
      refine movedTo_of_quiet ?_
      rw [show (evaluate v).quietRates (bankOf c) = v.quietRates (bankOf c) from (congrArg (·.quietRates (bankOf c)) reported :),
        cancelRestore_quiet]
      exact quiet
    have link : (evaluate v).linkOk r.obj = true := by
      rw [show (evaluate v).linkOk r.obj = v.linkOk r.obj from (congrArg (·.linkOk r.obj) reported :)]
      simpa only [State.linkOk, State.holm, v, cancelRestore_holms, running_holms] using ready.linkOk
    obtain ⟨done, l5, off, others⟩ := levelChange_off stands (op := 0x0301) (m := m) (by rw [own]; exact switch) still hc link
    have now : (evaluate v).sys.now = s.sys.now := now_of_anchor (by simp [v, State.running])
    have runs := ready.held_ch hc (outSet_off (m := m) (s := s.running r) payload switch lone level on)
    refine ⟨_, rfl, ?_, ?_, ?_, fun d hd => ?_⟩ <;> rw [runs]
    · rw [← now]
      exact done
    · exact l5
    · exact off
    · rw [others d hd, State.ch, chans]
      exact (cancelRestore_only c _).others d hd
  · exact ready.completes_ch hc rfl (outSet_governed (s := s.running r) payload switch lone level) rfl rfl rfl

end Sys2Proof.Machine
end

section
/-! PROOFS. OUT.SET on (R180, R181, R222 to R227): a declared cost that fits every ledger that it raises lets the turn-on run with its
submission. -/

namespace Sys2Proof.Machine

/-! ### A priced command that fits -/

/-- The state without its ports and what waits at the Badger. -/
def State.unheaded (s : State) : State := { s with ports := State.reset.ports, badger := { s.badger with heads := [] } }

/-- Ports and waiting heads take no part in whether a cost fits (R225). -/
theorem failures_unheaded {s t : State} (h : t.unheaded = s.unheaded) (alone : Bool) (prio : Nat) (p : Profile) (on : Option Ch) :
    failures t alone prio p on = failures s alone prio p on := (congrArg (failures · alone prio p on) h :)

/-- Nor do they take part in the cost of a turn-on (R222, R223). -/
theorem turnOnProfile_unheaded {s t : State} (h : t.unheaded = s.unheaded) (op : BitVec 16) (c : Ch) :
    turnOnProfile t op c = turnOnProfile s op c := (congrArg (turnOnProfile · op c) h :)

/-- A turn-on that fits alone and beside the committed forecast, in a bank that is not in shed state, is let run (R226 to R228). -/
theorem Judgeable.lets_turnOn {a : EvalAcc} {h : Head} {r : Req} (j : Judgeable a h r) {p : Profile} {c : Ch}
    (profile : profileOf (a.s.withLimits a.lims) h.opcode h.bytes h.kind = p) (on : h.kind.turnOn? = some c)
    (timely : h.late a.s.sys.now = false) (shed : (a.s.holm p.bank).shed = false) (stagger : a.s.badger.stagger = [])
    (blocked : a.blocked = []) (elastic : a.elastic = [])
    (fits : ∀ alone, failures (a.s.withLimits a.lims) alone h.prio.toNat p (some c) = []) : (evalHead a h).s = letRun h p a.s := by
  have open_ (l : List (Nat × Nat)) : l.find? (fun _ => false) = none := List.find?_eq_none.mpr (by simp)
  simp [evalHead, j.waits, j.holds, j.obj, j.link, j.journal, j.heard, j.req, j.legal, j.kept, profile, on, timely, shed, stagger, blocked,
    elastic, fits, open_, apply_ite]

/-- A turn-on without a deadline that fits runs with its submission. -/
theorem Evaluable.runs_turnOn {op : BitVec 16} {r : Req} {s : State} (e : Evaluable op r s) {c : Ch} (m : ClampMeas)
    (undated : r.deadline = 0) (prio : effPrio s r (.turnOn c) = r.prio) (shed : (s.holm (bankOf c)).shed = false)
    (stagger : s.badger.stagger = []) (fits : ∀ alone, failures s alone r.prio.toNat (turnOnProfile s op c) (some c) = []) :
    ∃ u, (submit op r (.turnOn c) m s).unreported = (applyAdmitted (submitted op r (.turnOn c) m s) u).unreported ∧
      u.unqueued = s.unqueued := by
  let j := (evalStart op r (.turnOn c) m s).s.withLimits (evalStart op r (.turnOn c) m s).lims
  have same : j.unheaded = s.unheaded := rfl
  have profile : profileOf j op (submitted op r (.turnOn c) m s).bytes (.turnOn c) = turnOnProfile s op c := turnOnProfile_unheaded same op c
  obtain ⟨u, lets, kept⟩ := letRun_submitted op r (.turnOn c) m (turnOnProfile s op c) s
  refine ⟨u, ?_, kept⟩
  rw [e.submit_unreported, (e.judged (.turnOn c) m).lets_turnOn profile rfl (by simp [submitted, Head.late, deadlineAt, undated]) shed
    stagger rfl rfl (fun alone => ?_)]
  · exact congrArg State.unreported lets
  · rw [show (submitted op r (.turnOn c) m s).prio = r.prio from prio, failures_unheaded same]
    exact fits alone

/-! ### The command -/

theorem outSet_on {r : Req} {m : ClampMeas} {c : Ch} {s : State} (payload : r.payload = [1, 0, 0, 0]) (mode : (s.ch c).mode = .dout)
    (lone : (s.ch c).paired = false) (level : (s.govern c).1 = 5) (off : (s.ch c).l5 = .off) (restore : (s.ch c).restore = .none)
    (presag : (s.ch c).presag = none) : outSet r m c s = .held (submit 0x0301 r (.turnOn c) m s) := by
  have alone : s.members c = [c] := if_neg (Bool.eq_false_iff.mp lone)
  have even : s.oddMember c = false := by simp [State.oddMember, lone]
  simp [outSet, checked, firstFail, payload, mode, Mode.isSwitch, even, level, byteAt, zeroBytes, outSetRun, alone, overAll,
    cancelRestore_idle restore presag, off, normDemand, deenergised]

/-- Settles O19: the evaluation that the submission brings lets the turn-on run, and level 5 takes on in one evaluation of the switch. -/
theorem outSetTurnsASwitchOnWhenAdmitted : Obligations.OutSetTurnsASwitchOnWhenAdmitted := by
  intro r m s c hc ready payload undated mode lone level off restore presag plain session quiet heads stagger core shed alone beside
  have five := ready.atFive hc (by rw [mode]; rfl) lone level
  have prio : effPrio (s.running r) r (.turnOn c) = r.prio := by
    simp only [effPrio, hc]
    exact if_neg (Bool.eq_false_iff.mp plain)
  have same : (s.running r).unheaded = s.unheaded := rfl
  have fits (b : Bool) : failures (s.running r) b r.prio.toNat (turnOnProfile (s.running r) 0x0301 c) (some c) = [] := by
    rw [failures_unheaded same, turnOnProfile_unheaded same]
    cases b
    · exact beside
    · exact alone
  obtain ⟨u, ran, kept⟩ := (ready.evaluable core heads).runs_turnOn m undated prio shed stagger fits
  have chans : u.chans = s.chans := (congrArg State.chans kept :)
  have own : u.ch c = s.ch c := by rw [State.ch, State.ch, chans]
  have still : u.movedTo (bankOf c) = none :=
    ((congrArg (·.movedTo (bankOf c)) kept :) : u.movedTo (bankOf c) = s.movedTo (bankOf c)).trans (movedTo_of_quiet quiet)
  have link : u.linkOk r.obj = true :=
    ((congrArg (·.linkOk r.obj) kept :) : u.linkOk r.obj = s.linkOk r.obj).trans ready.linkOk
  obtain ⟨done, only⟩ := levelChange_on (op := 0x0301) (m := m) (five.unqueued kept) (by rw [own]; exact mode) (by rw [own]; exact session)
    still hc link
  rw [show u.sys.now = s.sys.now from (congrArg (·.sys.now) kept :)] at done
  have on : OnlyCh c _ s (submit 0x0301 r (.turnOn c) m (s.running r)) := (only.before chans).after (congrArg State.chans ran :)
  rw [own] at on
  have runs := ready.held_ch hc (outSet_on (m := m) (s := s.running r) payload mode lone level off restore presag)
  refine ⟨_, rfl, ?_, ?_⟩ <;> rw [runs]
  · rw [show (submit 0x0301 r (.turnOn c) m (s.running r)).completions = _ from (congrArg State.completions ran :)]
    exact done
  · rw [on.own]
    refine ⟨(putting_on_demanded mode session).1, rfl, rfl, ?_, on.others⟩
    simp [Chan.stoodAt, Chan.drives, Chan.putting, mode]

end Sys2Proof.Machine
end

section
/-! PROOFS. The settings of a switch (R182, R183, R187, R200, R201, R203, R208): what their payloads spell, how both members of a pair
take them, and what a change of the pulse generator leaves. -/

namespace Sys2Proof.Machine

/-! ### A setting of every member -/

/-- The state without its channels. -/
def State.besidesChans (s : State) : State := { s with chans := State.reset.chans }

theorem setSw_besidesChans (c : Ch) (f : Sw → Sw) (s : State) : (setSw c f s).besidesChans = s.besidesChans :=
  overAll_keeps State.besidesChans (f := fun m s => s.setCh m (fun ch => { ch with sw := f ch.sw })) (fun _ _ => rfl) s

/-- A command whose own part sets the switch of every member completes OK with that setting (R57). -/
theorem Ready.completes_setSw {cmd : Instr} {op : BitVec 16} {r : Req} {s : State} {c : Ch} {f : Sw → Sw} {body : Ch → State → Res}
    (ready : Ready op r s) (hc : chOf r.obj = some c) (run : exec cmd s = .next (runCh op r s body))
    (done : body c (s.running r) = ok (setSw c f (s.running r))) :
    Completes cmd op r stOK [] 0 s (setSw c f (s.running r)) := by
  have same := setSw_besidesChans c f (s.running r)
  exact ready.completes_ch hc run done (congrArg (·.linkOk r.obj) same :) (congrArg State.completions same :)
    (congrArg (·.sys.now) same :)

section
variable {r : Req} {c : Ch} {s : State}

theorem outProt_ok {w : BitVec 64} (switch : (s.ch c).mode.isSwitch = true) (even : s.oddMember c = false)
    (payload : r.payload = le64 w.toNat) (reserved : w &&& 0x000000000F80FFFC#64 = 0) (shortest : 1 ≤ fld w 63 48)
    (longest : fld w 63 48 ≤ 3600) (least : 100 ≤ fld w 47 32) (most : fld w 47 32 ≤ 1500) (low : 20 ≤ fld w 22 16)
    (high : fld w 22 16 ≤ 80) (buckets : ∀ m ∈ s.members c, (s.ch m).sw.bucket ≤ 100 * fld w 47 32) :
    outProt r c s = ok (setSw c (fun x => { x with prot := w }) s) := by
  have word : word64 r.payload 0 = w := by rw [payload, word64_le64]
  have length : r.payload.length = 8 := by simp [payload, le64]
  have within : (s.members c).all (fun m => decide ((s.ch m).sw.bucket ≤ 100 * fld w 47 32)) = true := by simpa using buckets
  simp [outProt, checked, firstFail, word, length, switch, even, rsvZero_of_and reserved, protRange, shortest, longest, least, most, low,
    high, within]

theorem outWire_ok {w : BitVec 32} (even : s.oddMember c = false) (payload : r.payload = le32 w.toNat)
    (reserved : w &&& 0x70C0E0FF#32 = 0) (bundle : fld w 27 24 ≤ 12) (class_ : fld w 21 20 ≠ 3) (section_ : fld w 19 16 ≤ 7)
    (margin : fld w 12 8 ≤ 30) : outWire r c s = ok (setSw c (fun x => { x with wire := w }) s) := by
  have word : word32 r.payload 0 = w := by rw [payload, word32_le32]
  have length : r.payload.length = 4 := by simp [payload, le32]
  simp [outWire, checked, firstFail, word, length, even, rsvZero_of_and reserved, bundle, class_, section_, margin]

theorem outFuse_ok {n t : Nat} {d : List Byte} (even : s.oddMember c = false)
    (payload : r.payload = [BitVec.ofNat 8 n, 0] ++ le16 t ++ d) (two : 2 ≤ n) (eight : n ≤ 8) (shortest : 1 ≤ t) (longest : t ≤ 3600)
    (points : d.length = 4 * n) (falls : fuseOk (fusePoints r.payload n) = true) :
    outFuse r c s = ok (setSw c (fun x => { x with fuse := { tcool := t, pts := fusePoints r.payload n } }) s) := by
  have number : leAt r.payload 0 1 = n := by
    simp [payload, leAt, byteAt]
    omega
  have cooling : leAt r.payload 2 2 = t := by
    rw [payload, List.append_assoc, leAt_append (a := [BitVec.ofNat 8 n, 0]) (k := 2) rfl (i := 0), le16, leAt_leBytes]
    omega
  have length : r.payload.length = 4 + 4 * n := by
    simp [payload, le16, points]
    omega
  have zero : zeroBytes r.payload 1 1 = true := by simp [payload, zeroBytes]
  simp [outFuse, checked, firstFail, even, number, cooling, length, zero, two, eight, shortest, longest, falls]

theorem outDiag_ok {w : BitVec 32} (switch : (s.ch c).mode.isSwitch = true) (even : s.oddMember c = false)
    (payload : r.payload = le32 w.toNat) (reserved : w &&& 0xFF1F0000#32 = 0)
    (least : (if bit w 21 then 5 else 10) ≤ fld w 15 8) (most : fld w 15 8 ≤ 100) (current : 1 ≤ fld w 7 0) :
    outDiag r c s = ok (setSwDiag c w s) := by
  have word : word32 r.payload 0 = w := by rw [payload, word32_le32]
  have length : r.payload.length = 4 := by simp [payload, le32]
  simp [outDiag, checked, firstFail, word, length, switch, even, rsvZero_of_and reserved, least, most, current]

/-! ### The pulse generator -/

/-- The payload that spells settings of the pulse generator (R200). -/
def Pgen.bytes (g : Pgen) : List Byte :=
  le32 g.period.toNat ++ le16 g.duty.toNat ++ [g.phase, BitVec.ofNat 8 (b2n g.phauto), 0, 0, 0, 0]

theorem pgenOf_bytes (g : Pgen) : pgenOf g.bytes = g := by
  have period : word32 g.bytes 0 = g.period := by rw [Pgen.bytes, List.append_assoc, word32_le32_append]
  have duty : word16 g.bytes 4 = g.duty := by
    rw [word16, Pgen.bytes, List.append_assoc, leAt_append (a := le32 g.period.toNat) (k := 4) (leBytes_length ..) (i := 0)]
    exact word16_le16 ..
  have phase : byteAt g.bytes 6 = g.phase := byteAt_append (a := le32 g.period.toNat ++ le16 g.duty.toNat) (k := 6) rfl _ 0
  have phauto : bit (byteAt g.bytes 7) 0 = g.phauto := by
    rw [show byteAt g.bytes 7 = BitVec.ofNat 8 (b2n g.phauto) from
      byteAt_append (a := le32 g.period.toNat ++ le16 g.duty.toNat) (k := 6) rfl _ 1]
    cases g.phauto <;> rfl
  rw [pgenOf, period, duty, phase, phauto]

theorem outPgen_ok {g : Pgen} (switch : (s.ch c).mode.isSwitch = true) (even : s.oddMember c = false) (payload : r.payload = g.bytes)
    (least : 2458 ≤ g.period.toNat) (most : g.period.toNat ≤ 245760000)
    (timebase : (s.ch c).mode = .dop → tbAvailable s c g.period = true) : outPgen r c s = ok (setPgen c g s) := by
  have length : r.payload.length = 12 := by simp [payload, Pgen.bytes, le32, le16]
  have flags : rsvZero (byteAt r.payload 7) 0xFE#8 = true := by
    rw [payload, show byteAt g.bytes 7 = BitVec.ofNat 8 (b2n g.phauto) from
      byteAt_append (a := le32 g.period.toNat ++ le16 g.duty.toNat) (k := 6) rfl _ 1]
    cases g.phauto <;> rfl
  have zero : zeroBytes r.payload 8 4 = true := by simp [payload, Pgen.bytes, zeroBytes, le32, le16, leBytes]
  have spelled : pgenOf r.payload = g := by rw [payload, pgenOf_bytes]
  have had : ((s.ch c).mode != .dop || tbAvailable s c g.period) = true := by
    by_cases dop : (s.ch c).mode = .dop
    · simp [timebase dop]
    · simp [dop]
  simp [outPgen, checked, firstFail, switch, even, length, flags, zero, spelled, least, most, had]

end

/-- A generator setting that a channel takes: in DOP it comes into force at the next on edge (R200, R201). -/
def Chan.givenPgen (g : Pgen) (same : Bool) (ch : Chan) : Chan :=
  { ch with sw := { ch.sw with
    pgen := g
    prun := if ch.mode == .dop then ch.sw.prun else g
    tbNext := if same then ch.sw.tbNext else none } }

/-- Every member has taken a generator setting. -/
def State.givenPgen (s : State) (c : Ch) (g : Pgen) : State :=
  overAll (s.members c) (fun m s' => s'.setCh m (Chan.givenPgen g (g.period == (s.ch c).sw.pgen.period))) s

/-- How a DOP channel goes on with it (R199, R201). -/
theorem setPgen_eq (c : Ch) (g : Pgen) (s : State) : setPgen c g s =
    let u := s.givenPgen c g
    if (u.ch c).mode != .dop then u
    else if (u.ch c).sw.tb.isNone then tbSettle (bankOf c) (tbTake c u)
    else tbSettle (bankOf c) (placePhase c (if g.period == (s.ch c).sw.pgen.period then u else tbChange c g.period u)) := rfl

/-- In DO a lone channel has the setting at once. -/
theorem setPgen_dout {c : Ch} {g : Pgen} {s : State} (mode : (s.ch c).mode = .dout) (lone : (s.ch c).paired = false) :
    setPgen c g s = s.setCh c (fun ch => { ch with sw := { ch.sw with
      pgen := g
      prun := g
      tbNext := if g.period = ch.sw.pgen.period then ch.sw.tbNext else none } }) := by
  have alone : s.members c = [c] := if_neg (Bool.eq_false_iff.mp lone)
  have given : s.givenPgen c g = s.setCh c (Chan.givenPgen g (g.period == (s.ch c).sw.pgen.period)) := by
    rw [State.givenPgen, alone]
    rfl
  have still : ((s.givenPgen c g).ch c).mode = .dout := by
    rw [given, State.setCh_ch_self]
    exact mode
  rw [setPgen_eq]
  dsimp only
  rw [if_pos (by rw [still]; rfl), given]
  refine setCh_congr ?_
  simp [Chan.givenPgen, mode]

/-! ### What a change of the generator leaves in DOP -/

/-- A loop of updates of one channel each gives its channels a value that none of the updates changes again. -/
theorem setChs_sets {β : Type} (p : Chan → β) {l : List Ch} {f : Chan → Chan} {x : β} (h : ∀ ch, p (f ch) = x) {c : Ch} (hc : c ∈ l)
    (s : State) : p ((overAll l (fun m s => s.setCh m f) s).ch c) = x := by
  have stays (l : List Ch) (u : State) (hu : p (u.ch c) = x) : p ((overAll l (fun m s => s.setCh m f) u).ch c) = x := by
    unfold overAll
    induction l generalizing u with
    | nil => exact hu
    | cons a l ih =>
      refine ih _ ?_
      by_cases e : c = a
      · rw [e, State.setCh_ch_self, h]
      · rw [State.setCh_ch_ne _ _ _ _ e, hu]
  unfold overAll
  induction l generalizing s with
  | nil => exact absurd hc List.not_mem_nil
  | cons a l ih =>
    obtain rfl | hc := List.mem_cons.mp hc
    · exact stays l _ (by rw [State.setCh_ch_self, h])
    · exact ih hc _

/-- A channel that is no odd member is one of its members. -/
theorem mem_members_of_even {s : State} {c : Ch} (even : s.oddMember c = false) : c ∈ s.members c := by
  unfold State.members
  split
  · next paired =>
    have lead : c.val % 2 = 0 := by
      have odd : (c.val % 2 == 1) = false := by simpa [State.oddMember, paired] using even
      have := beq_eq_false_iff_ne.mp odd
      omega
    rw [evenOf_of_even lead]
    exact List.mem_cons_self ..
  · exact List.mem_singleton_self c

/-- A change of the timebase leaves the channels, or moves the members to a timebase that holds the period (R199). -/
theorem tbChange_cases (c : Ch) (period : BitVec 32) (s : State) : (tbChange c period s).chans = s.chans ∨
    ∃ k, tbChange c period s = tbMove c k (tbSet (bankOf c) k period s) := by
  unfold tbChange
  extract_lets b
  split
  · extract_lets holds
    split
    · exact .inl rfl
    · split
      · exact .inl rfl
      · exact .inr ⟨_, rfl⟩
  · split <;> exact .inl rfl
  · exact .inl rfl

/-- A change of the timebase changes no more of a channel than the one that it moves to. -/
theorem tbChange_keeps {β : Type} (p : Chan → β) (h : ∀ ch k, p { ch with sw := { ch.sw with tbNext := k } } = p ch) (c : Ch)
    (period : BitVec 32) (s : State) (d : Ch) : p ((tbChange c period s).ch d) = p (s.ch d) := by
  obtain chans | ⟨k, moved⟩ := tbChange_cases c period s
  · rw [State.ch, chans]
    rfl
  · rw [moved]
    exact setChs_keeps p _ (fun _ ch => { ch with sw := { ch.sw with tbNext := some (k, _) } }) (tbSet (bankOf c) k period s) d
      fun _ ch => h ch _

/-- Settings without the phase, which PHAUTO leaves to the Badger (R202). -/
def Pgen.unphased (g : Pgen) : Pgen := { g with phase := 0 }

def Chan.unphased (ch : Chan) : Pgen := ch.sw.pgen.unphased

/-- A channel whose on edge the Badger has placed (R202). -/
def Chan.atPhase (x : Byte) (ch : Chan) : Chan := { ch with sw := { ch.sw with pgen := { ch.sw.pgen with phase := x } } }

theorem placePhase_cases (c : Ch) (s : State) : placePhase c s = s ∨
    ∃ x, placePhase c s = overAll (s.members c) (fun m u => u.setCh m (Chan.atPhase x)) s := by
  unfold placePhase
  split
  · exact .inl rfl
  · dsimp only
    split
    · exact .inl rfl
    · split
      · exact .inl rfl
      · exact .inr ⟨_, rfl⟩

theorem placePhase_keeps {β : Type} (p : Chan → β) (h : ∀ ch x, p (ch.atPhase x) = p ch) (c : Ch) (s : State) (d : Ch) :
    p ((placePhase c s).ch d) = p (s.ch d) := by
  obtain e | ⟨x, e⟩ := placePhase_cases c s <;> rw [e]
  exact setChs_keeps p _ (fun _ => Chan.atPhase x) s d fun _ ch => h ch x

/-- A channel that joins a timebase at a count of the oscillator (R199, R202). -/
def Chan.joining (k : Fin 4) (now : Nat) (ch : Chan) : Chan :=
  { ch with sw := { ch.sw with tb := some k, tbNext := none, edgeFrom := now } }

/-- A channel whose commanded settings are in force. -/
def Chan.inForce (ch : Chan) : Chan := { ch with sw := { ch.sw with prun := ch.sw.pgen } }

/-- The members of a channel have joined a timebase. -/
def State.joined (s : State) (c : Ch) (k : Fin 4) : State :=
  overAll (s.members c) (fun m u => u.setCh m (Chan.joining k (u.tbNow (bankOf c)))) s

/-- A channel takes no timebase, or joins one with its commanded settings in force (R199). -/
theorem tbTake_cases (c : Ch) (s : State) : tbTake c s = s ∨ ∃ k v, v.chans = s.chans ∧
    tbTake c s = overAll ((State.joined v c k).members c) (fun m u => u.setCh m Chan.inForce) (placePhase c (v.joined c k)) := by
  unfold tbTake
  split
  · split
    · exact .inl rfl
    · next k _ => exact .inr ⟨k, tbSet (bankOf c) k (s.ch c).sw.pgen.period s, rfl, rfl⟩
  · exact .inl rfl

theorem tbTake_unphased (c : Ch) (s : State) (d : Ch) : ((tbTake c s).ch d).unphased = (s.ch d).unphased := by
  obtain e | ⟨k, v, chans, e⟩ := tbTake_cases c s <;> rw [e]
  calc ((overAll ((v.joined c k).members c) (fun m u => u.setCh m Chan.inForce) (placePhase c (v.joined c k))).ch d).unphased
    _ = ((placePhase c (v.joined c k)).ch d).unphased := setChs_keeps Chan.unphased _ (fun _ => Chan.inForce) _ d fun _ _ => rfl
    _ = ((v.joined c k).ch d).unphased := placePhase_keeps Chan.unphased (fun _ _ => rfl) c _ d
    _ = (v.ch d).unphased := setChs_keeps Chan.unphased _ (fun u => Chan.joining k (u.tbNow (bankOf c))) v d fun _ _ => rfl
    _ = (s.ch d).unphased := by rw [State.ch, chans]; rfl

theorem tbSettle_unphased (b : Bank) (s : State) (d : Ch) : ((tbSettle b s).ch d).unphased = (s.ch d).unphased :=
  overAll_keeps (fun u => (u.ch d).unphased) (fun c u => tbTake_unphased c u d) (tbRelease b s)

theorem setPgen_unphased {c : Ch} {g : Pgen} {s : State} (even : s.oddMember c = false) :
    ((setPgen c g s).ch c).unphased = g.unphased := by
  have given : ((s.givenPgen c g).ch c).unphased = g.unphased := 
    setChs_sets Chan.unphased (f := Chan.givenPgen g _) (fun _ => rfl) (mem_members_of_even even) s
  rw [setPgen_eq]
  dsimp only
  split
  · exact given
  · split
    · rw [tbSettle_unphased, tbTake_unphased, given]
    · rw [tbSettle_unphased, placePhase_keeps Chan.unphased (fun _ _ => rfl)]
      split
      · exact given
      · rw [tbChange_keeps Chan.unphased (fun _ _ => rfl), given]

theorem givenPgen_besidesTb (c : Ch) (g : Pgen) (s : State) (d : Ch) : ((s.givenPgen c g).ch d).besidesTb = (s.ch d).besidesTb :=
  setChs_keeps Chan.besidesTb _ _ s d fun _ _ => rfl

theorem setPgen_besidesTb (c : Ch) (g : Pgen) (s : State) (d : Ch) : ((setPgen c g s).ch d).besidesTb = (s.ch d).besidesTb := by
  rw [setPgen_eq, ← givenPgen_besidesTb c g s d]
  dsimp only
  split
  · rfl
  · split
    · rw [tbSettle_besidesTb, tbTake_besidesTb]
    · rw [tbSettle_besidesTb, placePhase_besidesTb]
      split
      · rfl
      · rw [tbChange_keeps Chan.besidesTb (fun _ _ => rfl)]

theorem pgen_of_unphased {ch : Chan} {g : Pgen} (h : ch.unphased = g.unphased) :
    ch.sw.pgen.period = g.period ∧ ch.sw.pgen.duty = g.duty ∧ ch.sw.pgen.phauto = g.phauto :=
  ⟨(congrArg Pgen.period h :), (congrArg Pgen.duty h :), (congrArg Pgen.phauto h :)⟩

/-- What a place on a timebase leaves of a channel includes its mode, what it drives and its protection. -/
theorem drive_of_besidesTb {x y : Chan} (h : y.besidesTb = x.besidesTb) :
    y.conducting = x.conducting ∧ y.mode = x.mode ∧ y.out = x.out ∧ y.l5 = x.l5 ∧ y.sw.prot = x.sw.prot :=
  ⟨(congrArg Chan.conducting h :), (congrArg Chan.mode h :), (congrArg Chan.out h :), (congrArg Chan.l5 h :),
   (congrArg (·.sw.prot) h :)⟩

/-! ### A channel that stays on its timebase -/

/-- The timebase of a channel and the settings in force, in a device without pairs. -/
structure OnTimebase (c : Ch) (k : Fin 4) (g : Pgen) (s : State) : Prop where
  lone : ∀ d : Ch, (s.ch d).paired = false
  tb : (s.ch c).sw.tb = some k
  prun : (s.ch c).sw.prun = g

/-- What of a channel says that it stays there. -/
def Chan.place (ch : Chan) : Bool × Option (Fin 4) × Pgen := (ch.paired, ch.sw.tb, ch.sw.prun)

theorem OnTimebase.of_place {c : Ch} {k : Fin 4} {g : Pgen} {s t : State} (h : OnTimebase c k g s)
    (same : ∀ d, (t.ch d).place = (s.ch d).place) : OnTimebase c k g t :=
  ⟨fun d => (congrArg Prod.fst (same d) :).trans (h.lone d), (congrArg (·.2.1) (same c) :).trans h.tb,
   (congrArg (·.2.2) (same c) :).trans h.prun⟩

theorem placePhase_place (c : Ch) (s : State) (d : Ch) : ((placePhase c s).ch d).place = (s.ch d).place :=
  placePhase_keeps Chan.place (fun _ _ => rfl) c s d

/-- A loop of updates of one channel each leaves every other channel. -/
theorem setChs_others {l : List Ch} {d : Ch} (f : State → Chan → Chan) (h : d ∉ l) (s : State) :
    (overAll l (fun m u => u.setCh m (f u)) s).ch d = s.ch d :=
  overAll_keeps_mem (·.ch d) (fun _ hm _ => State.setCh_ch_ne _ _ _ _ fun e => h (e ▸ hm)) s

theorem not_mem_members {s : State} {c d : Ch} (lone : (s.ch c).paired = false) (h : d ≠ c) : d ∉ s.members c := by
  rw [State.members, if_neg (Bool.eq_false_iff.mp lone)]
  exact fun k => h (List.mem_singleton.mp k)

/-- A lone channel that takes a timebase changes no other. -/
theorem tbTake_others {c d : Ch} {s : State} (lone : (s.ch c).paired = false) (h : d ≠ c) : (tbTake c s).ch d = s.ch d := by
  obtain e | ⟨k, v, chans, e⟩ := tbTake_cases c s <;> rw [e]
  have alone : (v.ch c).paired = false := by rw [State.ch, chans]; exact lone
  have joined : ((v.joined c k).ch c).paired = false :=
    (setChs_keeps Chan.paired _ (fun u => Chan.joining k (u.tbNow (bankOf c))) v c fun _ _ => rfl).trans alone
  have placed : (placePhase c (v.joined c k)).ch d = (v.joined c k).ch d := by
    obtain e | ⟨x, e⟩ := placePhase_cases c (v.joined c k) <;> rw [e]
    exact setChs_others (fun _ => Chan.atPhase x) (not_mem_members joined h) _
  calc (overAll ((v.joined c k).members c) (fun m u => u.setCh m Chan.inForce) (placePhase c (v.joined c k))).ch d
    _ = (placePhase c (v.joined c k)).ch d := setChs_others (fun _ => Chan.inForce) (not_mem_members joined h) _
    _ = (v.joined c k).ch d := placed
    _ = v.ch d := setChs_others (fun u => Chan.joining k (u.tbNow (bankOf c))) (not_mem_members alone h) v
    _ = s.ch d := by rw [State.ch, chans]; rfl

theorem OnTimebase.tbTake {c : Ch} {k : Fin 4} {g : Pgen} {s : State} (h : OnTimebase c k g s) (d : Ch) :
    OnTimebase c k g (Machine.tbTake d s) := by
  by_cases e : d = c
  · rw [Machine.tbTake, if_neg (by simp [e, h.tb])]
    exact h
  · have lone (x : Ch) : ((Machine.tbTake d s).ch x).paired = false :=
      ((congrArg Chan.paired (tbTake_besidesTb d s x) :)).trans (h.lone x)
    have own := tbTake_others (h.lone d) (Ne.symm e)
    exact ⟨lone, by rw [own, h.tb], by rw [own, h.prun]⟩

theorem OnTimebase.tbSettle {c : Ch} {k : Fin 4} {g : Pgen} {s : State} (h : OnTimebase c k g s) (b : Bank) :
    OnTimebase c k g (Machine.tbSettle b s) := by
  have released : OnTimebase c k g (tbRelease b s) := h.of_place fun _ => rfl
  unfold Machine.tbSettle overAll
  generalize tbRelease b s = u at released
  induction bankChs b generalizing u with
  | nil => exact released
  | cons d l ih => exact ih _ (released.tbTake d)

/-- A DOP channel on a timebase keeps the settings in force over a change of its commanded ones (R201). -/
theorem setPgen_prun {c : Ch} {g : Pgen} {s : State} (mode : (s.ch c).mode = .dop) (tb : (s.ch c).sw.tb ≠ none)
    (lone : ∀ d : Ch, (s.ch d).paired = false) : ((setPgen c g s).ch c).sw.prun = (s.ch c).sw.prun := by
  obtain ⟨k, hk⟩ := Option.ne_none_iff_exists'.mp tb
  have alone : s.members c = [c] := if_neg (Bool.eq_false_iff.mp (lone c))
  have given : s.givenPgen c g = s.setCh c (Chan.givenPgen g (g.period == (s.ch c).sw.pgen.period)) := by
    rw [State.givenPgen, alone]
    rfl
  have on : OnTimebase c k (s.ch c).sw.prun (s.givenPgen c g) := by
    have own : ((s.givenPgen c g).ch c).sw.prun = (s.ch c).sw.prun := by
      rw [given, State.setCh_ch_self]
      simp [Chan.givenPgen, mode]
    refine ⟨fun d => (congrArg Chan.paired (givenPgen_besidesTb c g s d) :).trans (lone d), ?_, own⟩
    rw [given, State.setCh_ch_self]
    exact hk
  rw [setPgen_eq]
  dsimp only
  split
  · exact on.prun
  · rw [if_neg (by simp [on.tb])]
    refine OnTimebase.prun (k := k) ((on.of_place fun d => ?_).tbSettle _)
    rw [placePhase_place]
    split
    · rfl
    · rw [tbChange_keeps Chan.place (fun _ _ => rfl)]

/-! ### The statement -/

theorem tbChange_stays (F : Frame) (c period s) : F.Stays s (tbChange c period s) := by
  refine .intro ?_
  unfold tbChange
  dsimp only
  split <;> simp [tbRenew, tbMove]

theorem setPgen_calm (c : Ch) (g : Pgen) (s : State) : calm.rel s (setPgen c g s) :=
  calm.keeps (by simp [setPgen, tbChange_stays])

/-- Settles O20: every member takes a setting at once, and in DOP the timebases that follow a new period change no more of a channel
than where it stands on them. -/
theorem switchSettingsTakeTheirWords : Obligations.SwitchSettingsTakeTheirWords := by
  intro r s c hc switch even all
  refine ⟨fun w ready payload reserved shortest longest least most low high buckets => ?_,
    fun w ready payload reserved bundle class_ section_ margin => ?_,
    fun n t d ready payload two eight shortest longest points falls => ?_,
    fun w ready payload reserved least most current => ?_,
    fun g ready payload least most => ⟨fun mode lone => ?_, fun mode timebase => ?_⟩⟩
  · exact ready.completes_setSw hc rfl (outProt_ok switch even payload reserved shortest longest least most low high buckets)
  · exact ready.completes_setSw hc rfl (outWire_ok even payload reserved bundle class_ section_ margin)
  · exact ready.completes_setSw hc rfl (outFuse_ok even payload two eight shortest longest points falls)
  · exact ready.completes_setSw hc rfl (outDiag_ok switch even payload reserved least most current)
  · have body := outPgen_ok (s := s.running r) switch even payload least most fun dop => absurd (mode.symm.trans dop) (by decide)
    rw [setPgen_dout (s := s.running r) mode lone] at body
    exact ready.completes_ch hc rfl body rfl rfl rfl
  · obtain ⟨done, chans⟩ := runCh_ok ready hc (outPgen_ok (s := s.running r) switch even payload least most fun _ => timebase)
      (setPgen_calm ..) (now_of_anchor (by simp [State.running]))
    obtain ⟨period, duty, phauto⟩ := pgen_of_unphased (setPgen_unphased (c := c) (g := g) (s := s.running r) even)
    have kept (d : Ch) := drive_of_besidesTb (setPgen_besidesTb c g (s.running r) d)
    obtain ⟨conducting, -, out, -⟩ := kept c
    refine ⟨_, rfl, done, ?_⟩
    simp only [chans]
    exact ⟨period, duty, phauto, out, conducting, fun tb lone => setPgen_prun (s := s.running r) mode tb lone,
      fun d => (kept d).2⟩

end Sys2Proof.Machine
end

section
/-! PROOFS. OUT.CLEAR (R37, R198): the locks that it names end where their conditions hold, level 5 then takes the de-energised state, and
the evaluation that follows changes neither. -/

namespace Sys2Proof.Machine

/-- Locks without those that the flags of an OUT.CLEAR name (R198). -/
def Locks.cleared (fl : Byte) (l : Locks) : Locks :=
  { l with
    fuse := l.fuse && !bit fl 0
    clamp := l.clamp && !bit fl 1
    thermHold := l.thermHold && !bit fl 2
    thermLatch := l.thermLatch && !bit fl 2
    seqFault := l.seqFault && !bit fl 4 }

/-- A named lock is set. -/
def Locks.named (fl : Byte) (l : Locks) : Bool :=
  bit fl 0 && l.fuse || bit fl 1 && l.clamp || bit fl 2 && (l.thermHold || l.thermLatch) || bit fl 4 && l.seqFault

theorem cleared_of_not_named {fl : Byte} {l : Locks} (h : l.named fl = false) : l.cleared fl = l := by
  simp only [Locks.named, Bool.or_eq_false_iff, Bool.and_eq_false_imp] at h
  obtain ⟨⟨⟨fuse, clamp⟩, therm⟩, seq⟩ := h
  cases l
  cases b0 : bit fl 0 <;> cases b1 : bit fl 1 <;> cases b2 : bit fl 2 <;> cases b4 : bit fl 4 <;> simp_all [Locks.cleared]

/-- A channel whose named locks end: level 5 takes the de-energised state, and no alarm is driven (R37, R198). -/
def Chan.unlocked (fl : Byte) (ch : Chan) : Chan :=
  if ch.locks.named fl then
    { ch with
      locks := ch.locks.cleared fl
      l5 := ch.putL5 (deenergised ch.mode)
      loop := { ch.loop with alarm := false, fallback := false } }
  else ch

/-- A channel whose learned inrush is forgotten where the flags name it (R190, R198). -/
def Chan.unlearned (fl : Byte) (ch : Chan) : Chan :=
  if bit fl 3 then { ch with sw := { ch.sw with learned := false, ipk := 0, qin := 0, i100 := 0 } } else ch

/-- The fields of a channel that an OUT.CLEAR may change, but for what the evaluation that follows decides. -/
structure Released (x y : Chan) : Prop where
  locks : y.locks = x.locks
  l5 : y.l5 = x.l5
  learned : y.sw.learned = x.sw.learned
  ipk : y.sw.ipk = x.sw.ipk
  qin : y.sw.qin = x.sw.qin
  i100 : y.sw.i100 = x.sw.i100

section
variable {c : Ch} {fl : Byte} {s : State}

/-- OUT.CLEAR changes a lone channel as its flags say, and evaluates it; its events change no channel. -/
theorem clearLocks_lone (lone : (s.ch c).paired = false) : ∃ u, OnlyCh c (((s.ch c).unlocked fl).unlearned fl) s u ∧
    u.holms = s.holms ∧ (clearLocks c fl s).chans = (evalOne c u).chans := by
  have alone : s.members c = [c] := if_neg (Bool.eq_false_iff.mp lone)
  unfold clearLocks
  extract_lets mem has fuse clamp therm seqf clr s1 s2 s3 s4 s5 s6
  have own (f : Locks → Bool) : has f = f (s.ch c).locks := by simp [has, mem, alone]
  have named : (fuse || clamp || therm || seqf) = (s.ch c).locks.named fl := by simp [fuse, clamp, therm, seqf, own, Locks.named]
  have clears : clr (s.ch c).locks = (s.ch c).locks.cleared fl := by
    have one (a b : Bool) : (a && !(b && a)) = (a && !b) := by cases a <;> cases b <;> rfl
    have left (a a' b : Bool) : (a && !(b && (a || a'))) = (a && !b) := by cases a <;> cases b <;> rfl
    have right (a a' b : Bool) : (a' && !(b && (a || a'))) = (a' && !b) := by cases a <;> cases a' <;> cases b <;> rfl
    simp only [clr, fuse, clamp, therm, seqf, own, one, left, right, Locks.cleared]
  have first : OnlyCh c ((s.ch c).unlocked fl) s s1 ∧ s1.holms = s.holms := by
    by_cases h : (s.ch c).locks.named fl = true
    · have e : s1 = (s.setCh c (Chan.withLocks clr)).setCh c fun ch => { ch with
          l5 := ch.putL5 (deenergised ch.mode)
          loop := { ch.loop with alarm := false, fallback := false } } := by
        have still : (s.setCh c (Chan.withLocks clr)).members c = [c] :=
          if_neg (by rw [State.setCh_ch_self]; exact Bool.eq_false_iff.mp lone)
        have locks : overAll mem (fun m s => s.setCh m (Chan.withLocks clr)) s = s.setCh c (Chan.withLocks clr) := by
          rw [show mem = [c] from alone]
          rfl
        rw [show s1 = dropL5 c (overAll mem (fun m s => s.setCh m (Chan.withLocks clr)) s) from if_pos (named.trans h), locks, dropL5,
          still]
        rfl
      rw [e]
      refine ⟨((OnlyCh.setCh c (Chan.withLocks clr) s).trans (.setCh c _ _)).congr ?_, rfl⟩
      rw [State.setCh_ch_self, Chan.withLocks, clears, Chan.unlocked, if_pos h]
      rfl
    · have e : s1 = s := if_neg (by rw [named]; exact h)
      rw [e, Chan.unlocked, if_neg h]
      exact ⟨.refl rfl, rfl⟩
  have still : (s1.ch c).paired = false := by
    rw [first.1.own, Chan.unlocked]
    split <;> exact lone
  have second : OnlyCh c (((s.ch c).unlocked fl).unlearned fl) s s2 ∧ s2.holms = s.holms := by
    by_cases h : bit fl 3 = true
    · have e : s2 = s1.setCh c (Chan.unlearned fl) := by
        rw [show s2 = _ from if_pos h, lead_of_unpaired still]
        exact setCh_congr (by rw [Chan.unlearned, if_pos h])
      rw [e]
      refine ⟨(first.1.trans (.setCh c (Chan.unlearned fl) s1)).congr ?_, first.2⟩
      rw [first.1.own]
    · have e : s2 = s1 := if_neg h
      rw [e, Chan.unlearned, if_neg h]
      exact first
  refine ⟨s2, second.1, second.2, ?_⟩
  have eval : s3 = evalOne c s2 := by
    refine evalOut_of_unpaired ?_
    rw [second.1.own, Chan.unlearned, Chan.unlocked]
    split <;> split <;> exact lone
  have events : s6.chans = s3.chans := by
    simp only [s6, s5, s4, swEvent, notifyCh, apply_ite State.chans, notify_chans, ite_self]
  rw [← eval, ← events]
  split
  · exact notify_chans ..
  · rfl

/-- Of a lone channel without actions what an OUT.CLEAR has set stays through its evaluation, and no other channel changes (R36, R37). -/
theorem clearLocks_released (lone : (s.ch c).paired = false) (acts : (s.ch c).acts = []) :
    Released (((s.ch c).unlocked fl).unlearned fl) ((clearLocks c fl s).ch c) ∧
      ∀ d : Ch, d ≠ c → (clearLocks c fl s).ch d = s.ch d := by
  obtain ⟨u, only, -, chans⟩ := clearLocks_lone (fl := fl) lone
  have same (d : Ch) : (clearLocks c fl s).ch d = (evalOne c u).ch d := by rw [State.ch, chans]; rfl
  have alone : (u.ch c).paired = false := by
    rw [only.own, Chan.unlearned, Chan.unlocked]
    split <;> split <;> exact lone
  have idle : (u.ch c).action = none := by
    have none : (u.ch c).acts = [] := by
      rw [only.own, Chan.unlearned, Chan.unlocked]
      split <;> split <;> exact acts
    rw [Chan.action, none]
    rfl
  have out := (evalOne_outputs c u).chan c
  have l5 := evalOne_l5_of_idle alone idle c
  rw [only.own] at out l5
  refine ⟨?_, fun d hd => (same d).trans ((evalOne_others alone hd).trans (only.others d hd))⟩
  rw [same]
  exact ⟨(congrArg Chan.locks out :), l5, (congrArg (·.sw.learned) out :), (congrArg (·.sw.ipk) out :), (congrArg (·.sw.qin) out :),
    (congrArg (·.sw.i100) out :)⟩

/-! ### The command -/

theorem outClear_ok {r : Req} (mode : clearMode (s.ch c).mode fl = true) (lone : (s.ch c).paired = false) (payload : r.payload = [fl])
    (reserved : fl &&& 0xE0 = 0) (loaded : bit fl 4 = true → (s.ch c).reloading = false) (allowed : clearAllowed s c fl = true) :
    outClear r c s = ok (clearLocks c fl s) := by
  have even : s.oddMember c = false := by simp [State.oddMember, lone]
  have alone : s.members c = [c] := if_neg (Bool.eq_false_iff.mp lone)
  have zero : rsvZero fl 0xE0#8 = true := rsvZero_of_and reserved
  have free : (bit fl 4 && (s.ch c).reloading) = false := by
    cases h : bit fl 4
    · rfl
    · rw [loaded h]; rfl
  simp [outClear, checked, firstFail, payload, byteAt, mode, even, alone, zero, free, allowed]

theorem outClear_early {r : Req} (mode : clearMode (s.ch c).mode fl = true) (lone : (s.ch c).paired = false)
    (payload : r.payload = [fl]) (reserved : fl &&& 0xE0 = 0) (loaded : bit fl 4 = true → (s.ch c).reloading = false)
    (early : clearAllowed s c fl = false) : outClear r c s = .done s stE_THERMAL [] 0 := by
  have even : s.oddMember c = false := by simp [State.oddMember, lone]
  have alone : s.members c = [c] := if_neg (Bool.eq_false_iff.mp lone)
  have zero : rsvZero fl 0xE0#8 = true := rsvZero_of_and reserved
  have free : (bit fl 4 && (s.ch c).reloading) = false := by
    cases h : bit fl 4
    · rfl
    · rw [loaded h]; rfl
  simp [outClear, checked, firstFail, payload, byteAt, mode, even, alone, zero, free, early]

/-- The fuse lock of the wire model may be cleared 5 K below the trip temperature (R198). -/
theorem clearAllowed_fuse (lone : (s.ch c).paired = false) (fuse : (s.ch c).locks.fuse = true)
    (wire : bit (s.ch c).sw.wire 31 = false) :
    clearAllowed s c 1 = decide ((s.ch c).sw.theta ≤ thetaTrip (s.ch c).sw.wire - 5000000000000) := by
  have alone : s.members c = [c] := if_neg (Bool.eq_false_iff.mp lone)
  have b0 : bit 1#8 0 = true := by decide
  have b1 : bit 1#8 1 = false := by decide
  have b2 : bit 1#8 2 = false := by decide
  simp [clearAllowed, alone, lead_of_unpaired lone, fuse, wire, b0, b1, b2]

end

/-- A lone switch in DO that is off at level 5, and that neither level 2, 3 nor 4 governs, is not on (R35). -/
theorem govern_not_on {c : Ch} {s : State} (mode : (s.ch c).mode = .dout) (lone : (s.ch c).paired = false) (l5 : (s.ch c).l5 = .off)
    (burrow : s.burrowOn c = false) (l3 : (s.ch c).l3 = none) (idle : (s.ch c).action = none) : (s.govern c).2 ≠ .on := by
  have act : s.actFor c = none := by rw [actFor_eq, lead_of_unpaired lone, idle]
  unfold State.govern
  simp only [lead_of_unpaired lone, burrow, l3, act, l5, mode]
  repeat' split
  all_goals simp_all [normDemand, deenergised]

/-- A switch in DO whose fuse lock an OUT.CLEAR releases does not conduct (R37, R198). -/
theorem clearLocks_off {c : Ch} {s : State} (mode : (s.ch c).mode = .dout) (lone : (s.ch c).paired = false) (acts : (s.ch c).acts = [])
    (fuse : (s.ch c).locks.fuse = true) (l3 : (s.ch c).l3 = none) (burrow : s.burrowOn c = false) :
    ((clearLocks c 1 s).ch c).conducting = false := by
  obtain ⟨u, only, holms, chans⟩ := clearLocks_lone (fl := 1) lone
  have b0 : bit 1#8 0 = true := by decide
  have b3 : bit 1#8 3 = false := by decide
  have named : (s.ch c).locks.named 1 = true := by simp [Locks.named, b0, fuse]
  rw [Chan.unlearned, if_neg (by simp [b3]), Chan.unlocked, if_pos named] at only
  have modeU : (u.ch c).mode = .dout := by rw [only.own]; exact mode
  have loneU : (u.ch c).paired = false := by rw [only.own]; exact lone
  have l5 : (u.ch c).l5 = .off := by
    rw [only.own]
    exact (putL5_dout mode _).trans (by rw [mode]; rfl)
  have burrowU : u.burrowOn c = false := by
    rw [← burrow]
    simp only [burrowOn_eq, only.own, lead_of_unpaired loneU, lead_of_unpaired lone, State.holm, holms]
  have notOn := govern_not_on modeU loneU l5 burrowU (by rw [only.own]; exact l3) (by
    rw [only.own]
    simp [Chan.action, acts])
  rw [State.ch, chans]
  exact (evalOne_conducting modeU).trans (beq_eq_false_iff_ne.mpr notOn)

/-- Settles O21: the locks that the flags name and level 5 are set before the evaluation, which no action governs and which keeps both. -/
theorem outClearReleasesTheFuse : Obligations.OutClearReleasesTheFuse := by
  intro r s c hc ready lone acts
  have completes {fl : Byte} (body : outClear r c (s.running r) = ok (clearLocks c fl (s.running r))) :=
    runCh_ok ready hc body (calm.keeps (by simp [clearLocks])) (now_of_anchor (by simp [State.running]))
  refine ⟨fun fl payload reserved mode loaded => ⟨fun allowed => ?_, fun early => ?_⟩,
    fun payload mode fuse wire => ⟨fun cold l3 burrow => ?_, fun hot => ?_⟩⟩
  · obtain ⟨done, chans⟩ := completes (outClear_ok (s := s.running r) mode lone payload reserved loaded allowed)
    obtain ⟨released, others⟩ := clearLocks_released (fl := fl) (s := s.running r) lone acts
    have locks : (((s.ch c).unlocked fl).unlearned fl).locks = (s.ch c).locks.cleared fl := by
      rw [Chan.unlearned, Chan.unlocked]
      by_cases h : (s.ch c).locks.named fl = true
      · rw [if_pos h]
        split <;> rfl
      · rw [if_neg h, cleared_of_not_named (Bool.eq_false_iff.mpr h)]
        split <;> rfl
    refine ⟨_, rfl, done, ?_, fun changed => ?_, fun forget => ?_, fun keep => ?_, fun d hd => (chans d).trans (others d hd)⟩
    · rw [chans, released.locks]
      exact locks
    · rw [chans, released.locks] at changed
      rw [chans, released.l5]
      have named : (s.ch c).locks.named fl = true := by
        by_contra h
        exact changed (locks.trans (cleared_of_not_named (Bool.eq_false_iff.mpr h)))
      rw [Chan.unlearned, Chan.unlocked, running_ch, if_pos named]
      split <;> rfl
    · rw [chans, released.learned, released.ipk, released.qin, released.i100, Chan.unlearned, if_pos forget]
      exact ⟨rfl, rfl, rfl, rfl⟩
    · rw [chans, released.ipk, released.qin, Chan.unlearned, if_neg (by simp [keep]), Chan.unlocked]
      split <;> exact ⟨rfl, rfl⟩
  · exact ready.completes_ch hc rfl (outClear_early (s := s.running r) mode lone payload reserved loaded early) rfl rfl rfl
  · have accepted : clearMode ((s.running r).ch c).mode 1 = true := by rw [running_ch, mode]; rfl
    have allowed : clearAllowed (s.running r) c 1 = true :=
      (clearAllowed_fuse (s := s.running r) lone fuse wire).trans (decide_eq_true cold)
    obtain ⟨done, chans⟩ := completes (outClear_ok accepted lone payload (by decide) (fun h => absurd h (by decide)) allowed)
    obtain ⟨released, -⟩ := clearLocks_released (fl := 1) (s := s.running r) lone acts
    have named : (s.ch c).locks.named 1 = true := by simp [Locks.named, fuse, show bit 1#8 0 = true by decide]
    rw [Chan.unlearned, if_neg (by decide), Chan.unlocked, running_ch, if_pos named] at released
    refine ⟨_, rfl, done, ?_, ?_, ?_⟩ <;> rw [chans]
    · rw [released.locks]
      simp [Locks.cleared, show bit 1#8 0 = true by decide]
    · exact released.l5.trans ((putL5_dout mode _).trans (by rw [mode]; rfl))
    · exact clearLocks_off (s := s.running r) mode lone acts fuse l3 burrow
  · have accepted : clearMode ((s.running r).ch c).mode 1 = true := by rw [running_ch, mode]; rfl
    have early : clearAllowed (s.running r) c 1 = false :=
      (clearAllowed_fuse (s := s.running r) lone fuse wire).trans (decide_eq_false (not_le.mpr hot))
    exact ready.completes_ch hc rfl (outClear_early accepted lone payload (by decide) (fun h => absurd h (by decide)) early) rfl rfl rfl

end Sys2Proof.Machine
end

section
/-! PROOFS. The protection of a lone DO switch (R186 to R188, R194 to R197, R207): each trip sets its lock, which turns the switch off at
level 1; a hold that ends is evaluated, and level 5 stays. -/

namespace Sys2Proof.Machine

/-- A DO channel alone, of a Holm that is up and live. -/
structure LoneDout (c : Ch) (s : State) : Prop where
  mode : (s.ch c).mode = .dout
  lone : (s.ch c).paired = false
  up : (s.holm (bankOf c)).up = true
  live : (s.holm (bankOf c)).restarted = false

/-- Level 5 and DO stay on a channel, and no other channel changes. -/
def StillDout (c : Ch) (s t : State) : Prop :=
  (t.ch c).l5 = (s.ch c).l5 ∧ (t.ch c).mode = .dout ∧ ∀ d : Ch, d ≠ c → t.ch d = s.ch d

/-- A DO channel is off at level 1 under its locks, and nothing else of its command changes. -/
def LockedBy (c : Ch) (s : State) (l : Locks) (t : State) : Prop :=
  (t.ch c).locks = l ∧ (t.ch c).level = 1 ∧ (t.ch c).out = .off ∧ (t.ch c).conducting = false ∧ StillDout c s t

section
variable {c : Ch} {s t u : State} {x : Chan}

theorem LoneDout.switchUp (h : LoneDout c s) : s.switchUp c = true := by
  simp [State.switchUp, State.holmLive, h.mode, h.live, h.up, Mode.isSwitch]

theorem LoneDout.loneSwitch (h : LoneDout c s) : LoneSwitch c s :=
  ⟨by rw [h.mode]; rfl, h.lone, by rw [State.holmLive, h.live]; rfl⟩

theorem LoneDout.lead (h : LoneDout c s) : s.lead c = c := lead_of_unpaired h.lone

theorem LoneDout.alone (h : LoneDout c s) : s.members c = [c] := if_neg (Bool.eq_false_iff.mp h.lone)

/-- A change of the channel alone, in its sensing and its locks, leaves it a lone DO channel. -/
theorem LoneDout.only (h : LoneDout c s) (only : OnlyCh c x s u) (mode : x.mode = .dout) (lone : x.paired = false)
    (holms : u.holms = s.holms) : LoneDout c u :=
  ⟨by rw [only.own, mode], by rw [only.own, lone], by rw [State.holm, holms]; exact h.up, by rw [State.holm, holms]; exact h.live⟩

/-! ### A trip -/

theorem OnlyCh.swEvent (h : OnlyCh c x s u) (d : Ch) (k : Nat) (kind : Byte) (sev : Nat) : OnlyCh c x s (swEvent d k kind sev u) :=
  h.after (notify_chans ..)

theorem LockedBy.of_only {f : Locks → Locks} {now : Nat} (h : OnlyCh c ((x.locking f).lockedOff now) s t)
    (l5 : x.l5 = (s.ch c).l5) (mode : x.mode = .dout) : LockedBy c s (f x.locks) t := by
  refine ⟨?_, ?_, ?_, ?_, ?_, ?_, h.others⟩ <;> rw [h.own]
  · rfl
  · rfl
  · rfl
  · rfl
  · exact l5
  · exact mode

/-- A lock that is set with its event turns the switch off. -/
theorem LoneDout.lockEvent_only {d : Ch} {k sev : Nat} {kind : Byte} {f : Locks → Locks} (h : LoneDout c s)
    (locks : (f (s.ch c).locks).any = true) :
    OnlyCh c (((s.ch c).locking f).lockedOff s.sys.now) s (swEvent d k kind sev (setLock c f s)) :=
  (h.loneSwitch.setLock_only locks).swEvent ..

theorem LoneDout.lockEvent {d : Ch} {k sev : Nat} {kind : Byte} {f : Locks → Locks} (h : LoneDout c s)
    (locks : (f (s.ch c).locks).any = true) : LockedBy c s (f (s.ch c).locks) (swEvent d k kind sev (setLock c f s)) :=
  .of_only (h.lockEvent_only locks) rfl h.mode

/-! ### A hold that ends -/

/-- A channel whose holds have changed is evaluated: it settles where its levels put it, and level 5 stays (R35, R36). -/
theorem LoneDout.evaluated {d : Ch} {k sev : Nat} {kind : Byte} (h : LoneDout c u) (only : OnlyCh c x s u) (acts : x.acts = [])
    (l5 : x.l5 = (s.ch c).l5) : ((swEvent d k kind sev (evalOut c u)).ch c).locks = x.locks ∧
      ((swEvent d k kind sev (evalOut c u)).ch c).sw.restarts = x.sw.restarts ∧
      (swEvent d k kind sev (evalOut c u)).settled c ∧ StillDout c s (swEvent d k kind sev (evalOut c u)) := by
  have idle : u.actFor c = none := by
    rw [actFor_eq, h.lead, only.own, Chan.action, acts]
    rfl
  have notFour := govern_ne_four idle
  have eval := (only.trans (evalOne_only h.loneSwitch.switch notFour)).swEvent d k kind sev
  rw [evalOut_of_unpaired h.lone]
  have mode := h.mode
  have settled : (swEvent d k kind sev (evalOne c u)).settled c := notify_settled (evalOne_settled h.lone notFour)
  rw [only.own] at eval mode
  refine ⟨?_, ?_, settled, ?_, ?_, eval.others⟩ <;> rw [eval.own]
  · rfl
  · rfl
  · exact l5
  · exact mode

/-! ### The thermal decision (R194, R196, R197) -/

/-- The severest outcome of a channel alone is its own (R208). -/
theorem worstOut_lone (lone : (s.ch c).paired = false) : worstOut s c = thermOut s c := by
  rw [worstOut, State.members, if_neg (Bool.eq_false_iff.mp lone), List.foldl_cons, List.foldl_nil]
  split
  · rfl
  · next h => cases e : thermOut s c <;> simp_all [ThermOut.rank, apply_ite]

/-- The locks of a thermal latch, which the hold gives way to. -/
def Locks.latching (l : Locks) : Locks := { l with thermHold := false, thermLatch := true }

/-- The locks of a thermal hold. -/
def Locks.holding (l : Locks) : Locks := { l with thermHold := true }

/-- The locks of a channel in thermal hold alone. -/
def Locks.heldAlone : Locks := { Locks.none with thermHold := true }

theorem thermalDecide_latch {k : Byte} (lone : (s.ch c).paired = false) (out : thermOut s c = .latch k)
    (latch : (s.ch c).locks.thermLatch = false) : thermalDecide c s = swEvent c 2 k 4 (setLock c Locks.latching s) := by
  rw [thermalDecide, worstOut_lone lone, out]
  exact if_neg (Bool.eq_false_iff.mp latch)

theorem thermalDecide_hold (lone : (s.ch c).paired = false) (out : thermOut s c = .hold) :
    thermalDecide c s = swEvent c 2 1 3 (setLock c Locks.holding s) := by
  rw [thermalDecide, worstOut_lone lone, out]
  rfl

theorem thermalDecide_restart (lone : (s.ch c).paired = false) (out : thermOut s c = .restart) :
    thermalDecide c s = autoRestart c s := by
  rw [thermalDecide, worstOut_lone lone, out]

/-- The absolute limit comes before every other row of Table 6. -/
theorem thermOut_absolute (hot : 2800 ≤ (s.ch c).sw.tj) : thermOut s c = .latch 4 := if_pos (by simpa using hot)

/-- A conducting switch outside a hold whose junction rises above its limit takes the hold. -/
theorem thermOut_hold (below : (s.ch c).sw.tj < 2800) (senses : s.sensingFaulty c = false) (free : (s.ch c).locks.thermHold = false)
    (on : (s.ch c).conducting = true) (hot : (fld (s.ch (s.lead c)).sw.prot 22 16 : Int) * 16 < s.dtjc c) :
    thermOut s c = .hold := by
  simp [thermOut, not_le.mpr below, senses, free, on, hot]

/-- A switch in thermal hold alone whose reading is faulty latches. -/
theorem thermOut_blind (below : (s.ch c).sw.tj < 2800) (senses : s.sensingFaulty c = true) (held : (s.ch c).locks = Locks.heldAlone) :
    thermOut s c = .latch 3 := by
  simp [thermOut, not_le.mpr below, senses, held, Locks.heldAlone, Locks.otherThanHold, Locks.any, Locks.none]

/-- A cool switch in thermal hold alone restarts while restarts are left, and latches when none is (R196). -/
theorem thermOut_cool (below : (s.ch c).sw.tj < 2800) (senses : s.sensingFaulty c = false) (held : (s.ch c).locks = Locks.heldAlone)
    (cool : s.cool c = true) : thermOut s c = if 0 < s.restartsLeft c then .restart else .latch 3 := by
  simp [thermOut, not_le.mpr below, senses, held, cool, Locks.heldAlone, Locks.otherThanHold, Locks.any, Locks.none]

/-- A channel whose junction reads a temperature. -/
def Chan.reading (tj : Int) (ch : Chan) : Chan := { ch with sw := { ch.sw with tj := tj } }

theorem LoneDout.reads {tj : Int} (h : LoneDout c s) : LoneDout c (s.setCh c (Chan.reading tj)) :=
  h.only (.setCh c (Chan.reading tj) s) h.mode h.lone rfl

theorem setDt_only (c : Ch) (dt : Int) (s : State) : OnlyCh c ((s.ch c).reading ((s.holm (bankOf c)).case + dt)) s (setDt c dt s) :=
  .setCh ..

theorem setDt_ch (dt : Int) : (setDt c dt s).ch c = (s.ch c).reading ((s.holm (bankOf c)).case + dt) := (setDt_only c dt s).own

theorem setDt_dtjc (dt : Int) : (setDt c dt s).dtjc c = dt := by
  rw [State.dtjc, setDt_ch]
  exact add_sub_cancel_left ..

theorem setDt_sensingFaulty (dt : Int) : (setDt c dt s).sensingFaulty c = s.sensingFaulty c := by
  rw [State.sensingFaulty, setDt_ch]
  rfl

theorem LoneDout.setDt (h : LoneDout c s) (dt : Int) : LoneDout c (setDt c dt s) := h.reads

theorem LoneDout.setDt_cool (h : LoneDout c s) (dt : Int) :
    (Machine.setDt c dt s).cool c = decide (dt < ((fld (s.ch c).sw.prot 22 16 : Int) - 15) * 16) := by
  rw [State.cool, setDt_dtjc, (h.setDt dt).lead, setDt_ch]
  rfl

theorem LoneDout.setDt_restartsLeft (h : LoneDout c s) (dt : Int) : (Machine.setDt c dt s).restartsLeft c = s.restartsLeft c := by
  rw [State.restartsLeft, (h.setDt dt).lead, setDt_ch, State.restartsLeft, h.lead]
  rfl

/-- A lock that is set on a channel whose reading has entered turns the switch off. -/
theorem LoneDout.lockReading {tj : Int} {k sev : Nat} {kind : Byte} {f : Locks → Locks} (h : LoneDout c s)
    (locks : (f (s.ch c).locks).any = true) :
    LockedBy c s (f (s.ch c).locks) (swEvent c k kind sev (setLock c f (s.setCh c (Chan.reading tj)))) := by
  have reads : OnlyCh c ((s.ch c).reading tj) s (s.setCh c (Chan.reading tj)) := .setCh ..
  have lock := (h.reads (tj := tj)).lockEvent_only (d := c) (k := k) (sev := sev) (kind := kind) (f := f) (by rw [reads.own]; exact locks)
  rw [reads.own] at lock
  exact .of_only (x := (s.ch c).reading tj) (reads.trans lock) rfl h.mode

/-- A channel that has restarted by itself (R196). -/
def Chan.restarted (now : Nat) (ch : Chan) : Chan := { ch with sw := { ch.sw with restarts := now :: ch.sw.restarts.take 15 } }

/-- A channel whose thermal hold has ended. -/
def Chan.unheld (ch : Chan) : Chan := ch.withLocks fun l => { l with thermHold := false }

theorem LoneDout.endHold (h : LoneDout c s) : endHold c s = evalOut c (s.setCh c Chan.unheld) := by
  rw [Machine.endHold, h.alone]
  rfl

/-- An automatic restart counts, ends the hold, and evaluates. -/
theorem LoneDout.restarts (h : LoneDout c s) (acts : (s.ch c).acts = []) :
    ((autoRestart c s).ch c).locks = { (s.ch c).locks with thermHold := false } ∧
      ((autoRestart c s).ch c).sw.restarts = s.sys.now :: (s.ch c).sw.restarts.take 15 ∧
      (autoRestart c s).settled c ∧ StillDout c s (autoRestart c s) := by
  have counts : OnlyCh c ((s.ch c).restarted s.sys.now) s (s.setCh c (Chan.restarted s.sys.now)) := .setCh ..
  have counted : LoneDout c (s.setCh c (Chan.restarted s.sys.now)) := h.only counts h.mode h.lone rfl
  have ends := OnlyCh.setCh c Chan.unheld (s.setCh c (Chan.restarted s.sys.now))
  rw [counts.own] at ends
  have only := counts.trans ends
  have e : autoRestart c s = swEvent c 2 2 1 (evalOut c ((s.setCh c (Chan.restarted s.sys.now)).setCh c Chan.unheld)) := by
    rw [autoRestart, h.alone]
    exact congrArg (swEvent c 2 2 1) counted.endHold
  rw [e]
  exact (h.only only h.mode h.lone rfl).evaluated only acts rfl

/-- A switch in thermal hold alone that has cooled is judged again: it restarts, or latches when no restart is left (R196, R197). -/
theorem LoneDout.again (h : LoneDout c s) {dt : Int} (held : (s.ch c).locks = Locks.heldAlone)
    (below : (s.holm (bankOf c)).case + dt < 2800) (senses : s.sensingFaulty c = false)
    (cool : dt < ((fld (s.ch c).sw.prot 22 16 : Int) - 15) * 16) :
    thermalAgain c dt s = if 0 < s.restartsLeft c then autoRestart c (Machine.setDt c dt s)
      else swEvent c 2 3 4 (setLock c Locks.latching (Machine.setDt c dt s)) := by
  have own := setDt_ch (c := c) (s := s) dt
  have out := thermOut_cool (s := Machine.setDt c dt s) (by rw [own]; exact below) ((setDt_sensingFaulty dt).trans senses)
    (by rw [own]; exact held) ((h.setDt_cool dt).trans (decide_eq_true cool))
  rw [h.setDt_restartsLeft] at out
  have hold : (s.ch c).locks.thermHold = true := by rw [held]; rfl
  rw [thermalAgain, h.switchUp, hold, Bool.and_self, if_pos rfl]
  split
  · next left => exact thermalDecide_restart (h.setDt dt).lone (out.trans (if_pos left))
  · next spent =>
    refine thermalDecide_latch (h.setDt dt).lone (out.trans (if_neg spent)) ?_
    rw [own]
    exact (congrArg Locks.thermLatch held).trans rfl

/-! ### The validity of sensing (R195) -/

/-- A channel whose sensing is judged by its latest junction reading. -/
def Chan.judged (ch : Chan) : Chan := { ch with sw := { ch.sw with sensFault := ch.sw.junBad } }

theorem LoneDout.sensingFault_own (h : LoneDout c s) :
    sensingFault c false s = sensingChanged c (s.sensingFaulty c) (s.setCh c Chan.judged) := by
  simp only [sensingFault, State.holmLive, h.up, h.live, Bool.not_false, Bool.and_self, Bool.not_true, Bool.false_eq_true, if_false]
  rfl

theorem LoneDout.judged_same (h : LoneDout c s) (same : (s.ch c).sw.junBad = (s.ch c).sw.sensFault) : sensingFault c false s = s := by
  have still : s.setCh c Chan.judged = s := setCh_same c Chan.judged s (by rw [Chan.judged, same])
  rw [h.sensingFault_own, still, sensingChanged]
  exact if_pos (by simp)

theorem LoneDout.swEvent (h : LoneDout c s) (k : Nat) (kind : Byte) (sev : Nat) : LoneDout c (swEvent c k kind sev s) := by
  have chan : (Machine.swEvent c k kind sev s).ch c = s.ch c := (OnlyCh.refl rfl : OnlyCh c _ s s).swEvent c k kind sev |>.own
  have holm : ((Machine.swEvent c k kind sev s).holm (bankOf c)).besidesNotices = (s.holm (bankOf c)).besidesNotices := notify_holm ..
  exact ⟨by rw [chan, h.mode], by rw [chan, h.lone], (congrArg Holm.up holm :).trans h.up, (congrArg Holm.restarted holm :).trans h.live⟩

/-- A switch in thermal hold alone whose junction reading is judged faulty latches. -/
theorem LoneDout.blinded (h : LoneDout c s) (bad : (s.ch c).sw.junBad = true) (senses : s.sensingFaulty c = false)
    (held : (s.ch c).locks = Locks.heldAlone) (below : (s.ch c).sw.tj < 2800) : ∃ v, LoneDout c v ∧ OnlyCh c (s.ch c).judged s v ∧
      sensingFault c false s = Machine.swEvent c 2 3 4 (setLock c Locks.latching v) := by
  have judged := OnlyCh.setCh c Chan.judged s
  have t := h.only judged h.mode h.lone rfl
  have v := t.swEvent 2 5 4
  have only := judged.swEvent c 2 5 4
  have blind : (s.setCh c Chan.judged).sensingFaulty c = true := by
    rw [State.sensingFaulty, judged.own]
    exact Bool.or_eq_true_iff.mpr (.inl bad)
  have blindV : (Machine.swEvent c 2 5 4 (s.setCh c Chan.judged)).sensingFaulty c = true := by
    rw [State.sensingFaulty, only.own]
    exact Bool.or_eq_true_iff.mpr (.inl bad)
  refine ⟨_, v, only, ?_⟩
  have latches := thermalDecide_latch v.lone (thermOut_blind (by rw [only.own]; exact below) blindV (by rw [only.own]; exact held))
    (by rw [only.own]; exact (congrArg Locks.thermLatch held).trans rfl)
  rw [h.sensingFault_own, sensingChanged, blind, senses, t.switchUp]
  exact latches

/-- A channel whose reverse-current hold has ended. -/
def Chan.unreversed (ch : Chan) : Chan := ch.withLocks fun l => { l with revHold := false }

end

/-- Settles O52: each trip is the lock of one event of a lone DO channel, and each hold's end one evaluation of it. -/
theorem switchProtectionLocksAndReleases : Obligations.SwitchProtectionLocksAndReleases := by
  intro s c mode lone up live acts
  have h : LoneDout c s := ⟨mode, lone, up, live⟩
  have blown : Locks.any { (s.ch c).locks with fuse := true } = true := by simp [Locks.any]
  refine ⟨fun fuse => ⟨fun wire hot => ⟨_, rfl, ?_⟩, fun table full => ⟨_, rfl, ?_⟩⟩, fun dt below senses free on hot => ⟨_, rfl, ?_⟩,
    fun dt below senses held cool => ⟨fun left => ⟨_, rfl, ?_⟩, fun spent => ⟨_, rfl, ?_⟩⟩,
    fun tj dt hot latch => ⟨_, rfl, ?_⟩, fun bad senses held below => ⟨_, rfl, ?_⟩, fun same => ?_,
    fun vp => ⟨fun above on free => ⟨_, rfl, ?_⟩, fun held => ⟨fun below long reverse => ⟨_, rfl, ?_⟩, fun early => ?_⟩⟩⟩
  · have trip : wireTrip c s = fuseTrip c 1 s := by simp [wireTrip, h.lead, h.switchUp, wire, hot, fuse]
    rw [trip, fuseTrip]
    exact h.lockEvent (f := fun l => { l with fuse := true }) blown
  · have full : fuseFull ≤ (s.ch c).sw.fuseF := full
    have trip : fuseTableTrip c s = fuseTrip c 2 s := by simp [fuseTableTrip, h.lead, h.switchUp, table, full, fuse]
    rw [trip, fuseTrip]
    exact h.lockEvent (f := fun l => { l with fuse := true }) blown
  · have u := h.setDt dt
    have own := setDt_ch (c := c) (s := s) dt
    have out : thermOut (setDt c dt s) c = .hold :=
      thermOut_hold (by rw [own]; exact below) ((setDt_sensingFaulty dt).trans senses) (by rw [own]; exact free) (by rw [own]; exact on)
        (by rw [u.lead, own, setDt_dtjc]; exact hot)
    rw [if_pos h.switchUp, thermalDecide_hold u.lone out]
    exact h.lockReading (f := Locks.holding) (by simp [Locks.any, Locks.holding])
  · have u := h.setDt dt
    have own := setDt_ch (c := c) (s := s) dt
    obtain ⟨locks, restarts, settled, l5, dout, others⟩ := u.restarts (by rw [own]; exact acts)
    rw [own] at locks restarts l5
    rw [(h.again held below senses cool).trans (by rw [if_pos left])]
    refine ⟨locks.trans ?_, restarts, settled, l5, dout, fun d hd => (others d hd).trans ((setDt_only c dt s).others d hd)⟩
    exact congrArg (fun l : Locks => { l with thermHold := false }) held
  · rw [(h.again held below senses cool).trans (if_neg (by omega))]
    have lock := h.lockReading (tj := (s.holm (bankOf c)).case + dt) (k := 2) (sev := 4) (kind := 3) (f := Locks.latching)
      (by simp [Locks.any, Locks.latching])
    rwa [held] at lock
  · have reads : OnlyCh c ((s.ch c).reading tj) s (s.setCh c (Chan.reading tj)) := .setCh ..
    have out : thermOut (s.setCh c (Chan.reading tj)) c = .latch 4 := thermOut_absolute (by rw [reads.own]; exact hot)
    have latches := thermalDecide_latch h.reads.lone out (by rw [reads.own]; exact latch)
    have absolute : thermalAbsolute c tj dt s = thermalDecide c (s.setCh c (Chan.reading tj)) := by
      rw [thermalAbsolute, h.switchUp, Bool.not_true, if_neg Bool.false_ne_true, if_pos (by simpa using hot)]
      rfl
    rw [absolute, latches]
    exact h.lockReading (f := Locks.latching) (by simp [Locks.any, Locks.latching])
  · rw [chAt_bankOf_posOf]
    obtain ⟨v, hv, only, latches⟩ := h.blinded bad senses held below
    have lock := only.trans (hv.lockEvent_only (d := c) (k := 2) (kind := 3) (sev := 4) (f := Locks.latching) (by simp [Locks.any, Locks.latching]))
    rw [only.own] at lock
    rw [latches]
    have locked := LockedBy.of_only lock rfl mode
    rw [show (s.ch c).judged.locks = _ from held] at locked
    exact ⟨by rw [lock.own]; exact bad, locked⟩
  · exact congrArg Host.Outcome.next ((congrArg (sensingFault · false s) (chAt_bankOf_posOf c)).trans (h.judged_same same))
  · have trip : reverseHold c vp s = swEvent c 4 3 3 (setLock c (fun l => { l with revHold := true }) s) := by
      simp [reverseHold, h.switchUp, on, above, free]
    rw [trip]
    exact h.lockEvent (f := fun l => { l with revHold := true }) (by simp [Locks.any])
  · have ends := OnlyCh.setCh c Chan.unreversed s
    have e : reverseHoldEnd c (PinRead.mk vp held) s = swEvent c 4 5 1 (evalOut c (s.setCh c Chan.unreversed)) := by
      simp only [reverseHoldEnd, h.switchUp, reverse, below, msTicks, long, h.alone, decide_true, Bool.and_self, if_true]
      rfl
    obtain ⟨locks, -, settled, still⟩ := (h.only ends h.mode h.lone rfl).evaluated (d := c) (k := 4) (kind := 5) (sev := 1) ends acts rfl
    rw [e]
    exact ⟨locks, settled, still⟩
  · refine congrArg Host.Outcome.next (if_neg ?_)
    simp only [Bool.and_eq_true, decide_eq_true_eq]
    rintro ⟨⟨-, below⟩, long⟩
    exact early.elim (not_le.mpr below) (not_lt.mpr long)

end Sys2Proof.Machine
end

section
/-! PROOFS. What a lone switch and its sequencer do of themselves (R14, R189, R190, R201 to R206): reports of its diagnostics, the edges
of its generator, learned inrush, and the faults and the reload of its sequencer. -/

namespace Sys2Proof.Machine

section
variable {c : Ch} {s : State}

/-- A lone switch of a Holm that is up and live. -/
theorem LoneSwitch.of_up (up : s.switchUp c = true) (lone : (s.ch c).paired = false) :
    LoneSwitch c s ∧ (s.holm (bankOf c)).up = true := by
  simp only [State.switchUp, Bool.and_eq_true] at up
  obtain ⟨⟨switch, live⟩, up⟩ := up
  exact ⟨⟨switch, lone, live⟩, up⟩

/-! ### Reports (R204 to R206) -/

/-- A report changes the switch of its channel alone, and whether it conducts stays. -/
theorem swReport_only (c : Ch) (k : Nat) (kind : Byte) (f : Sw → Sw) (on : Bool) (s : State) :
    (((swReport c k kind f on s).ch c).sw = f (s.ch c).sw ∧
      ∀ d : Ch, d ≠ c → (swReport c k kind f on s).ch d = s.ch d) ∧
      ((swReport c k kind f on s).ch c).conducting = (s.ch c).conducting := by
  have only : OnlyCh c { s.ch c with sw := f (s.ch c).sw } s (swReport c k kind f on s) := by
    cases on
    · exact (OnlyCh.setCh c (fun ch => { ch with sw := f ch.sw }) s).notifyCh ..
    · exact (assertFault_only c (fun ch => { ch with sw := f ch.sw }) s).notifyCh ..
  refine ⟨⟨?_, only.others⟩, ?_⟩ <;> rw [only.own]

theorem onOpenLoad_reports (up : s.switchUp c = true) (lone : (s.ch c).paired = false) (clear : (s.ch c).sw.onOpen = false)
    (enabled : bit (s.ch c).sw.diag 22 = true) (long : 10 * fld (s.ch c).sw.diag 7 0 ≤ (s.ch c).sw.olLow) :
    onOpenLoad c true s = swReport c 3 1 (fun w => { w with onOpen := true }) true s := by
  simp [onOpenLoad, up, State.oddMember, lone, clear, enabled, long]

theorem onOpenLoad_clears (up : s.switchUp c = true) (lone : (s.ch c).paired = false) (stands : (s.ch c).sw.onOpen = true)
    (long : 500 ≤ (s.ch c).sw.olHigh) : onOpenLoad c false s = swReport c 3 3 (fun w => { w with onOpen := false }) false s := by
  simp [onOpenLoad, up, State.oddMember, lone, stands, long]

theorem onOpenLoad_early (short : (s.ch c).sw.olLow < 10 * fld (s.ch c).sw.diag 7 0) : onOpenLoad c true s = s := by
  simp [onOpenLoad, not_le.mpr short]

theorem offOpenLoad_reports (up : s.switchUp c = true) (off : (s.ch c).conducting = false) (clear : (s.ch c).sw.offOpen = false)
    (enabled : bit (s.ch c).sw.diag 23 = true) (check : bit (s.ch c).sw.diag 21 = false) (long : s.heldFor c .offHigh 200000 = true) :
    offOpenLoad c true s = swReport c 3 2 (fun w => { w with offOpen := true }) true s := by
  simp [offOpenLoad, up, off, clear, enabled, check, long]

theorem offOpenLoad_clears (up : s.switchUp c = true) (off : (s.ch c).conducting = false) (stands : (s.ch c).sw.offOpen = true)
    (long : s.heldFor c .offLow 500000 = true) :
    offOpenLoad c false s = swReport c 3 3 (fun w => { w with offOpen := false }) false s := by
  simp [offOpenLoad, up, off, stands, long]

theorem shortSupply_nearVf (up : s.switchUp c = true) (off : (s.ch c).conducting = false) (clear : (s.ch c).sw.shortVf = false)
    (long : s.heldFor c .nearVf 10000 = true) :
    shortSupply c true s = swReport c 4 1 (fun w => { w with shortVf := true }) true s := by
  simp [shortSupply, up, off, clear, long]

theorem shortSupply_driven (up : s.switchUp c = true) (off : (s.ch c).conducting = false) (clear : (s.ch c).sw.extDrive = false)
    (away : s.heldFor c .nearVf 10000 = false) (long : s.heldFor c .driven 10000 = true) :
    shortSupply c true s = swReport c 4 2 (fun w => { w with extDrive := true }) true s := by
  simp [shortSupply, up, off, clear, away, long]

theorem shortSupply_clears (up : s.switchUp c = true) (off : (s.ch c).conducting = false) (stands : (s.ch c).sw.shortVf = true)
    (long : s.heldFor c .below5 500000 = true) :
    shortSupply c false s = swReport c 4 4 (fun w => { w with shortVf := false, extDrive := false }) false s := by
  simp [shortSupply, up, off, stands, long]

theorem exec_offStateOpenLoad (c : Ch) (on : Bool) (s : State) :
    exec (.offStateOpenLoad (bankOf c) (posOf c) on) s = .next (offOpenLoad c on s) :=
  (congrArg (fun d => Host.Outcome.next (offOpenLoad d on s)) (chAt_bankOf_posOf c) :)

theorem exec_shortToSupply (c : Ch) (on : Bool) (s : State) :
    exec (.shortToSupply (bankOf c) (posOf c) on) s = .next (shortSupply c on s) :=
  (congrArg (fun d => Host.Outcome.next (shortSupply d on s)) (chAt_bankOf_posOf c) :)

/-! ### The generator (R201, R202) -/

/-- A switch as a generator edge leaves it. -/
def Chan.pulsed (now : Nat) (on : Bool) (ch : Chan) : Chan :=
  { ch with
    conducting := on
    sw := { ch.sw with
      limiting := ch.sw.limiting && on
      onSince := if on then now else ch.sw.onSince
      lrnDone := ch.sw.lrnDone && !on
      offSince := if on then ch.sw.offSince else now } }

/-- A switch whose commanded settings have come into force at an on edge. -/
def Chan.edged (e : Int) (g : Pgen) (ch : Chan) : Chan := { ch with sw := { ch.sw with lastOn := e, edgeFrom := e, prun := g } }

theorem pulseTo_lone (on : Bool) (lone : (s.ch c).paired = false) :
    pulseTo c on s = noteEdge (bankOf c) s.sys.now on (s.setCh c (Chan.pulsed s.sys.now on)) := by
  rw [pulseTo, State.members, if_neg (Bool.eq_false_iff.mp lone)]
  rfl

theorem pulseTo_only (on : Bool) (lone : (s.ch c).paired = false) :
    OnlyCh c ((s.ch c).pulsed s.sys.now on) s (pulseTo c on s) := by
  rw [pulseTo_lone on lone]
  exact (OnlyCh.setCh c (Chan.pulsed s.sys.now on) s).after rfl

theorem pulseTo_holm (on : Bool) (lone : (s.ch c).paired = false) :
    ((pulseTo c on s).holm (bankOf c)).vf = (s.holm (bankOf c)).vf ∧
      ((pulseTo c on s).holm (bankOf c)).restarted = (s.holm (bankOf c)).restarted := by
  rw [pulseTo_lone on lone, noteEdge, State.setHolm_holm_self]
  exact ⟨rfl, rfl⟩

/-- An edge that turns a switch off, with its clamp energy (R191, R201). -/
theorem LoneSwitch.pulseTo_off (h : LoneSwitch c s) (m : ClampMeas) :
    OffAfterClamp ((s.ch c).pulsed s.sys.now false) (clampEnergy (s.holm (bankOf c)).vf m) ((clampPulse c m (pulseTo c false s)).ch c) ∧
      ∀ d : Ch, d ≠ c → (clampPulse c m (pulseTo c false s)).ch d = s.ch d := by
  have only := pulseTo_only false h.lone
  obtain ⟨vf, restarted⟩ := pulseTo_holm false h.lone
  have switch : LoneSwitch c (pulseTo c false s) :=
    ⟨by rw [only.own]; exact h.switch, by rw [only.own]; exact h.lone, by rw [State.holmLive, restarted]; exact h.live⟩
  obtain ⟨off, others⟩ := switch.clampPulse_off (m := m) (by rw [only.own]; rfl)
  rw [only.own, vf] at off
  exact ⟨off, fun d hd => (others d hd).trans (only.others d hd)⟩

/-- The settings that an edge brings into force do not tell whether the generator drives (R199, R202). -/
theorem driven_edged (e : Int) (g : Pgen) (lone : (s.ch c).paired = false) :
    (s.setCh c (Chan.edged e g)).driven c = s.driven c := by
  have own : (s.setCh c (Chan.edged e g)).ch c = (s.ch c).edged e g := State.setCh_ch_self ..
  have governs : (s.setCh c (Chan.edged e g)).govern c = s.govern c :=
    govern_of_governed lone (by rw [own]; rfl) ⟨rfl, rfl, rfl, rfl, rfl⟩
  rw [State.driven, governs, own]
  rfl

end

/-- A driven DOP switch alone, on a timebase of a Holm that is up and live. -/
structure Generating (c : Ch) (tb : Timebase) (s : State) : Prop where
  up : s.switchUp c = true
  lone : (s.ch c).paired = false
  timebase : s.timebase c = some tb
  driven : s.driven c = true

section
variable {c : Ch} {tb : Timebase} {m : ClampMeas} {s : State} {e : Int}

theorem Generating.switch (h : Generating c tb s) : LoneSwitch c s := (LoneSwitch.of_up h.up h.lone).1

theorem Generating.edge (h : Generating c tb s) (on : Bool) : pulseEdge c on m s = if on then pulseOn c m tb s else pulseOff c m s := by
  have driven := h.driven
  simp only [State.driven, Bool.and_eq_true] at driven
  obtain ⟨⟨mode, -⟩, -⟩ := driven
  rw [pulseEdge, h.up, mode, lead_of_unpaired h.lone, h.timebase]
  rfl

theorem Generating.early (h : Generating c tb s) (edge : tb.onEdge ((s.ch c).sw.edgePhase tb) (s.tbNow (bankOf c)) = some e)
    (served : e ≤ (s.ch c).sw.edgeFrom) : pulseEdge c true m s = s := by
  rw [h.edge]
  simp [pulseOn, edge, served]

/-- The settings that the next on edge brings into force. -/
def State.nextRun (s : State) (c : Ch) (tb : Timebase) : Pgen := { (s.ch c).sw.pgen with period := tb.period }

/-- What an on edge makes of a switch on which its settings have come into force (R201, R202). -/
def edgeServed (c : Ch) (m : ClampMeas) (e : Int) (g : Pgen) (u : Nat) (t : State) : State :=
  if !t.driven c then t
  else if g.onTime < 246 then (if (t.ch c).conducting then clampPulse c m (pulseTo c false t) else t)
  else if !(t.ch c).conducting && decide ((u : Int) < e + 10000 * g.onTime) then pulseTo c true t
  else t

theorem Generating.onEdge (h : Generating c tb s) (edge : tb.onEdge ((s.ch c).sw.edgePhase tb) (s.tbNow (bankOf c)) = some e)
    (next : (s.ch c).sw.edgeFrom < e) : pulseEdge c true m s =
      edgeServed c m e (s.nextRun c tb) (s.tbNow (bankOf c)) (s.setCh c (Chan.edged e (s.nextRun c tb))) := by
  have alone : s.members c = [c] := if_neg (Bool.eq_false_iff.mp h.lone)
  have edged : overAll (s.members c) (fun k u => u.setCh k (Chan.edged e (s.nextRun c tb))) s =
      s.setCh c (Chan.edged e (s.nextRun c tb)) := by rw [alone]; rfl
  rw [h.edge, if_pos rfl, pulseOn, edge, ← edged]
  exact if_neg (not_le.mpr next)

/-- A driven switch turns on at an on edge, while the on-time runs (R201). -/
theorem Generating.turnsOn (h : Generating c tb s)
    (edge : tb.onEdge ((s.ch c).sw.edgePhase tb) (s.tbNow (bankOf c)) = some e) (next : (s.ch c).sw.edgeFrom < e)
    (off : (s.ch c).conducting = false) (long : 246 ≤ (s.nextRun c tb).onTime)
    (runs : (s.tbNow (bankOf c) : Int) < e + 10000 * (s.nextRun c tb).onTime) :
    OnlyCh c (((s.ch c).edged e (s.nextRun c tb)).pulsed s.sys.now true) s (pulseEdge c true m s) := by
  have only := OnlyCh.setCh c (Chan.edged e (s.nextRun c tb)) s
  have driven := (driven_edged e (s.nextRun c tb) h.lone).trans h.driven
  have conducting : ((s.setCh c (Chan.edged e (s.nextRun c tb))).ch c).conducting = false := by rw [only.own]; exact off
  have turns := pulseTo_only (s := s.setCh c (Chan.edged e (s.nextRun c tb))) true (by rw [only.own]; exact h.lone)
  rw [only.own] at turns
  have served : pulseEdge c true m s = pulseTo c true (s.setCh c (Chan.edged e (s.nextRun c tb))) := by
    rw [h.onEdge edge next, edgeServed, driven, conducting, if_neg (by simp), if_neg (not_lt.mpr long), if_pos (by simpa using runs)]
  rw [served]
  exact only.trans turns

/-- A driven switch with an on-time shorter than 10 µs is off from the on edge (R201). -/
theorem Generating.staysOff (h : Generating c tb s)
    (edge : tb.onEdge ((s.ch c).sw.edgePhase tb) (s.tbNow (bankOf c)) = some e) (next : (s.ch c).sw.edgeFrom < e)
    (short : (s.nextRun c tb).onTime < 246) :
    let t := pulseEdge c true m s
    (t.ch c).conducting = false ∧ (t.ch c).sw.prun = s.nextRun c tb ∧ (t.ch c).sw.lastOn = e ∧ (t.ch c).sw.edgeFrom = e ∧
      ∀ d : Ch, d ≠ c → t.ch d = s.ch d := by
  have only := OnlyCh.setCh c (Chan.edged e (s.nextRun c tb)) s
  have driven := (driven_edged e (s.nextRun c tb) h.lone).trans h.driven
  have switch : LoneSwitch c (s.setCh c (Chan.edged e (s.nextRun c tb))) :=
    ⟨by rw [only.own]; exact h.switch.switch, by rw [only.own]; exact h.lone, h.switch.live⟩
  have served := h.onEdge (m := m) edge next
  dsimp only
  rw [served, edgeServed, driven, if_neg (by simp), if_pos short]
  split
  · obtain ⟨off, others⟩ := switch.pulseTo_off m
    rw [only.own] at off
    exact ⟨off.conducting, off.prun, off.lastOn, off.edgeFrom, fun d hd => (others d hd).trans (only.others d hd)⟩
  · next off =>
    refine ⟨Bool.eq_false_iff.mpr off, ?_, ?_, ?_, only.others⟩ <;> rw [only.own] <;> rfl

/-- A driven switch turns off at its off edge (R201). -/
theorem Generating.turnsOff (h : Generating c tb s) (on : (s.ch c).conducting = true)
    (room : 246 + (s.ch c).sw.prun.onTime ≤ (s.ch c).sw.prun.period.toNat)
    (due : (s.ch c).sw.lastOn + 10000 * (s.ch c).sw.prun.onTime ≤ s.tbNow (bankOf c)) :
    pulseEdge c false m s = clampPulse c m (pulseTo c false s) := by
  rw [h.edge]
  simp [pulseOff, h.driven, on, due, Nat.le_sub_of_add_le room]

theorem Generating.staysOn (h : Generating c tb s)
    (runs : (s.tbNow (bankOf c) : Int) < (s.ch c).sw.lastOn + 10000 * (s.ch c).sw.prun.onTime) : pulseEdge c false m s = s := by
  rw [h.edge]
  simp [pulseOff, not_le.mpr runs]

end

section
variable {c : Ch} {s : State}

/-! ### Learned inrush (R190) -/

/-- A switch that has learned a measurement: the first as it is, a later one by a quarter of the difference. -/
def Chan.learning (a b d : Nat) (ch : Chan) : Chan :=
  { ch with sw := { ch.sw with
    learned := true
    lrnDone := true
    ipk := if ch.sw.learned then learn ch.sw.ipk a else a
    qin := if ch.sw.learned then learn ch.sw.qin b else b
    i100 := if ch.sw.learned then learn ch.sw.i100 d else d } }

theorem inrushLearning_learns (a b d : Nat) (up : s.switchUp c = true) (lone : (s.ch c).paired = false)
    (on : (s.ch c).conducting = true) (settled : (s.ch c).sw.onSince + msTicks 100 ≤ s.sys.now)
    (off : (s.ch c).sw.offSince + msTicks 1000 ≤ (s.ch c).sw.onSince) (first : (s.ch c).sw.lrnDone = false) :
    inrushLearning c a b d s = s.setCh c (Chan.learning a b d) := by
  have due : (s.switchUp c && (s.ch c).conducting && decide ((s.ch c).sw.onSince + msTicks 100 ≤ s.sys.now) &&
      decide ((s.ch c).sw.offSince + msTicks 1000 ≤ (s.ch c).sw.onSince) && !(s.ch c).sw.lrnDone) = true := by
    simp [up, on, settled, off, first]
  rw [inrushLearning, lead_of_unpaired lone, if_pos due]
  refine setCh_congr ?_
  cases learned : (s.ch c).sw.learned <;> simp [Chan.learning, learned]

theorem inrushLearning_once (a b d : Nat) (lone : (s.ch c).paired = false) (done : (s.ch c).sw.lrnDone = true) :
    inrushLearning c a b d s = s := by
  simp [inrushLearning, lead_of_unpaired lone, done]

/-! ### The sequencer (R14) -/

/-- A channel whose sequencer's microcode has flawed words. -/
def Chan.flawed (flaws : List (Fin 1024)) (ch : Chan) : Chan := { ch with ucode := { ch.ucode with flaws := flaws } }

/-- A fault by parity flaws one more word of the microcode; one by the watchdog flaws none. -/
theorem sequencerFlaw (c : Ch) (watchdog : Bool) (s : State) : ∃ (k : Fin 1024) (t : State),
    (if watchdog then s else parityFlaw c s) = t ∧ t.holms = s.holms ∧
      OnlyCh c ((s.ch c).flawed (if watchdog then (s.ch c).ucode.flaws else k :: (s.ch c).ucode.flaws)) s t := by
  refine ⟨⟨s.draw.1 % 1024, Nat.mod_lt _ (by decide)⟩, _, rfl, ?_⟩
  cases watchdog
  · exact ⟨rfl, (OnlyCh.setCh c _ s.draw.2).before rfl⟩
  · exact ⟨rfl, .refl rfl⟩

/-- A channel whose sequencer reloads. -/
def Chan.reload (ch : Chan) : Chan := { ch with reloading := true }

/-- The locks of a sequencer fault. -/
def Locks.faulted (l : Locks) : Locks := { l with seqFault := true }

theorem mem_arise_internal (o : IntOp) (s : State) : o ∈ (arise o s).sys.internal := by
  unfold arise
  dsimp only
  split
  · rw [(raise_records ..).sys]
    exact List.mem_append_right _ (List.mem_singleton_self o)
  · exact List.mem_append_right _ (List.mem_singleton_self o)

/-- A sequencer fault locks its switch off and begins the reload (R14). -/
theorem LoneSwitch.sequencerFault (h : LoneSwitch c s) (up : (s.holm (bankOf c)).up = true) (watchdog : Bool) :
    ∃ (k : Fin 1024) (now : Nat),
      OnlyCh c ((((s.ch c).flawed (if watchdog then (s.ch c).ucode.flaws else k :: (s.ch c).ucode.flaws)).locking
        Locks.faulted).lockedOff now).reload s (sequencerFault c watchdog s) ∧
      IntOp.load (.seqr c) ∈ (sequencerFault c watchdog s).sys.internal := by
  obtain ⟨k, flawed, flaws, holms, only⟩ := sequencerFlaw c watchdog s
  have switch : LoneSwitch c flawed :=
    ⟨by rw [only.own]; exact h.switch, by rw [only.own]; exact h.lone, by rw [State.holmLive, State.holm, holms]; exact h.live⟩
  have lock := only.trans (switch.setLock_only (f := Locks.faulted) (by simp [Locks.any, Locks.faulted]))
  have reload := lock.trans (.setCh c Chan.reload _)
  rw [lock.own, only.own] at reload
  have on : ((s.ch c).mode == .off) = false := by
    obtain m | m := Mode.switch_cases h.switch <;> rw [m] <;> rfl
  have e : Machine.sequencerFault c watchdog s = notifyHolm (bankOf c) 2 (if watchdog then 2 else 1) (BitVec.ofNat 8 (posOf c).val) 0
      (some 3) (arise (.load (.seqr c)) ((setLock c Locks.faulted flawed).setCh c Chan.reload)) := by
    simp only [Machine.sequencerFault, up, h.live, on, flaws, Bool.and_self, Bool.not_true, Bool.false_eq_true, if_false]
    rfl
  rw [e]
  refine ⟨k, flawed.sys.now, (reload.after (arise_chans ..)).after (notify_chans ..), ?_⟩
  obtain ⟨sys, -⟩ := notify_leaves (bankOf c) (holmSrc (bankOf c) 2) ([if watchdog then 2 else 1, BitVec.ofNat 8 (posOf c).val] ++ le16 0)
    (some 3) (BitVec.ofNat 16 (0x0100 + (bankOf c).val)) (arise (.load (.seqr c)) ((setLock c Locks.faulted flawed).setCh c Chan.reload))
  rw [notifyHolm, sys]
  exact mem_arise_internal ..

/-- The completion of a reload loads the microcode anew (R14). -/
theorem sequencerReloaded_only (reloading : (s.ch c).reloading = true) (arisen : s.internalWaits (.load (.seqr c)) = false)
    (journal : s.journalWaits (bankOf c) = false) :
    OnlyCh c { s.ch c with reloading := false, ucode := s.ucodeNow } s (sequencerReloaded c s) := by
  rw [sequencerReloaded, if_pos (by simp [reloading, arisen, journal])]
  exact (OnlyCh.setCh c (fun ch => { ch with reloading := false, ucode := s.ucodeNow }) s).after (notify_chans ..)

end

/-- Settles O53: each event of a lone switch is one report, one generator edge, one update of its record, or one lock with its reload. -/
theorem switchDiagnosticsPulsesAndLearning : Obligations.SwitchDiagnosticsPulsesAndLearning := by
  intro s c up lone b k others
  obtain ⟨switch, holmUp⟩ := LoneSwitch.of_up up lone
  refine ⟨?limit, ?onOpen, ?onOpenEnds, ?onOpenEarly, ?whileOff, ?whileOn, ?edges, ?learns, ?learned, ?fault, ?reload⟩
  case limit => exact fun on lim => congrArg Host.Outcome.next (if_pos (by simp [up, on]))
  case onOpen =>
    intro clear enabled long
    refine ⟨_, rfl, ?_⟩
    rw [onOpenLoad_reports up lone clear enabled long]
    obtain ⟨⟨sw, others⟩, conducting⟩ := swReport_only c 3 1 (fun w => { w with onOpen := true }) true s
    exact ⟨sw, conducting, others⟩
  case onOpenEnds =>
    intro stands long
    refine ⟨_, rfl, ?_⟩
    rw [onOpenLoad_clears up lone stands long]
    exact (swReport_only ..).1
  case onOpenEarly => exact fun short => congrArg Host.Outcome.next (onOpenLoad_early short)
  case whileOff =>
    intro off
    refine ⟨fun clear enabled check long => ⟨_, exec_offStateOpenLoad c true s, ?_⟩,
      fun stands long => ⟨_, exec_offStateOpenLoad c false s, ?_⟩, fun clear long => ⟨_, exec_shortToSupply c true s, ?_⟩,
      fun away clear long => ⟨_, exec_shortToSupply c true s, ?_⟩, fun stands long => ⟨_, exec_shortToSupply c false s, ?_⟩⟩
    · rw [offOpenLoad_reports up off clear enabled check long]
      exact (swReport_only ..).1
    · rw [offOpenLoad_clears up off stands long]
      exact (swReport_only ..).1
    · rw [shortSupply_nearVf up off clear long]
      exact (swReport_only ..).1
    · rw [shortSupply_driven up off clear away long]
      exact (swReport_only ..).1
    · rw [shortSupply_clears up off stands long]
      exact (swReport_only ..).1
  case whileOn =>
    intro on
    rw [exec_offStateOpenLoad, exec_shortToSupply, offOpenLoad, shortSupply, on, Bool.or_true]
    exact ⟨rfl, rfl⟩
  case edges =>
    intro m tb timebase driven w
    have h : Generating c tb s := ⟨up, lone, timebase, driven⟩
    refine ⟨fun e edge => ⟨fun next off long runs => ⟨_, rfl, ?_⟩, fun next short => ⟨_, rfl, ?_⟩, fun served => ?_⟩,
      fun on room => ⟨fun due => ⟨_, rfl, ?_⟩, fun early => ?_⟩⟩
    · have only := h.turnsOn (m := m) edge next off long runs
      refine ⟨?_, ?_, ?_, ?_, ?_, ?_, only.others⟩ <;> rw [only.own] <;> rfl
    · exact h.staysOff edge next short
    · exact congrArg Host.Outcome.next (h.early edge served)
    · rw [h.turnsOff on room due]
      obtain ⟨off, others⟩ := switch.pulseTo_off m
      exact ⟨off.conducting, off.offSince, off.bucket, others⟩
    · exact congrArg Host.Outcome.next (h.staysOn early)
  case learns =>
    intro a b d on settled off first
    exact congrArg Host.Outcome.next (inrushLearning_learns a b d up lone on settled off first)
  case learned => exact fun done a b d => congrArg Host.Outcome.next (inrushLearning_once a b d lone done)
  case fault =>
    intro wd
    obtain ⟨flaw, now, only, begins⟩ := switch.sequencerFault holmUp wd
    refine ⟨_, rfl, ?_, begins, ?_, ?_, ?_, ?_, only.others, flaw, ?_⟩ <;> rw [only.own] <;> rfl
  case reload =>
    intro reloading arisen journal
    have only := sequencerReloaded_only reloading arisen journal
    exact ⟨_, rfl, only.own, only.others⟩

end Sys2Proof.Machine
end

section
/-! PROOFS. Writes of the configuration region and of an image that the Badger admits with their submission (R221, R226, R239, R257, R264,
R354, R401): how each completes and what it leaves. -/

namespace Sys2Proof.Machine

/-! ### Completion of an admitted write -/

theorem thresholdEvents_den (s : State) : (thresholdEvents s).den = s.den := by
  unfold thresholdEvents
  refine overAll_keeps State.den (fun k u => ?_) s
  dsimp only
  repeat' split
  all_goals simp

/-- The evaluation that a submission brings adds nothing to the Den but what its head adds. -/
theorem Evaluable.submit_den {op : BitVec 16} {r : Req} {s : State} (e : Evaluable op r s) (kind : PricedKind) (m : ClampMeas) :
    (submit op r kind m s).den = (evalHead (evalStart op r kind m s) (submitted op r kind m s)).s.den := by
  have up : s.sys.failedEngines.any _ = false := e.core
  have evaluated : submit op r kind m s = evaluate (s.withHead (submitted op r kind m s)) := by
    rw [submit, if_neg (by simp [State.setBadger, State.coreDown, up])]
    rfl
  have heads : (s.withHead (submitted op r kind m s)).badger.heads = [submitted op r kind m s] := by
    simp [State.withHead, State.setBadger, e.queue]
  rw [evaluated, evaluate, if_neg (by simp [State.withHead, State.coreDown, State.setBadger, up, e.power]), heads, sortHeads,
    List.mergeSort_singleton]
  exact (State.setBadger_den ..).trans (thresholdEvents_den _)

/-- A submission left what its operation left, but for events and the Badger's warnings and report. -/
structure RanAs (t v : State) : Prop where
  besides : t.unreported = v.unreported
  den : t.den = v.den

theorem RanAs.completions {t v : State} (h : RanAs t v) : t.completions = v.completions := (congrArg State.completions h.besides :)
theorem RanAs.chans {t v : State} (h : RanAs t v) : t.chans = v.chans := (congrArg State.chans h.besides :)
theorem RanAs.holms {t v : State} (h : RanAs t v) : t.holms = v.holms := (congrArg State.holms h.besides :)
theorem RanAs.mram {t v : State} (h : RanAs t v) : t.mram = v.mram := (congrArg State.mram h.besides :)
theorem RanAs.upd {t v : State} (h : RanAs t v) : t.upd = v.upd := (congrArg State.upd h.besides :)
theorem RanAs.legal {t v : State} (h : RanAs t v) : t.legal = v.legal := (congrArg State.legal h.besides :)
theorem RanAs.ch {t v : State} (h : RanAs t v) (c : Ch) : t.ch c = v.ch c := by simp only [State.ch, h.chans]
theorem RanAs.holm {t v : State} (h : RanAs t v) (b : Bank) : t.holm b = v.holm b := by simp only [State.holm, h.holms]

/-- A command without a deadline that writes to MRAM runs with its submission while the reserve covers its bytes, in a state that differs
by its slot and the Badger (R226, R239). -/
theorem Ready.admits_write {op : BitVec 16} {r : Req} {s : State} (ready : Ready op r s) {c : Ch} {n : Nat} {kind : PricedKind}
    {m : ClampMeas} (core : s.coreDown 6 = false) (queue : s.badger.heads = []) (undated : r.deadline = 0)
    (profile : submittedProfile op r kind m (s.running r) = writeProfile op c n) (on : kind.turnOn? = none)
    (reserve : s.den.bufBytes + n ≤ s.badger.reserveBytes) (f : State → State)
    (runs : ∀ u, applyAdmitted (submitted op r kind m (s.running r)) u = f u) :
    ∃ u, RanAs (submit op r kind m (s.running r)) (f u) ∧ u.unqueued = s.unqueued := by
  have e := ready.evaluable core queue
  obtain ⟨u, lets, same⟩ := letRun_submitted op r kind m (writeProfile op c n) (s.running r)
  have ran := (((e.judged kind m).lets_write (c := c) (n := n) profile on (by simp [submitted, Head.late, deadlineAt, undated]) rfl rfl
    reserve).trans lets).trans (runs u)
  exact ⟨u, ⟨(e.submit_unreported kind m).trans (congrArg State.unreported ran), (e.submit_den kind m).trans (congrArg State.den ran)⟩, same⟩

/-- The link of a command's Holm is up where the command runs. -/
theorem Ready.linkOk_unqueued {op : BitVec 16} {r : Req} {s u : State} (ready : Ready op r s) (same : u.unqueued = s.unqueued) :
    u.linkOk r.obj = true := (congrArg (·.linkOk r.obj) same :).trans ready.linkOk

theorem configReads_unqueued {s u : State} {v : Bool} (reads : s.configReads = v) (same : u.unqueued = s.unqueued) : u.configReads = v :=
  (congrArg State.configReads same :).trans reads

theorem now_unqueued {s u : State} (same : u.unqueued = s.unqueued) : u.sys.now = s.sys.now := (congrArg (·.sys.now) same :)

theorem chans_unqueued {s u : State} (same : u.unqueued = s.unqueued) : u.chans = s.chans := (congrArg State.chans same :)

theorem holms_unqueued {s u : State} (same : u.unqueued = s.unqueued) : u.holms = s.holms := (congrArg State.holms same :)

theorem mram_unqueued {s u : State} (same : u.unqueued = s.unqueued) : u.mram = s.mram := (congrArg State.mram same :)

/-- An operation whose link is up completes at once (R305). -/
theorem finish_tells {op : BitVec 16} {r : Req} {st : Byte} {s : State} (link : s.linkOk r.obj = true) :
    Completion.mk r op (r.tag == 0) st [] s.sys.now ∈ (finish op r st [] 0 s).completions := by
  rw [(finish_completed op r st [] 0 s link).1]
  exact List.mem_append_right _ (List.mem_singleton_self _)

theorem finishHere_holm (op : BitVec 16) (r : Req) (st : Byte) (data : List Byte) (delay : Nat) (s : State) (e : Bank) :
    (finishHere op r st data delay s).holm e = s.holm e := rfl

/-- Only the journal of its own Holm is written when an operation completes (R30). -/
theorem finish_holm_ne {op : BitVec 16} {r : Req} {st : Byte} {data : List Byte} {delay : Nat} {s : State} {b e : Bank}
    (bank : objBank r.obj = some b) (other : e ≠ b) : (finish op r st data delay s).holm e = s.holm e := by
  unfold finish
  simp only [bank]
  split
  · rw [finishHere_holm, State.setHolm_holm_ne _ _ _ _ other]
  · rw [State.setHolm_holm_ne _ _ _ _ other, State.setHolm_holm_ne _ _ _ _ other]

/-- An operation that is sent to no Holm writes no journal. -/
theorem finish_of_no_bank {op : BitVec 16} {r : Req} {st : Byte} {data : List Byte} {delay : Nat} {s : State} (bank : objBank r.obj = none) :
    finish op r st data delay s = finishHere op r st data delay s := by simp [finish, bank]

/-- A command that is free to run names an object that its opcode accepts (R306). -/
theorem Ready.accepts {op : BitVec 16} {r : Req} {s : State} (ready : Ready op r s) : opAccepts op r.obj = true := by
  obtain ⟨-, passes, -⟩ := ready
  cases accepts : opAccepts op r.obj with
  | true => rfl
  | false =>
    refine absurd passes ?_
    simp only [State.preFail, firstFail, accepts]
    split <;> simp

/-- A command on a Holm object that is free to run and does not complete at once leaves the state that its own part answers. -/
theorem Ready.held_holm {op : BitVec 16} {r : Req} {s t : State} {b : Bank} {body : Bank → State → Res} (ready : Ready op r s)
    (hb : holmOf r.obj = some b) (held : body b (s.running r) = .held t) : runHolm op r s body = t :=
  runMail_held ready (by simp only [hb]; exact held)

theorem objBank_of_holm {o : BitVec 16} {b : Bank} (h : holmOf o = some b) : objBank o = some b := by
  have named : o = 0x0100 ∨ o = 0x0101 := by
    unfold holmOf at h
    split at h
    · exact .inl ‹_›
    · split at h
      · exact .inr ‹_›
      · exact absurd h (by simp)
  obtain rfl | rfl := named <;> exact h

/-! ### CH.FIELD -/

theorem chField_held {r : Req} {b : Bank} {s : State} {w : BitVec 16} (payload : r.payload = le16 w.toNat ++ [0, 0])
    (valid : w.toNat ≤ 60000 ∨ w = 0xFFFF) :
    chField r b s = .held (submit 0x020B r (.mramField b) (ClampMeas.mk []) s) := by
  have field : leAt r.payload 0 2 = w.toNat := by
    rw [payload, le16, leAt_leBytes, Nat.mod_eq_of_lt (by exact w.isLt)]
  have format : (r.payload.length == 4 && zeroBytes r.payload 2 2) = true := by simp [payload, le16, leBytes, zeroBytes]
  have range : (decide (w.toNat ≤ 0xEA60) || w.toNat == 0xFFFF) = true := by
    obtain low | rfl := valid
    · simp [low]
    · rfl
  simp only [chField, checked, firstFail, field, format, range, if_true]

/-- A configuration write that fails its read-back ends E_INTERNAL and leaves the channels and, of the Holms, all but their journals. -/
theorem configFailed_spec {op : BitVec 16} {r : Req} {s : State} (link : s.linkOk r.obj = true) :
    Completion.mk r op (r.tag == 0) stE_INTERNAL [] s.sys.now ∈ (configFailed op r s).completions ∧
      (configFailed op r s).chans = s.chans ∧ ∀ b : Bank, ((configFailed op r s).holm b).holdT = (s.holm b).holdT := by
  have records : RecordsOnly s (recordInternal op r.obj s) := denEvent_records ..
  have holm (b : Bank) : (recordInternal op r.obj s).holm b = s.holm b := by simp only [State.holm, records.holms]
  have up : (recordInternal op r.obj s).linkOk r.obj = true := by simpa only [State.linkOk, holm] using link
  refine ⟨?_, (finish_chans ..).trans records.chans, fun b => ?_⟩
  · rw [← records.sys]
    exact finish_tells up
  · rw [← holm]
    exact (finish_outputs ..).holdT b

/-- The Holm that HOLD_T is written to (R257). -/
theorem fieldApply_spec {op : BitVec 16} {r : Req} {b : Bank} {s : State} (hb : holmOf r.obj = some b) (link : s.linkOk r.obj = true)
    (reads : s.configReads = true) :
    let t := fieldApply b op r s
    Completion.mk r op (r.tag == 0) stOK [] s.sys.now ∈ t.completions ∧ (t.holm b).holdT = word16 r.payload 0 ∧ t.chans = s.chans ∧
      t.den = s.den ∧ t.mram = s.mram ∧ ∀ e : Bank, e ≠ b → t.holm e = s.holm e := by
  intro t
  let v := s.setHolm b fun h => { h with holdT := word16 r.payload 0 }
  have eq : t = finish op r stOK [] 0 v := by simp [t, fieldApply, reads, v]
  have bank := objBank_of_holm hb
  have up : v.linkOk r.obj = true := by simpa [State.linkOk, bank, v] using link
  have out := finish_outputs op r stOK [] 0 v
  rw [eq]
  refine ⟨finish_tells up, ?_, finish_chans .., out.den, out.mram, fun e he => ?_⟩
  · rw [out.holdT, State.setHolm_holm_self]
  · rw [finish_holm_ne bank he]
    exact State.setHolm_holm_ne s b _ e he

/-- A calm step leaves the lanes to Mainland of both links. -/
theorem Calm.linkOk {s t : State} (h : Calm s t) (obj : BitVec 16) : t.linkOk obj = s.linkOk obj := by
  unfold State.linkOk
  split
  · next b _ => exact (h.holm b).link
  · rfl

/-! ### CH.BMAP -/

theorem maskPositions_single : ∀ k : Fin 8, maskPositions (BitVec.ofNat 8 (2 ^ k.val)) = [k] := by decide

/-- The entry of a payload that names one position (Table 5 of 10_supplies_and_safe_states). -/
theorem mapEntry_bytes (mask : Byte) (e : BurEntry) : mapEntry (mask :: e.bytes) 0 = e := by
  have active : word32 (mask :: e.bytes) 5 = e.iact := by
    rw [word32, BurEntry.bytes, List.append_assoc]
    rw [show (5 : Nat) = 5 + 0 from rfl, ← List.cons_append, leAt_append (by rfl), leAt_le32, BitVec.ofNat_toNat, BitVec.setWidth_eq]
  have inactive : word32 (mask :: e.bytes) 9 = e.iinact := by
    rw [word32, BurEntry.bytes, ← List.append_nil (le32 e.iinact.toNat)]
    rw [show (9 : Nat) = 9 + 0 from rfl, ← List.cons_append, leAt_append (by simp [le32]), leAt_le32, BitVec.ofNat_toNat,
      BitVec.setWidth_eq]
  have flags : byteAt (mask :: e.bytes) 1 = e.bflags := rfl
  simp only [mapEntry, Nat.mul_zero, Nat.add_zero, active, inactive, flags]

theorem bmapEntry_zero (mask : Byte) (e : BurEntry) : zeroBytes (mask :: e.bytes) 2 3 = true := by
  simp [BurEntry.bytes, zeroBytes]

theorem ownerOf_chObj (s : State) (c : Ch) : s.ownerOf (chObj c) = (s.ch c).owner := by
  have named : chOf (chObj c) = some c := by revert c; decide
  simp only [State.ownerOf, named]

/-- The payload of CH.BMAP gives one entry to one bank position. -/
structure NamesOne (r : Req) (b : Bank) (k : Fin 8) (e : BurEntry) (s : State) : Prop where
  payload : r.payload = BitVec.ofNat 8 (2 ^ k.val) :: e.bytes
  owner : (s.ch (chAt b k)).owner = some r.port
  plain : s.isLegal (chAt b k) = false
  output : (s.ch (chAt b k)).mode.isOutput = true
  lone : (s.ch (chAt b k)).paired = false
  mapped : bit e.bflags 7 = true
  reserved : fld e.bflags 1 0 = 0
  follow : fld e.bflags 3 2 ≠ 3
  active : e.iact.toNat ≤ 24000000
  inactive : e.iinact.toNat ≤ 24000000
  asserted : (s.holm b).burEn = false

theorem mask_ne_zero : ∀ k : Fin 8, BitVec.ofNat 8 (2 ^ k.val) ≠ 0 := by decide

theorem NamesOne.held {r : Req} {b : Bank} {k : Fin 8} {e : BurEntry} {s : State} (h : NamesOne r b k e s) :
    chBmap r b s = .held (submit 0x020D r (.mramMap b) (ClampMeas.mk []) s) := by
  have mask : byteAt r.payload 0 = BitVec.ofNat 8 (2 ^ k.val) := by rw [h.payload]; rfl
  have length : r.payload.length = 13 := by rw [h.payload]; rfl
  have entry : mapEntry r.payload 0 = e := by rw [h.payload, mapEntry_bytes]
  have zero : zeroBytes r.payload 2 3 = true := by rw [h.payload, bmapEntry_zero]
  have even : s.oddMember (chAt b k) = false := by simp [State.oddMember, h.lone]
  have named : maskPositions (byteAt r.payload 0) = [k] := by rw [mask, maskPositions_single]
  have checks : firstFail (bmapChecks r b s) = none := by
    simp [bmapChecks, named, firstFail, State.owns, ownerOf_chObj, h.owner, State.legalPortOk, h.plain, length,
      entry, zero, h.reserved, h.follow, h.mapped, h.active, h.inactive, h.asserted, h.output, even, List.range_succ]
  rw [chBmap, if_neg (by rw [mask]; exact mask_ne_zero k), checked, checks]

theorem mapApply_spec {op : BitVec 16} {r : Req} {b : Bank} {k : Fin 8} {e : BurEntry} {s : State}
    (payload : r.payload = BitVec.ofNat 8 (2 ^ k.val) :: e.bytes) (link : s.linkOk r.obj = true) (reads : s.configReads = true) :
    let t := mapApply b op r s
    Completion.mk r op (r.tag == 0) stOK [] s.sys.now ∈ t.completions ∧ (t.ch (chAt b k)).bmap = e ∧
      ∀ d : Ch, d ≠ chAt b k → (t.ch d).bmap = (s.ch d).bmap := by
  intro t
  let u := s.setCh (chAt b k) fun ch => { ch with bmap := e }
  have named : maskPositions (byteAt r.payload 0) = [k] := by
    rw [payload]
    exact maskPositions_single k
  have entry : mapEntry r.payload 0 = e := by rw [payload, mapEntry_bytes]
  have eq : t = finish op r stOK [] 0 (evalBank b u) := by
    simp [t, mapApply, reads, named, List.range_succ, overAll, entry, u]
  have out := evalBank_outputs b u
  have quiet : calm.rel s (evalBank b u) := calm.keeps (by simp [u])
  have up : (evalBank b u).linkOk r.obj = true := (quiet.linkOk r.obj).trans link
  have kept (d : Ch) : (t.ch d).bmap = (u.ch d).bmap := by rw [eq, finish_ch, out.bmap]
  refine ⟨?_, ?_, fun d hd => ?_⟩
  · have done := finish_tells (op := op) (st := stOK) up
    rwa [← eq, out.sys] at done
  · rw [kept, State.setCh_ch_self]
  · rw [kept, State.setCh_ch_ne s _ _ d hd]

/-! ### BDG.SET -/

theorem bdgSet_held {r : Req} {s : State} (length : r.payload.length = 16) (zero : zeroBytes r.payload 13 3 = true)
    (range : bdgRange r.payload = true) (legal0 : legalExcitation s 0 ≤ leAt r.payload 4 2 * 1000)
    (legal1 : legalExcitation s 1 ≤ leAt r.payload 6 2 * 1000) :
    bdgSet r s = .held (submit 0x0801 r .mramBdg (ClampMeas.mk []) s) := by
  simp [bdgSet, checked, firstFail, length, zero, range, legal0, legal1]

theorem objBank_of_bdgSet {o : BitVec 16} (h : opAccepts 0x0801 o = true) : objBank o = none := by
  obtain rfl : o = 0x0200 := by simpa [opAccepts, family] using h
  rfl

/-- The Badger with the settings of a BDG.SET payload (Table 2 of 09_badger). -/
def Badger.configured (d : List Byte) (b : Badger) : Badger :=
  { b with
    ifmax := #v[leAt d 0 2, leAt d 2 2]
    ixmax := #v[leAt d 4 2, leAt d 6 2]
    pceil := leAt d 8 2
    dtguard := leAt d 10 1
    eres := leAt d 11 1
    tambx := leAt d 12 1 }

/-- A new ceiling with its event (R220). -/
theorem setCeiling_unreported (cause : Byte) (new : Nat) (s : State) :
    (setCeiling cause new s).unreported = (s.setBadger fun b => { b with ceiling := new }).unreported := raise_unreported ..

/-- The settings stand, with the ceiling that follows from them (R220, R221). -/
theorem bdgApply_spec {op : BitVec 16} {r : Req} {s : State} (bank : objBank r.obj = none) (reads : s.configReads = true) :
    let t := bdgApply op r s
    Completion.mk r op (r.tag == 0) stOK [] s.sys.now ∈ t.completions ∧
      (∃ n, t.unreported.badger = { s.badger.configured r.payload with ceiling := n, warned := [], report := [] }) ∧
      t.chans = s.chans ∧ t.holms = s.holms ∧ t.mram = s.mram := by
  intro t
  let u := s.setBadger (Badger.configured r.payload)
  let v := if u.ceilingNow = u.badger.ceiling then u else setCeiling 2 u.ceilingNow u
  have eq : t = finishHere op r stOK [] 0 v := by
    rw [← finish_of_no_bank bank]
    simp [t, bdgApply, reads, v, u]
    rfl
  have set : ∃ n, v.unreported = (u.setBadger fun b => { b with ceiling := n }).unreported := by
    by_cases same : u.ceilingNow = u.badger.ceiling
    · exact ⟨u.badger.ceiling, by rw [show v = u from if_pos same]; rfl⟩
    · exact ⟨u.ceilingNow, by rw [show v = _ from if_neg same]; exact setCeiling_unreported ..⟩
  obtain ⟨n, set⟩ := set
  have now : v.sys.now = s.sys.now := (congrArg (·.sys.now) set :)
  rw [eq]
  refine ⟨?_, ⟨n, (congrArg State.badger set :)⟩, (congrArg State.chans set :), (congrArg State.holms set :), (congrArg State.mram set :)⟩
  rw [← now]
  exact List.mem_append_right _ (List.mem_singleton_self _)

/-! ### UPD.CHUNK -/

theorem reflect_lt (n v : Nat) : reflect n v < 2 ^ n := by
  induction n generalizing v with
  | zero => simp [reflect]
  | succ n ih =>
    have rest := ih (v / 2)
    have top : v % 2 * 2 ^ n ≤ 1 * 2 ^ n := Nat.mul_le_mul_right _ (by omega)
    rw [reflect, Nat.pow_succ']
    omega

theorem crc32c_lt (l : List Byte) : crc32c l < 2 ^ 32 := Nat.xor_lt_two_pow (reflect_lt 32 _) (by decide)

theorem objBank_of_updChunk {o : BitVec 16} (h : opAccepts 0x0B02 o = true) : objBank o = none := by
  obtain rfl : o = 0x0500 := by simpa [opAccepts, family] using h
  rfl

/-- A payload of UPD.CHUNK: its offset, the check value over offset and data, and the data (Table 9 of 15_start_update_security). -/
structure ChunkPayload (r : Req) (off : Nat) (d : List Byte) (s : State) : Prop where
  payload : r.payload = le32 off ++ le32 (crc32c (le32 off ++ d)) ++ d
  session : s.sessionOf r.port = true
  aligned : off % 4096 = 0
  inside : off < s.upd.sessionLen
  most : s.upd.sessionLen ≤ 0x180000
  length : d.length = min 4096 (s.upd.sessionLen - off)

theorem ChunkPayload.data {r : Req} {off : Nat} {d : List Byte} {s : State} (h : ChunkPayload r off d s) : r.payload.drop 8 = d := by
  rw [h.payload]
  exact List.drop_left' (by simp [le32])

theorem ChunkPayload.offset {r : Req} {off : Nat} {d : List Byte} {s : State} (h : ChunkPayload r off d s) : leAt r.payload 0 4 = off := by
  have := h.inside
  have := h.most
  rw [h.payload, List.append_assoc, le32, leAt_leBytes]
  exact Nat.mod_eq_of_lt (by omega)

theorem ChunkPayload.check {r : Req} {off : Nat} {d : List Byte} {s : State} (h : ChunkPayload r off d s) :
    leAt r.payload 4 4 = crc32c (le32 off ++ d) := by
  rw [h.payload, List.append_assoc, show (4 : Nat) = 4 + 0 from rfl, leAt_append (by simp [le32])]
  exact (leAt_leBytes ..).trans (Nat.mod_eq_of_lt (crc32c_lt _))

theorem ChunkPayload.size {r : Req} {off : Nat} {d : List Byte} {s : State} (h : ChunkPayload r off d s) : r.payload.length = 8 + d.length := by
  simp [h.payload, le32, ← Nat.add_assoc]

theorem ChunkPayload.held {r : Req} {off : Nat} {d : List Byte} {s : State} (h : ChunkPayload r off d s) :
    updChunk r s = .held (submit 0x0B02 r .mramChunk (ClampMeas.mk []) s) := by
  have inside := h.inside
  have length := h.length
  have format : (decide (9 ≤ r.payload.length) && decide (r.payload.length ≤ 4104) &&
      (decide (s.upd.sessionLen ≤ off) || r.payload.length - 8 == min 4096 (s.upd.sessionLen - off))) = true := by
    rw [h.size, length]
    simp
    omega
  have check : leAt r.payload 4 4 = crc32c (le32 off ++ r.payload.drop 8) := by rw [h.data, h.check]
  simp [updChunk, checked, firstFail, h.session, h.offset, format, check, inside, h.aligned]

/-- Cells that all take what is written hold it (R401). -/
theorem cells_of_good {s : State} {a : Nat} {l : List Byte} (good : s.mramFails a l.length = false) : s.cells a l = l := by
  induction l generalizing a with
  | nil => rfl
  | cons v rest ih =>
    have first : s.mramFails a 1 = false := by
      simp only [State.mramFails, List.any_eq_false, Bool.and_eq_true, decide_eq_true_eq, List.length_cons, not_and] at good ⊢
      exact fun e he low => good e he (by omega)
    have others : s.mramFails (a + 1) rest.length = false := by
      simp only [State.mramFails, List.any_eq_false, Bool.and_eq_true, decide_eq_true_eq, List.length_cons, not_and] at good ⊢
      intro e he low high
      exact good e he (by omega) (by omega)
    rw [State.cells, first, ih others]
    rfl

theorem ChunkPayload.of_upd {r : Req} {off : Nat} {d : List Byte} {s u : State} (h : ChunkPayload r off d s) (same : u.upd = s.upd) :
    ChunkPayload r off d u :=
  ⟨h.payload, by simpa only [State.sessionOf, same] using h.session, h.aligned, same ▸ h.inside, same ▸ h.most, same ▸ h.length⟩

/-- What a chunk leaves: its bytes in the inactive slot where they read back, and then its bit (R401). -/
theorem chunkApply_spec {op : BitVec 16} {r : Req} {off : Nat} {d : List Byte} {s : State} {good : Bool} (h : ChunkPayload r off d s)
    (bank : objBank r.obj = none) (reads : s.mramFails (slotBase s.upd.other + off) d.length = !good) :
    let t := chunkApply op r s
    Completion.mk r op (r.tag == 0) (if good then stOK else stE_INTERNAL) [] s.sys.now ∈ t.completions ∧
      (off / 4096 ∈ t.upd.chunks ↔ good = true) ∧ (good = true → t.mram = mramStore s.mram (slotBase s.upd.other + off) d) ∧
      t.chans = s.chans ∧ t.holms = s.holms ∧ t.legal = s.legal := by
  unfold chunkApply
  rw [h.data, h.offset]
  extract_lets o k was a good' s1 s2 s3 s4 t
  obtain rfl : good' = good := by simp only [good', a, o, k, reads, Bool.not_not]
  let v := if good' then s4 else recordInternal op r.obj s4
  have event : s4.unreported = s3.unreported := by
    by_cases whole : (s3.upd.complete && !was) = true
    · rw [show s4 = raise 240 [] s3 from if_pos whole, raise_unreported]
    · rw [show s4 = s3 from if_neg whole]
  have records : RecordsOnly s4 v := by
    by_cases g : good' = true
    · rw [show v = s4 from if_pos g]
      exact .refl s4
    · rw [show v = recordInternal op r.obj s4 from if_neg g]
      exact denEvent_records ..
  have now : v.sys.now = s.sys.now := (congrArg Sys.now records.sys).trans (congrArg (·.sys.now) event :)
  have chunks : v.upd.chunks = (if good' then [off / 4096] else []) ++ s.upd.chunks.filter (· != off / 4096) :=
    (congrArg Upd.chunks records.upd).trans (congrArg (·.upd.chunks) event :)
  have eq : t = finishHere op r (if good' then stOK else stE_INTERNAL) [] 0 v := finish_of_no_bank bank
  rw [eq]
  refine ⟨?_, ?_, fun g => ?_, records.chans.trans (congrArg State.chans event :), records.holms.trans (congrArg State.holms event :),
    records.legal.trans (congrArg State.legal event :)⟩
  · rw [← now]
    exact List.mem_append_right _ (List.mem_singleton_self _)
  · change off / 4096 ∈ v.upd.chunks ↔ _
    rw [chunks]
    cases good' <;> simp
  · change v.mram = _
    rw [show v = s4 from if_pos g, show s4.mram = mramStore s.mram a (s.cells a d) from (congrArg State.mram event :),
      cells_of_good (by simpa [g] using reads)]

/-! ### The statement -/

/-- Settles O17: each write passes its checks, the reserve lets its head run with its submission, and its operation is one update of the
Holm, the map, the Badger or the slot. -/
theorem configurationWritesTakeEffectOnAdmission : Obligations.ConfigurationWritesTakeEffectOnAdmission := by
  intro r s undated queue core reserve
  refine ⟨fun b w hb ready payload valid reads => ?_,
    fun b k e hb ready payload owner plain output lone mapped reserved follow active inactive asserted reads => ?_,
    fun ready length zero range legal0 legal1 reads => ?_,
    fun off d canonical ready session aligned inside most length payload => ?_,
    fun b w hb ready payload valid reads => ?_⟩
  · obtain ⟨u, ran, same⟩ := ready.admits_write (c := chAt b 0) (kind := .mramField b) (m := ClampMeas.mk []) core queue undated rfl rfl
      reserve (fieldApply b 0x020B r) fun _ => rfl
    obtain ⟨done, holdT, chans, den, mram, others⟩ := fieldApply_spec (op := 0x020B) (s := u) hb (ready.linkOk_unqueued same)
      (configReads_unqueued reads same)
    rw [now_unqueued same] at done
    refine ⟨_, congrArg Host.Outcome.next (ready.held_holm hb (chField_held payload valid)), ran.completions ▸ done, ?_,
      ran.chans.trans (chans.trans (chans_unqueued same)), ran.den.trans (den.trans (congrArg State.den same :)),
      ran.mram.trans (mram.trans (mram_unqueued same)), fun e he => (ran.holm e).trans ((others e he).trans ?_)⟩
    · rw [ran.holm, holdT, payload, word16_le16]
    · simp only [State.holm, holms_unqueued same]
  · have one : NamesOne r b k e (s.running r) :=
      ⟨payload, owner, plain, output, lone, mapped, reserved, follow, active, inactive, asserted⟩
    obtain ⟨u, ran, same⟩ := ready.admits_write (c := chAt b 0) (kind := .mramMap b) (m := ClampMeas.mk []) core queue undated rfl rfl
      reserve (mapApply b 0x020D r) fun _ => rfl
    obtain ⟨done, entry, others⟩ := mapApply_spec (op := 0x020D) (s := u) (b := b) payload (ready.linkOk_unqueued same)
      (configReads_unqueued reads same)
    rw [now_unqueued same] at done
    refine ⟨_, congrArg Host.Outcome.next (ready.held_holm hb one.held), ran.completions ▸ done, ?_, fun d hd => ?_⟩
    · rw [ran.ch, entry]
    · rw [ran.ch, others d hd, State.ch, State.ch, chans_unqueued same]
  · have bank := objBank_of_bdgSet ready.accepts
    obtain ⟨u, ran, same⟩ := ready.admits_write (c := 0) (kind := .mramBdg) (m := ClampMeas.mk []) core queue undated rfl rfl
      reserve (bdgApply 0x0801 r) fun _ => rfl
    obtain ⟨done, ⟨n, set⟩, chans, holms, mram⟩ := bdgApply_spec (op := 0x0801) (s := u) bank (configReads_unqueued reads same)
    rw [now_unqueued same] at done
    have badger := (congrArg State.badger ran.besides).trans set
    have held := runMail_held ready (bdgSet_held (s := s.running r) length zero range legal0 legal1)
    exact ⟨_, congrArg Host.Outcome.next held, ran.completions ▸ done, (congrArg Badger.ifmax badger :), (congrArg Badger.ixmax badger :),
      (congrArg Badger.pceil badger :), (congrArg Badger.dtguard badger :), (congrArg Badger.eres badger :),
      (congrArg Badger.tambx badger :), ran.chans.trans (chans.trans (chans_unqueued same)),
      ran.holms.trans (holms.trans (holms_unqueued same)), ran.mram.trans (mram.trans (mram_unqueued same))⟩
  · have chunk : ChunkPayload r off d s := ⟨payload, session, aligned, inside, most, length⟩
    have held := runMail_held ready (ChunkPayload.held (chunk.of_upd rfl : ChunkPayload r off d (s.running r)))
    have fits : s.den.bufBytes + (r.payload.length - 8) ≤ s.badger.reserveBytes := by omega
    obtain ⟨u, ran, same⟩ := ready.admits_write (c := 0) (kind := .mramChunk) (m := ClampMeas.mk []) core queue undated rfl rfl
      fits (chunkApply 0x0B02 r) fun _ => rfl
    have upd : u.upd = s.upd := (congrArg State.upd same :)
    have outcome {good : Bool} (reads : s.mramFails (slotBase s.upd.other + off) d.length = !good) :=
      chunkApply_spec (op := 0x0B02) (s := u) (good := good) (chunk.of_upd upd) (objBank_of_updChunk ready.accepts)
        (by simpa only [upd, State.mramFails, show u.sys = s.sys from (congrArg State.sys same :)] using reads)
    rw [now_unqueued same, upd, mram_unqueued same] at outcome
    refine ⟨fun fails => ?_, fun reads => ?_⟩
    · obtain ⟨done, chunks, -, chans, holms, legal⟩ := outcome (good := false) fails
      refine ⟨_, congrArg Host.Outcome.next held, ran.completions ▸ done, ?_, ran.chans.trans (chans.trans (chans_unqueued same)),
        ran.holms.trans (holms.trans (holms_unqueued same)), ran.legal.trans (legal.trans (congrArg State.legal same :))⟩
      rw [ran.upd, chunks]
      decide
    · obtain ⟨done, chunks, stored, chans, holms, legal⟩ := outcome (good := true) reads
      have read (x : Nat) := mramRead_store (a := slotBase s.upd.other + off) (b := x) (l := d) canonical
      rw [← stored rfl, ← ran.mram] at read
      refine ⟨_, congrArg Host.Outcome.next held, ran.completions ▸ done, fun i hi => ?_, fun x out => ?_, ?_,
        ran.chans.trans (chans.trans (chans_unqueued same)), ran.holms.trans (holms.trans (holms_unqueued same)),
        ran.legal.trans (legal.trans (congrArg State.legal same :))⟩
      · rw [read, if_pos (by omega), Nat.add_sub_cancel_left]
      · rw [read, if_neg (by omega)]
      · rw [ran.upd, chunks]
  · obtain ⟨u, ran, same⟩ := ready.admits_write (c := chAt b 0) (kind := .mramField b) (m := ClampMeas.mk []) core queue undated rfl rfl
      reserve (fieldApply b 0x020B r) fun _ => rfl
    have failed : fieldApply b 0x020B r u = configFailed 0x020B r u := by simp [fieldApply, configReads_unqueued reads same]
    obtain ⟨done, chans, holdT⟩ := configFailed_spec (op := 0x020B) (ready.linkOk_unqueued same)
    rw [now_unqueued same] at done
    rw [failed] at ran
    refine ⟨_, congrArg Host.Outcome.next (ready.held_holm hb (chField_held payload valid)), ran.completions ▸ done, fun e => ?_,
      ran.chans.trans (chans.trans (chans_unqueued same))⟩
    rw [ran.holm, holdT, State.holm, State.holm, holms_unqueued same]

end Sys2Proof.Machine
end

section
/-! PROOFS. What the Badger does of itself besides shedding (R218, R220, R226, R232, R242, R305, R318): its tick, deadlines, completions,
the ceiling, and ledgers above their budgets. -/

namespace Sys2Proof.Machine

/-! ### The tick (R226) -/

theorem noteCounterFaults_records (s : State) : RecordsOnly s (noteCounterFaults s) := by
  unfold noteCounterFaults
  exact overAll_records (fun b u => raiseIf_records _ 206 _ u) s

/-- The report of an evaluation begins with the ceiling (R240). -/
theorem reportOf_ceiling (s : State) : (reportOf s).take 2 = le16 s.badger.ceiling := by
  unfold reportOf
  simp only [List.append_assoc]
  exact List.take_left' (leBytes_length ..)

theorem unreported_ceiling (s : State) : s.unreported.badger.ceiling = s.badger.ceiling := rfl

theorem thresholdEvents_ceiling (s : State) : (thresholdEvents s).badger.ceiling = s.badger.ceiling := by
  rw [← unreported_ceiling, thresholdEvents_unreported, unreported_ceiling]

/-- An evaluation without a head reports the ceiling in force. -/
theorem evaluate_report {s : State} (serves : s.badgerUp = true) (queue : s.badger.heads = []) :
    (evaluate s).badger.report.take 2 = le16 s.badger.ceiling := by
  have up : ¬(s.coreDown 6 || !s.sys.vddOk) = true := by
    simp only [State.badgerUp, Bool.and_eq_true, Bool.not_eq_true'] at serves
    simp [serves]
  rw [evaluate, if_neg up, queue, sortHeads, List.mergeSort_nil]
  exact (reportOf_ceiling _).trans (congrArg le16 (thresholdEvents_ceiling s))

theorem badgerTick_idle {s : State} (h : s.sys.now / 100000 = s.badger.tickAt / 100000) : badgerTick s = s := by
  simp [badgerTick, State.tickDue, h]

/-- The state in which the tick's evaluation runs: meters read, shown profiles ended, the banks' steps free (R218, R223, R227). -/
def ticked (s : State) : State :=
  (noteCounterFaults (readLedgers s)).setBadger fun b => { b with stagger := [], tickAt := s.sys.now }

theorem ticked_badger (s : State) : (ticked s).badger = { s.badger with
    meters := s.badger.meters.map Meter.read
    admitted := s.badger.admitted.filter s.stillDue
    stagger := []
    tickAt := s.sys.now } := by
  rw [ticked, State.setBadger_badger, (noteCounterFaults_records _).badger]
  rfl

theorem badgerTick_due {s : State} (serves : s.badgerUp = true) (due : s.sys.now / 100000 ≠ s.badger.tickAt / 100000) :
    badgerTick s = noteExcess (evaluate (ticked s)) := by
  simp [badgerTick, State.tickDue, serves, due, ticked]

theorem badgerTick_spec {s : State} (serves : s.badgerUp = true) (queue : s.badger.heads = [])
    (due : s.sys.now / 100000 ≠ s.badger.tickAt / 100000) :
    let t := badgerTick s
    t.badger.meters = s.badger.meters.map Meter.read ∧ t.badger.admitted = s.badger.admitted.filter s.stillDue ∧
      t.badger.stagger = [] ∧ t.badger.heads = [] ∧ t.badger.report.take 2 = le16 s.badger.ceiling ∧
      t.badger.ceiling = s.badger.ceiling ∧ t.chans = s.chans ∧ t.holms = s.holms ∧ t.completions = s.completions := by
  intro t
  have records := noteCounterFaults_records (readLedgers s)
  have badger := ticked_badger s
  have upTicked : (ticked s).badgerUp = true := by
    rw [← serves]
    simp only [State.badgerUp, State.coreDown, show (ticked s).sys = s.sys from records.sys]
  have empty : (ticked s).badger.heads = [] := (congrArg Badger.heads badger).trans queue
  have evaluated := evaluate_unreported empty
  have report := evaluate_report upTicked empty
  have kept := congrArg State.badger evaluated
  have eq : t = noteExcess (evaluate (ticked s)) := badgerTick_due serves due
  rw [eq]
  exact ⟨(congrArg Badger.meters kept :).trans (congrArg Badger.meters badger :),
    (congrArg Badger.admitted kept :).trans (congrArg Badger.admitted badger :),
    (congrArg Badger.stagger kept :).trans (congrArg Badger.stagger badger :),
    (congrArg Badger.heads kept :).trans (empty),
    report.trans (congrArg (fun b => le16 b.ceiling) badger :),
    (congrArg Badger.ceiling kept :).trans (congrArg Badger.ceiling badger :),
    (congrArg State.chans evaluated :).trans records.chans, (congrArg State.holms evaluated :).trans records.holms,
    (congrArg State.completions evaluated :).trans records.completions⟩

/-! ### Deadlines (R232, R318) -/

theorem deadlineExpiry_early {p : Port} {tag : BitVec 16} {h : Head} {d : Nat} {s : State} (head : s.headOf p tag = some h)
    (deadline : h.deadline = some d) (early : s.sys.now < d) : deadlineExpiry p tag s = s := by
  have notYet : ¬d ≤ s.sys.now := by omega
  simp [deadlineExpiry, head, deadline, notYet]

/-- A head whose deadline passes while DEFERRED ends with E_BUDGET and EV197 (R232). -/
theorem deadlineExpiry_late {p : Port} {tag : BitVec 16} {h : Head} {r : Req} {d : Nat} {s : State} (head : s.headOf p tag = some h)
    (req : h.req = some r) (deadline : h.deadline = some d) (power : s.sys.vddOk = true) (late : d ≤ s.sys.now)
    (deferred : h.deferred = true) : ∃ data, deadlineExpiry p tag s = finishHere h.opcode r stE_BUDGET [] 0 (raise 197 data (dropHead h s)) := by
  have ends (ledger : Byte) : ∃ data, budgetEnd h ledger 1 s = finishHere h.opcode r stE_BUDGET [] 0 (raise 197 data (dropHead h s)) := by
    simp only [budgetEnd, req, budgetEvent]
    exact ⟨_, rfl⟩
  simp only [deadlineExpiry, head, deadline, power, deferred, late, Bool.true_and, decide_true, if_true]
  exact ends _

theorem finishHere_latched {src : Nat} {s : State} (h : s.latched src) (op : BitVec 16) (r : Req) (st : Byte) (data : List Byte)
    (delay : Nat) : (finishHere op r st data delay s).latched src := Calm.latched (calm.keeps (finishHere_stays ..)) h

theorem queueExpiry_early {p : Port} {tag : BitVec 16} {sl : Slot} {s : State} (held : (s.port p).held tag = some sl)
    (early : s.sys.now < sl.takenAt + 10000 * sl.req.deadline.toNat) : queueExpiry p tag s = s := by
  have notYet : ¬sl.takenAt + msTicks sl.req.deadline.toNat ≤ s.sys.now := by simpa [msTicks] using early
  simp [queueExpiry, held, notYet]

theorem queueExpiry_late {p : Port} {tag : BitVec 16} {sl : Slot} {s : State} (held : (s.port p).held tag = some sl)
    (power : s.sys.vddOk = true) (queued : sl.st = .queued) (dated : sl.req.deadline ≠ 0)
    (late : sl.takenAt + 10000 * sl.req.deadline.toNat ≤ s.sys.now) :
    queueExpiry p tag s = finishHere sl.opcode sl.req stE_TIMEOUT [] 0 s := by
  have limited : sl.req.deadline ≠ 0#16 := dated
  simp [queueExpiry, held, power, queued, limited, msTicks, late]

/-! ### Completions (R305) -/

theorem admitWaiting_slots (l : List (BitVec 16)) (q : PortSt) : (admitWaiting l q).slots = q.slots := by
  induction l generalizing q with
  | nil => rfl
  | cons t l ih =>
    rw [admitWaiting]
    split
    · exact ih _
    · split
      · exact ih _
      · rfl

/-- An operation's slot with its completion (R304, R305). -/
def Slot.completedBy (x : Completion) (ms now : Nat) (y : Slot) : Slot :=
  { y with
    st := .completed
    status := x.status
    record := Machine.record x.req.port x.opcode x.status x.req.seq x.req.tag x.req.obj 0 0 x.tdone ms 0 x.payload
    deferAt := none
    defTicks := y.defTicks + (match y.deferAt with | some t => now - t | none => 0) }

/-- Every slot that the operation's tag names completes, and no slot leaves. -/
theorem deliverSlot_slots (x : Completion) (sl : Slot) (s : State) :
    ((deliverSlot x sl s).port x.req.port).slots = (s.port x.req.port).slots.map fun y =>
      if slotIs x.req y then y.completedBy x (sl.defMs s.sys.now) s.sys.now else y := by
  unfold deliverSlot
  dsimp only
  rw [State.setPort_port_self, admitWaiting_slots, setSlot, State.setPort_port_self]
  rfl

theorem slotIs_tagged {r : Req} (h : r.tag ≠ 0) (y : Slot) : slotIs r y = (y.req.tag == r.tag) := by
  simp [slotIs, show r.tag ≠ 0#16 from h]

theorem deliverSlot_completes {x : Completion} {sl z : Slot} {s : State} (tagged : x.req.tag ≠ 0)
    (hz : z ∈ ((deliverSlot x sl s).port x.req.port).slots) (tag : z.req.tag = x.req.tag) : z.st = .completed ∧ z.status = x.status := by
  rw [deliverSlot_slots] at hz
  obtain ⟨y, -, rfl⟩ := List.mem_map.mp hz
  by_cases own : slotIs x.req y = true
  · rw [if_pos own]
    exact ⟨rfl, rfl⟩
  · rw [if_neg own] at tag
    exact absurd (by simp [slotIs_tagged tagged, tag]) own

theorem deliver_found {x : Completion} {sl : Slot} {s : State} (host : x.chain = false)
    (found : (s.port x.req.port).slots.find? (fun y => slotIs x.req y && y.opcode == x.opcode && y.st != .completed) = some sl) :
    deliver x s = deliverSlot x sl s := by simp [deliver, host, found]

/-- A completion that alone is due, of an operation whose slot executes, is delivered to that slot. -/
theorem completeOne_alone {x : Completion} {sl : Slot} {s : State} (power : s.sys.vddOk = true) (only : s.completions = [x])
    (host : x.chain = false) (due : x.tdone ≤ s.sys.now) (core : s.coreDown (portCore x.req.port) = false)
    (serves : s.coreServes x.opcode = true) (slot : sl ∈ (s.port x.req.port).slots) (own : slotIs x.req sl = true)
    (op : sl.opcode = x.opcode) (executing : sl.st = .executing) :
    ∃ y, completeOne s = deliverSlot x y { s with completions := [] } := by
  have first : s.dueCompletion = some x := by simp [State.dueCompletion, only, due, core, serves]
  have executes : (slotIs x.req sl && sl.opcode == x.opcode && sl.st != .completed) = true := by simp [own, op, executing]
  obtain ⟨y, found⟩ := Option.isSome_iff_exists.mp ((List.find?_isSome
    (p := fun y => slotIs x.req y && y.opcode == x.opcode && y.st != .completed)).mpr ⟨sl, slot, executes⟩)
  refine ⟨y, ?_⟩
  simp only [completeOne, power, first, only, List.erase_cons_head]
  exact deliver_found host found

/-! ### The ceiling (R220) -/

theorem recomputeCeiling_idle {s : State} (h : s.sys.now / 10000000 = s.badger.ceilAt / 10000000) : recomputeCeiling s = s := by
  simp [recomputeCeiling, h]

/-- The Badger with a ceiling computed at a time (R220). -/
def Badger.capped (now n : Nat) (b : Badger) : Badger := { b with ceilAt := now, ceiling := n }

/-- Once in a second the ceiling becomes the one of R220; more than 50 mW beside the old one raises EV204. -/
theorem recomputeCeiling_due {s : State} (serves : s.badgerUp = true) (due : s.sys.now / 10000000 ≠ s.badger.ceilAt / 10000000) :
    ∃ data, recomputeCeiling s =
      if s.badger.ceiling + 50 < s.ceilingNow ∨ s.ceilingNow + 50 < s.badger.ceiling then
        raise 204 data (s.setBadger (Badger.capped s.sys.now s.ceilingNow))
      else s.setBadger (Badger.capped s.sys.now s.ceilingNow) := by
  have step : 50 < (s.ceilingNow - s.badger.ceiling) + (s.badger.ceiling - s.ceilingNow) ↔
      s.badger.ceiling + 50 < s.ceilingNow ∨ s.ceilingNow + 50 < s.badger.ceiling := by omega
  rw [recomputeCeiling, if_neg (by simp [serves, due])]
  exact ⟨_, if_congr step rfl rfl⟩

theorem recomputeCeiling_spec {s : State} (serves : s.badgerUp = true) (due : s.sys.now / 10000000 ≠ s.badger.ceilAt / 10000000) :
    let t := recomputeCeiling s
    t.badger.ceiling = s.ceilingNow ∧ t.badger.ceilAt = s.sys.now ∧
      (s.badger.ceiling + 50 < s.ceilingNow ∨ s.ceilingNow + 50 < s.badger.ceiling → t.latched 204) ∧ t.chans = s.chans ∧
      t.holms = s.holms ∧ t.sys = s.sys := by
  intro t
  obtain ⟨data, eq⟩ := recomputeCeiling_due serves due
  have records : RecordsOnly (s.setBadger (Badger.capped s.sys.now s.ceilingNow)) t := by
    rw [show t = _ from eq]
    split
    · exact raise_records ..
    · exact .refl _
  refine ⟨congrArg Badger.ceiling records.badger, congrArg Badger.ceilAt records.badger, fun far => ?_, records.chans, records.holms,
    records.sys⟩
  rw [show t = _ from eq, if_pos far]
  exact raise_latched 204 _ _ (by decide)

/-! ### Ledgers above their budgets (R242) -/

/-- The channel byte of a ledger code (R472). -/
def ledgerByte (code : BitVec 8) (c : Ch) : Byte := if code = 6 ∨ code = 7 then BitVec.ofNat 8 c.val else 0xFF

theorem ledgerByte_fold (code : BitVec 8) (c : Ch) :
    (if code = 6 ∨ code = 7 then BitVec.ofNat 8 c.val else 0xFF) = ledgerByte code c := rfl

/-- Every ledger code has its measured value and its budget (R242, R472). -/
theorem measuredLedgers_has {s : State} {code : BitVec 8} {c : Ch}
    (h : 1 ≤ code.toNat ∧ code.toNat ≤ 5 ∨ code = 8 ∨ (code = 6 ∨ code = 7) ∧ (s.ch c).mode.isSwitch = true) :
    ∃ e, (measuredLedgers s).find? (fun e => e.1 == code && e.2.1 == ledgerByte code c) = some e := by
  refine Option.isSome_iff_exists.mp (List.find?_isSome.mpr ?_)
  unfold measuredLedgers
  simp only [List.mem_append, List.mem_map, List.mem_cons, List.not_mem_nil, or_false]
  obtain ⟨low, high⟩ | rfl | ⟨switches, mode⟩ := h
  · obtain rfl | rfl | rfl | rfl | rfl : code = 1 ∨ code = 2 ∨ code = 3 ∨ code = 4 ∨ code = 5 := by bv_omega
    · exact ⟨_, .inl (.inl (.inl (.inl rfl))), rfl⟩
    · exact ⟨_, .inl (.inl (.inl (.inr (.inl rfl)))), rfl⟩
    · exact ⟨_, .inl (.inl (.inl (.inr (.inr (.inl rfl))))), rfl⟩
    · exact ⟨_, .inl (.inl (.inl (.inr (.inr (.inr (.inl rfl)))))), rfl⟩
    · exact ⟨_, .inl (.inl (.inl (.inr (.inr (.inr (.inr rfl)))))), rfl⟩
  · exact ⟨_, .inr rfl, rfl⟩
  · have mem : c ∈ allCh.filter fun d => (s.ch d).mode.isSwitch := by simp [allCh, mode]
    have byte : BitVec.ofNat 8 c.val = ledgerByte code c := (if_pos switches).symm
    rw [← byte]
    obtain rfl | rfl := switches
    · exact ⟨_, .inl (.inl (.inr ⟨c, mem, rfl⟩)), by simp⟩
    · exact ⟨_, .inl (.inr ⟨c, mem, rfl⟩), by simp⟩

/-- A ledger noted as reported (R242). -/
def Badger.told (code : BitVec 8) (k : Byte) (b : Badger) : Badger :=
  { b with excess := b.excess.map fun x => if x.1 == code && x.2.1 == k then (code, k, none) else x }

theorem told_find {code : BitVec 8} {k : Byte} {t0 : Nat} {b : Badger}
    (h : b.excess.find? (fun x => x.1 == code && x.2.1 == k) = some (code, k, some t0)) :
    (b.told code k).excess.find? (fun x => x.1 == code && x.2.1 == k) = some (code, k, none) := by
  have same : ((fun x : Byte × Byte × Option Nat => x.1 == code && x.2.1 == k) ∘ fun x =>
      if x.1 == code && x.2.1 == k then (code, k, none) else x) = fun x => x.1 == code && x.2.1 == k := by
    funext x
    dsimp only [Function.comp]
    split
    · next own => simp [own]
    · rfl
  rw [Badger.told, List.find?_map, same, h]
  simp

theorem ledgerExcess_early {code : BitVec 8} {c : Ch} {t0 : Nat} {s : State}
    (noted : s.badger.excess.find? (fun x => x.1 == code && x.2.1 == ledgerByte code c) = some (code, ledgerByte code c, some t0))
    (early : s.sys.now < t0 + 10000000) : ledgerExcess code c s = s := by
  have notYet : ¬t0 + 10000000 ≤ s.sys.now := by omega
  unfold ledgerExcess
  simp only [ledgerByte_fold, noted]
  cases (measuredLedgers s).find? (fun e => e.1 == code && e.2.1 == ledgerByte code c) with
  | none => rfl
  | some e => exact if_neg (by simp [notYet])

/-- A ledger that has been above its budget for 1 s raises EV205 (R242). -/
theorem ledgerExcess_late {code : BitVec 8} {c : Ch} {t0 : Nat} {s : State} (serves : s.badgerUp = true)
    (exists_ : 1 ≤ code.toNat ∧ code.toNat ≤ 5 ∨ code = 8 ∨ (code = 6 ∨ code = 7) ∧ (s.ch c).mode.isSwitch = true)
    (noted : s.badger.excess.find? (fun x => x.1 == code && x.2.1 == ledgerByte code c) = some (code, ledgerByte code c, some t0))
    (late : t0 + 10000000 ≤ s.sys.now) :
    ∃ data, ledgerExcess code c s = raise 205 data (s.setBadger (Badger.told code (ledgerByte code c))) := by
  obtain ⟨e, measured⟩ := measuredLedgers_has exists_
  unfold ledgerExcess
  simp only [ledgerByte_fold, noted, measured, serves, late]
  exact ⟨_, rfl⟩

/-! ### The statement -/

/-- Settles O40: each event of the Badger is idle before its time, and at its time one evaluation, one end of an operation, one delivery, or
one update of the Badger with its event. -/
theorem badgerTicksDeadlinesCompletionsAndCeiling : Obligations.BadgerTicksDeadlinesCompletionsAndCeiling := by
  intro s power
  have up (core : s.coreDown 6 = false) : s.badgerUp = true := by simp [State.badgerUp, power, core]
  refine ⟨fun idle => congrArg Host.Outcome.next (badgerTick_idle idle), fun core queue due => ⟨_, rfl, badgerTick_spec (up core) queue due⟩,
    fun p tag h r d head req deadline => ⟨fun late deferred => ?_,
      fun early => congrArg Host.Outcome.next (deadlineExpiry_early head deadline early)⟩,
    fun p tag sl held queued => ⟨fun dated late => ?_, fun early => congrArg Host.Outcome.next (queueExpiry_early held early)⟩,
    fun x sl only host tagged due core serves slot own op executing => ?_,
    fun core due => ⟨_, rfl, recomputeCeiling_spec (up core) due⟩, fun idle => congrArg Host.Outcome.next (recomputeCeiling_idle idle),
    fun code c t0 core ledger => ?_⟩
  · obtain ⟨data, eq⟩ := deadlineExpiry_late head req deadline power late deferred
    have records := raise_records 197 data (dropHead h s)
    refine ⟨_, congrArg Host.Outcome.next eq, ?_, congrArg Badger.heads records.badger,
      finishHere_latched (raise_latched 197 data _ (by decide)) _ _ _ _ _, records.chans, records.holms⟩
    rw [show s.sys.now = (raise 197 data (dropHead h s)).sys.now from (congrArg Sys.now records.sys).symm]
    exact List.mem_append_right _ (List.mem_singleton_self _)
  · exact ⟨_, congrArg Host.Outcome.next (queueExpiry_late held power queued dated late), rfl, rfl, rfl, rfl⟩
  · have named : slotIs x.req sl = true := by simp [slotIs_tagged tagged, own]
    obtain ⟨y, eq⟩ := completeOne_alone power only host due core serves slot named op executing
    have slots := deliverSlot_slots x y { s with completions := [] }
    refine ⟨_, congrArg Host.Outcome.next eq, rfl, fun z hz tag => ?_, ?_, rfl, rfl⟩
    · exact deliverSlot_completes tagged hz tag
    · rw [slots, List.length_map]
      rfl
  · intro k noted
    refine ⟨fun late => ?_, fun early => congrArg Host.Outcome.next (ledgerExcess_early noted early)⟩
    obtain ⟨data, eq⟩ := ledgerExcess_late (up core) ledger noted late
    have records := raise_records 205 data (s.setBadger (Badger.told code (ledgerByte code c)))
    refine ⟨_, congrArg Host.Outcome.next eq, raise_latched 205 data _ (by decide), ?_, records.chans, records.holms⟩
    rw [records.badger]
    exact told_find noted

end Sys2Proof.Machine
end

section
/-! PROOFS. Shedding (R234, R235, R251): what one step makes of the channels that it turns off, and what every step keeps. -/

namespace Sys2Proof.Machine

/-! ### What shedding keeps -/

/-- No held action stands on a channel (R38). -/
def State.unheld (s : State) : Prop := ∀ c : Ch, (s.ch c).acts = []

/-- A channel that a step of shedding has turned off: de-energised at level 5, with a pre-sag state (R235). -/
structure Shed (ch : Chan) : Prop where
  l5 : ch.l5 = deenergised ch.mode
  presag : ch.presag.isSome = true

/-- What shedding keeps of any channel; a channel that can be shed, and so is never parked (R159, R234), stays shed. -/
structure ShedKept (x y : Chan) : Prop where
  mode : y.mode = x.mode
  paired : y.paired = x.paired
  acts : y.acts = x.acts
  presag : x.presag.isSome = true → y.presag.isSome = true
  l5 : x.mode ≠ .aot → x.l5 = deenergised x.mode → y.l5 = deenergised x.mode

theorem ShedKept.refl (x : Chan) : ShedKept x x := ⟨rfl, rfl, rfl, id, fun _ => id⟩

theorem ShedKept.trans {x y z : Chan} (a : ShedKept x y) (b : ShedKept y z) : ShedKept x z :=
  ⟨b.mode.trans a.mode, b.paired.trans a.paired, b.acts.trans a.acts, fun h => b.presag (a.presag h),
   fun h k => by
    have before := a.l5 h k
    rw [← a.mode] at before h ⊢
    exact b.l5 h before⟩

theorem ShedKept.shed {x y : Chan} (h : ShedKept x y) (mode : x.mode ≠ .aot) (k : Shed x) : Shed y :=
  ⟨by rw [h.mode]; exact h.l5 mode k.l5, h.presag k.presag⟩

/-- What shedding in a bank keeps. -/
structure ShedKeeps (b : Bank) (s t : State) : Prop where
  chan : ∀ d : Ch, ShedKept (s.ch d) (t.ch d)
  others : ∀ d : Ch, bankOf d ≠ b → t.ch d = s.ch d
  shed : (t.holm b).shed = (s.holm b).shed
  now : t.sys.now = s.sys.now
  quiet : calm.rel s t

theorem ShedKeeps.refl (b : Bank) (s : State) : ShedKeeps b s s :=
  ⟨fun _ => .refl _, fun _ _ => rfl, rfl, rfl, calm.refl s⟩

theorem ShedKeeps.trans {b : Bank} {s t u : State} (h : ShedKeeps b s t) (k : ShedKeeps b t u) : ShedKeeps b s u :=
  ⟨fun d => (h.chan d).trans (k.chan d), fun d hd => (k.others d hd).trans (h.others d hd), k.shed.trans h.shed, k.now.trans h.now,
   calm.trans h.quiet k.quiet⟩

theorem ShedKeeps.unheld {b : Bank} {s t : State} (h : ShedKeeps b s t) (idle : s.unheld) : t.unheld :=
  fun c => (h.chan c).acts.trans (idle c)

theorem ShedKeeps.lead {b : Bank} {s t : State} (h : ShedKeeps b s t) (c : Ch) : t.lead c = s.lead c := by
  simp only [State.lead, (h.chan c).paired]

/-- A step that leaves the channels alone. -/
theorem ShedKeeps.of_chans {b : Bank} {s t : State} (chans : t.chans = s.chans) (shed : (t.holm b).shed = (s.holm b).shed)
    (now : t.sys.now = s.sys.now) (quiet : calm.rel s t) : ShedKeeps b s t := by
  have same (d : Ch) : t.ch d = s.ch d := by simp only [State.ch, chans]
  exact ⟨fun d => by rw [same]; exact .refl _, fun d _ => same d, shed, now, quiet⟩

/-- A step that writes one channel of the bank. -/
theorem ShedKeeps.setCh {b : Bank} {c : Ch} (hc : bankOf c = b) {f : Chan → Chan} (kept : ∀ ch, ShedKept ch (f ch)) (s : State) :
    ShedKeeps b s (s.setCh c f) := by
  refine ⟨fun d => ?_, fun d hd => State.setCh_ch_ne s c f d fun e => hd (e ▸ hc), rfl, rfl, calm.keeps (State.setCh_stays ..)⟩
  by_cases e : d = c
  · subst e
    rw [State.setCh_ch_self]
    exact kept _
  · rw [State.setCh_ch_ne s c f d e]
    exact .refl _

theorem ShedKeeps.overAll {b : Bank} {l : List Ch} {f : Ch → State → State}
    (step : ∀ c ∈ l, ∀ u : State, u.unheld → ShedKeeps b u (f c u)) {s : State} (idle : s.unheld) : ShedKeeps b s (overAll l f s) := by
  unfold Machine.overAll
  induction l generalizing s with
  | nil => exact .refl b s
  | cons c l ih =>
    have first := step c List.mem_cons_self s idle
    exact first.trans (ih (fun d hd => step d (List.mem_cons_of_mem c hd)) (first.unheld idle))

/-- A loop sheds a channel that one of its steps sheds. -/
theorem overAll_sheds {b : Bank} {l : List Ch} {f : Ch → State → State} {c : Ch} (mem : c ∈ l)
    (step : ∀ d ∈ l, ∀ u : State, u.unheld → ShedKeeps b u (f d u)) {s : State} (idle : s.unheld) (mode : (s.ch c).mode ≠ .aot)
    (sheds : ∀ u, ShedKeeps b s u → Shed ((f c u).ch c)) : Shed ((overAll l f s).ch c) := by
  induction l generalizing s with
  | nil => exact absurd mem List.not_mem_nil
  | cons a l ih =>
    have first := step a List.mem_cons_self s idle
    have later := fun d hd => step d (List.mem_cons_of_mem a hd)
    have still : ((f a s).ch c).mode ≠ .aot := by rw [(first.chan c).mode]; exact mode
    obtain rfl | mem := List.mem_cons.mp mem
    · exact ((ShedKeeps.overAll later (first.unheld idle)).chan c).shed still (sheds s (.refl b s))
    · exact ih mem later (first.unheld idle) still fun u k => sheds u (first.trans k)

/-! ### One evaluation -/

/-- Where no held action stands, level 4 governs no channel (R35). -/
theorem govern_ne_four_of_unheld {s : State} (idle : s.unheld) (c : Ch) : (s.govern c).1 ≠ 4 :=
  govern_ne_four (by rw [actFor_eq, Chan.action, idle]; rfl)

theorem OutputsOnly.presag {s t : State} (h : OutputsOnly s t) (c : Ch) : (t.ch c).presag = (s.ch c).presag :=
  (congrArg Chan.presag (h.chan c) :)

theorem OutputsOnly.shed {s t : State} (h : OutputsOnly s t) (b : Bank) : (t.holm b).shed = (s.holm b).shed :=
  (congrArg Holm.shed (h.holm b) :)

theorem evalOne_shedKeeps {b : Bank} {c : Ch} (hc : bankOf c = b) {s : State} (idle : s.unheld) : ShedKeeps b s (evalOne c s) := by
  have out := evalOne_outputs c s
  have command := evalOne_command (govern_ne_four_of_unheld idle c)
  refine ⟨fun d => ⟨out.mode d, out.paired d, (command d).acts, fun k => by rw [out.presag, k], fun _ k => by rw [(command d).l5, k]⟩,
    fun d hd => evalOne_ch_other c d s (hc ▸ hd), out.shed b, by rw [out.sys], calm.keeps (evalOne_stays ..)⟩

/-! ### One channel is shed -/

/-- A channel whose level 5 takes the de-energised state (R37). -/
def Chan.dropped (ch : Chan) : Chan :=
  { ch with l5 := ch.putL5 (deenergised ch.mode), loop := { ch.loop with alarm := false, fallback := false } }

theorem putL5_of_not_aot {ch : Chan} (h : ch.mode ≠ .aot) (d : Demand) : ch.putL5 d = d := by
  have apart : (ch.mode == .aot) = false := by simpa using h
  exact putL5_unparked (by simp [Chan.parked, apart]) d

theorem dropped_kept (ch : Chan) : ShedKept ch ch.dropped := ⟨rfl, rfl, rfl, id, fun h _ => putL5_of_not_aot h _⟩

/-- A channel whose pre-sag state is kept as shedding turns it off (R235, R251). -/
def Chan.shedding (ch : Chan) : Chan := { ch.sagged with shedOff := true }

theorem shedding_l5 (ch : Chan) : ch.shedding.l5 = ch.l5 ∧ ch.shedding.mode = ch.mode ∧ ch.shedding.paired = ch.paired ∧
    ch.shedding.acts = ch.acts := by
  unfold Chan.shedding Chan.sagged
  split <;> exact ⟨rfl, rfl, rfl, rfl⟩

theorem shedding_presag (ch : Chan) : ch.shedding.presag.isSome = true := by
  unfold Chan.shedding Chan.sagged
  split
  · assumption
  · rfl

theorem shedding_kept (ch : Chan) : ShedKept ch ch.shedding := by
  obtain ⟨l5, mode, paired, acts⟩ := shedding_l5 ch
  exact ⟨mode, paired, acts, fun _ => shedding_presag ch, fun _ k => l5.trans k⟩

theorem dropL5_shedKeeps {b : Bank} {c : Ch} (hc : bankOf c = b) {s : State} (idle : s.unheld) : ShedKeeps b s (dropL5 c s) :=
  .overAll (f := fun m s => s.setCh m Chan.dropped) (fun _ hm u _ => .setCh ((bankOf_member hm).trans hc) dropped_kept u) idle

theorem evalOut_shedKeeps {b : Bank} {c : Ch} (hc : bankOf c = b) {s : State} (idle : s.unheld) : ShedKeeps b s (evalOut c s) :=
  .overAll (fun _ hm _ still => evalOne_shedKeeps ((bankOf_member hm).trans hc) still) idle

theorem shedOne_keeps {b : Bank} {c : Ch} (hc : bankOf c = b) {s : State} (idle : s.unheld) : ShedKeeps b s (shedOne c s) := by
  have first : ShedKeeps b s (s.setCh c Chan.shedding) := .setCh hc shedding_kept s
  have second := first.trans (dropL5_shedKeeps hc (first.unheld idle))
  exact second.trans (evalOut_shedKeeps hc (second.unheld idle))

theorem mem_members_of_lead {c : Ch} {s : State} (leads : s.lead c = c) : c ∈ s.members c := by
  unfold State.members
  split
  · next paired =>
    rw [State.lead, if_pos paired] at leads
    rw [leads]
    exact List.mem_cons_self
  · exact List.mem_singleton_self c

/-- A leader that is shed keeps its pre-sag state and is de-energised at level 5 (R57, R235). -/
theorem shedOne_sheds {c : Ch} {s : State} (idle : s.unheld) (leads : s.lead c = c) (mode : (s.ch c).mode ≠ .aot) :
    Shed ((shedOne c s).ch c) := by
  have first : ShedKeeps (bankOf c) s (s.setCh c Chan.shedding) := .setCh rfl shedding_kept s
  have kept : ((s.setCh c Chan.shedding).ch c).presag.isSome = true := by
    rw [State.setCh_ch_self]
    exact shedding_presag _
  have second := dropL5_shedKeeps (c := c) rfl (first.unheld idle)
  have still : ((s.setCh c Chan.shedding).ch c).mode ≠ .aot := by rw [(first.chan c).mode]; exact mode
  have dropped : Shed ((dropL5 c (s.setCh c Chan.shedding)).ch c) := by
    refine overAll_sheds (b := bankOf c) (f := fun m s => s.setCh m Chan.dropped) (mem_members_of_lead ((first.lead c).trans leads))
      (fun _ hm u _ => .setCh (bankOf_member hm) dropped_kept u) (first.unheld idle) still fun u k => ?_
    have same : (u.ch c).mode ≠ .aot := by rw [(k.chan c).mode]; exact still
    rw [State.setCh_ch_self]
    exact ⟨putL5_of_not_aot same _, (k.chan c).presag kept⟩
  exact ((evalOut_shedKeeps rfl (second.unheld (first.unheld idle))).chan c).shed (by rw [(second.chan c).mode]; exact still) dropped

/-! ### Steps (R235) -/

theorem shedList_mem {s : State} {b : Bank} {c : Ch} (h : c ∈ shedList s b) :
    bankOf c = b ∧ s.lead c = c ∧ (s.ch c).mode ≠ .aot := by
  simp only [shedList, List.mem_reverse, List.mem_filter, mem_bankChs, State.sheddable, Bool.and_eq_true, Bool.or_eq_true,
    beq_iff_eq] at h
  obtain ⟨⟨bank, ⟨⟨kind, -⟩, -⟩, leads⟩, -⟩ := h
  refine ⟨bank, leads.symm, fun aot => ?_⟩
  rw [aot] at kind
  simp [Mode.isSwitch] at kind

theorem shedSteps_none {b : Bank} {vf : Int} {n : Nat} {s : State} (h : shedList s b = []) :
    shedSteps b vf (n + 1) s = s.setHolm b fun h => { h with shedAt := s.sys.now } := by
  unfold shedSteps
  simp only [h]

/-- The record of a step: the class and the channels that it shed, and VF. -/
def shedRecord (cls : Nat) (l : List Ch) (vf : Int) : List Byte :=
  [BitVec.ofNat 8 cls, 0] ++ le16 (image16 l.contains) ++ le16 (vf10 vf)

/-- A step that has shed channels of a class notes the class and its time. -/
def shedNoted (b : Bank) (cls : Nat) (l : List Ch) (s : State) : State :=
  (overAll l shedOne s).setHolm b fun h => { h with shedLow := cls, shedAt := s.sys.now }

/-- A step sheds channels of a class, and tells it. -/
def shedClass (b : Bank) (vf : Int) (cls : Nat) (l : List Ch) (s : State) : State :=
  denEvent 2 (BitVec.ofNat 8 (198 + b.val)) (BitVec.ofNat 16 (0x0100 + b.val)) (shedRecord cls l vf)
    (raise (198 + b.val) (shedRecord cls l vf) (shedNoted b cls l s))

theorem shedSteps_some {b : Bank} {vf : Int} {n : Nat} {s : State} {c : Ch} {rest : List Ch} (h : shedList s b = c :: rest) :
    shedSteps b vf (n + 1) s =
      let t := shedClass b vf (s.ch c).shcls.toNat (c :: rest) s
      if (c :: rest).any (fun c => (t.ch c).out != (s.ch c).out) then t else shedSteps b vf n t := by
  rw [shedSteps, h]
  rfl

/-- A step sheds each of its channels, and tells it. -/
theorem shedClass_sheds {b : Bank} {vf : Int} {cls : Nat} {l : List Ch} {s : State} (idle : s.unheld)
    (able : ∀ a ∈ l, bankOf a = b ∧ s.lead a = a ∧ (s.ch a).mode ≠ .aot) :
    let t := shedClass b vf cls l s
    ShedKeeps b s t ∧ (∀ a ∈ l, Shed (t.ch a)) ∧ (t.holm b).shedAt = s.sys.now ∧ t.latched (198 + b.val) := by
  intro t
  have one : ∀ a ∈ l, ∀ u : State, u.unheld → ShedKeeps b u (shedOne a u) := fun a ha _ still => shedOne_keeps (able a ha).1 still
  have swept : ShedKeeps b s (overAll l shedOne s) := .overAll one idle
  have noted : ShedKeeps b s (shedNoted b cls l s) :=
    swept.trans (.of_chans rfl (by rw [shedNoted, State.setHolm_holm_self]) rfl (calm.keeps (by simp [shedNoted])))
  have records : RecordsOnly (shedNoted b cls l s) t := (raise_records ..).trans (denEvent_records ..)
  have holm : t.holm b = (shedNoted b cls l s).holm b := by simp only [State.holm, records.holms]
  have told : ShedKeeps b (shedNoted b cls l s) t :=
    .of_chans records.chans (by rw [holm]) (by rw [records.sys]) (calm.keeps (by simp [t, shedClass]))
  refine ⟨noted.trans told, fun a ha => ?_, ?_, ?_⟩
  · obtain ⟨-, leads, mode⟩ := able a ha
    have shed : Shed ((overAll l shedOne s).ch a) := overAll_sheds ha one idle mode fun u k =>
      shedOne_sheds (k.unheld idle) ((k.lead a).trans leads) (by rw [(k.chan a).mode]; exact mode)
    rw [show t.ch a = (overAll l shedOne s).ch a from congrArg (·[a]) records.chans]
    exact shed
  · rw [holm, shedNoted, State.setHolm_holm_self]
  · exact Calm.latched (calm.keeps (denEvent_stays ..)) (raise_latched (198 + b.val) _ _ (by omega))

/-- A step sheds the channels of the highest class present, tells it, and goes on only while no output changes. -/
theorem shedSteps_step {b : Bank} {vf : Int} {n : Nat} {s : State} (idle : s.unheld) (present : shedList s b ≠ []) :
    ∃ t, ShedKeeps b s t ∧ (∀ c ∈ shedList s b, Shed (t.ch c)) ∧ (t.holm b).shedAt = s.sys.now ∧ t.latched (198 + b.val) ∧
      (shedSteps b vf (n + 1) s = t ∨ shedSteps b vf (n + 1) s = shedSteps b vf n t) := by
  obtain ⟨c, rest, list⟩ := List.exists_cons_of_ne_nil present
  obtain ⟨keeps, shed, time, told⟩ := shedClass_sheds (vf := vf) (cls := (s.ch c).shcls.toNat) idle
    fun a (ha : a ∈ shedList s b) => shedList_mem ha
  refine ⟨_, keeps, shed, time, told, ?_⟩
  rw [shedSteps_some list, list]
  dsimp only
  split
  · exact .inl rfl
  · exact .inr rfl

/-- Steps keep what one step keeps. -/
theorem shedSteps_keeps {b : Bank} {vf : Int} (n : Nat) {s : State} (idle : s.unheld) : ShedKeeps b s (shedSteps b vf n s) ∧
    ((s.holm b).shedAt = s.sys.now → ((shedSteps b vf n s).holm b).shedAt = s.sys.now) := by
  induction n generalizing s with
  | zero => exact ⟨.refl b s, id⟩
  | succ n ih =>
    by_cases empty : shedList s b = []
    · rw [shedSteps_none empty]
      exact ⟨.of_chans rfl (by rw [State.setHolm_holm_self]) rfl (calm.keeps (by simp)), fun _ => by rw [State.setHolm_holm_self]⟩
    · obtain ⟨t, keeps, -, time, -, ends | goes⟩ := shedSteps_step (vf := vf) (n := n) idle empty
      · rw [ends]
        exact ⟨keeps, fun _ => time⟩
      · obtain ⟨later, still⟩ := ih (keeps.unheld idle)
        rw [goes]
        exact ⟨keeps.trans later, fun _ => (still (time.trans keeps.now.symm)).trans keeps.now⟩

/-- The steps that begin at a time shed the highest class present, and tell it (R235). -/
theorem shedSteps_sheds {b : Bank} {vf : Int} (n : Nat) {s : State} (idle : s.unheld) :
    let t := shedSteps b vf (n + 1) s
    (t.holm b).shedAt = s.sys.now ∧ (∀ c ∈ shedList s b, Shed (t.ch c)) ∧ (shedList s b ≠ [] → t.latched (198 + b.val)) := by
  intro t
  by_cases empty : shedList s b = []
  · refine ⟨?_, fun c hc => absurd (empty ▸ hc) List.not_mem_nil, fun present => absurd empty present⟩
    rw [show t = _ from shedSteps_none empty, State.setHolm_holm_self]
  · obtain ⟨u, keeps, shed, time, told, ends | goes⟩ := shedSteps_step (vf := vf) (n := n) idle empty
    · rw [show t = u from ends]
      exact ⟨time, shed, fun _ => told⟩
    · obtain ⟨later, still⟩ := shedSteps_keeps (vf := vf) n (keeps.unheld idle)
      rw [show t = _ from goes]
      refine ⟨(still (time.trans keeps.now.symm)).trans keeps.now, fun c hc => ?_, fun _ => Calm.latched later.quiet told⟩
      exact (later.chan c).shed (by rw [(keeps.chan c).mode]; exact (shedList_mem hc).2.2) (shed c hc)

/-! ### The shed state begins, and steps (R235) -/

/-- The shed state of a bank stands, and no step of it has shed yet. -/
def shedBegun (b : Bank) (s : State) : State :=
  s.setHolm b fun h => { h with shed := true, shedLow := 8, shedAt := s.sys.now }

theorem shedBegun_canShed (b : Bank) (s : State) : (shedBegun b s).canShed b = s.canShed b := by
  simp [shedBegun, State.canShed, State.whole, State.holmLive, State.badgerUp, State.coreDown]

theorem shedBegun_shed (b : Bank) (s : State) : ((shedBegun b s).holm b).shed = true := by
  rw [shedBegun, State.setHolm_holm_self]

theorem shedNow_of_room {b : Bank} {vf : Int} {s : State} (room : s.sys.internal.length < 32) : shedNow b vf s = shedSteps b vf 8 s :=
  if_neg (by omega)

theorem shedState_begins {b : Bank} {x : SupplyRead} {s : State} (up : (s.holm b).up = true) (fresh : (s.holm b).shed = false)
    (low : x.vf ≤ 18000) (held : 10000 ≤ x.held) :
    shedState b x s = if s.canShed b then shedNow b x.vf (shedBegun b s) else shedBegun b s := by
  rw [← shedBegun_canShed b s]
  have long : msTicks 1 ≤ x.held := held
  exact if_pos (by simp [up, fresh, low, long])

theorem shedState_idle {b : Bank} {x : SupplyRead} {s : State} (h : 18000 < x.vf ∨ x.held < 10000) : shedState b x s = s := by
  have ms : msTicks 1 = 10000 := rfl
  refine if_neg ?_
  simp only [Bool.and_eq_true, decide_eq_true_eq]
  omega

theorem shedStep_steps {b : Bank} {vf : Int} {s : State} (can : s.canShed b = true) (shed : (s.holm b).shed = true) (low : vf ≤ 18000)
    (due : (s.holm b).shedLow = 8 ∨ (s.holm b).shedAt + 200000 ≤ s.sys.now) : shedStep b vf s = shedNow b vf s := by
  have late : (s.holm b).shedLow = 8 ∨ (s.holm b).shedAt + msTicks 20 ≤ s.sys.now := due
  exact if_pos (by simpa [can, shed, low] using late)

theorem shedStep_high {b : Bank} {vf : Int} {s : State} (high : 18000 < vf) : shedStep b vf s = s := by
  refine if_neg ?_
  simp only [Bool.and_eq_true, decide_eq_true_eq]
  omega

theorem shedStep_early {b : Bank} {vf : Int} {s : State} (stepped : (s.holm b).shedLow ≠ 8) (early : s.sys.now < (s.holm b).shedAt + 200000) :
    shedStep b vf s = s := by
  have ms : msTicks 20 = 200000 := rfl
  refine if_neg ?_
  simp only [Bool.and_eq_true, Bool.or_eq_true, decide_eq_true_eq]
  omega

/-! ### The shed state ends (R236) -/

/-- What the end of a shed state, with no restore waiting, leaves of a channel. -/
def Chan.steady (ch : Chan) : Demand × Demand × Mode := (ch.l5, ch.out, ch.mode)

theorem dropSags_keep {β : Type} {g : State → β} (h : ∀ c f (s : State), (∀ ch, (f ch).steady = ch.steady) → g (s.setCh c f) = g s)
    (l : List Ch) (s : State) : g (overAll l dropSag s) = g s := by
  refine overAll_keeps g (fun c s => ?_) s
  unfold dropSag
  split
  · exact h _ _ _ fun _ => rfl
  · exact h _ _ _ fun _ => rfl

/-- The end of a shed state that is told once (R236). -/
theorem tellShedEnd_told {b : Bank} {n : Nat} {s : State} {last : Nat × Nat} (ended : (s.holm b).shedOver = some last)
    (can : s.canShed b = true) : let t := tellShedEnd b n s
    (t.holm b).shed = (s.holm b).shed ∧ t.badger = s.badger ∧ t.latched (200 + b.val) := by
  unfold tellShedEnd
  simp only [ended, can, if_true]
  refine ⟨?_, (raise_records ..).badger, raise_latched _ _ _ (by omega)⟩
  rw [State.holm, (raise_records ..).holms, ← State.holm, State.setHolm_holm_self]

/-- Where no channel waits for a restore none is submitted, and the end of the shed state is told. -/
theorem submitRestores_told {b : Bank} {s : State} {last : Nat × Nat} (bare : s.unsagged) (ended : (s.holm b).shedOver = some last)
    (can : s.canShed b = true) : let t := submitRestores b s
    (t.holm b).shed = (s.holm b).shed ∧ t.badger = s.badger ∧ t.latched (200 + b.val) ∧ ∀ c, (t.ch c).steady = (s.ch c).steady := by
  rw [submitRestores_eq bare]
  split
  · obtain ⟨shed, badger, told⟩ := tellShedEnd_told (n := 0) ended can
    exact ⟨shed, badger, told, fun c => by rw [State.ch, tellShedEnd_chans]; rfl⟩
  · have holms : (overAll (bankChs b) dropSag s).holm b = s.holm b := dropSags_keep (g := fun u => u.holm b) (fun _ _ _ _ => rfl) _ s
    have able : (overAll (bankChs b) dropSag s).canShed b = s.canShed b := dropSags_keep (g := fun u => u.canShed b) (fun _ _ _ _ => rfl) _ s
    have badger : (overAll (bankChs b) dropSag s).badger = s.badger := dropSags_keep (g := State.badger) (fun _ _ _ _ => rfl) _ s
    obtain ⟨shed, same, told⟩ := tellShedEnd_told (n := (restoreList s b).length) (holms ▸ ended) (able.trans can)
    refine ⟨shed.trans (by rw [holms]), same.trans badger, told, fun c => ?_⟩
    rw [State.ch, tellShedEnd_chans]
    exact dropSags_keep (g := fun u => (u.ch c).steady) (fun a f s h => setCh_keeps Chan.steady a f s c h) _ s

theorem shedEnd_idle {b : Bank} {x : SupplyRead} {s : State} (h : x.vf < 19200 ∨ x.held < 1000000) : shedEnd b x s = s := by
  have ms : msTicks 100 = 1000000 := rfl
  refine if_neg ?_
  simp only [Bool.and_eq_true, decide_eq_true_eq]
  omega

/-- A bank whose shed state is over, its end not yet told. -/
def shedOver (b : Bank) (vf : Int) (s : State) : State :=
  s.setHolm b fun h => { h with shed := false, shedOver := some (vf10 vf, h.shedLow) }

theorem shedOver_canShed (b : Bank) (vf : Int) (s : State) : (shedOver b vf s).canShed b = s.canShed b := by
  simp [shedOver, State.canShed, State.whole, State.holmLive, State.badgerUp, State.coreDown]

theorem shedEnd_ends {b : Bank} {x : SupplyRead} {s : State} (up : (s.holm b).up = true) (shed : (s.holm b).shed = true)
    (steady : (s.holm b).uv = false) (high : 19200 ≤ x.vf) (held : 1000000 ≤ x.held) :
    shedEnd b x s = evaluate (submitRestores b (shedOver b x.vf s)) := by
  have long : msTicks 100 ≤ x.held := held
  exact if_pos (by simp [up, shed, steady, high, long])

/-- With no pre-sag state kept and no head waiting, the end of a shed state is told, and every channel stands as it stood. -/
theorem shedEnd_spec {b : Bank} {vf : Int} {s : State} (can : s.canShed b = true) (queue : s.badger.heads = []) (bare : s.unsagged) :
    let t := evaluate (submitRestores b (shedOver b vf s))
    (t.holm b).shed = false ∧ t.latched (200 + b.val) ∧ ∀ c, (t.ch c).steady = (s.ch c).steady := by
  intro t
  have ended : ((shedOver b vf s).holm b).shedOver = some (vf10 vf, (s.holm b).shedLow) := by rw [shedOver, State.setHolm_holm_self]
  obtain ⟨shed, badger, told, steady⟩ := submitRestores_told (s := shedOver b vf s) (unsagged_of_chans bare rfl) ended
    ((shedOver_canShed ..).trans can)
  have empty : (submitRestores b (shedOver b vf s)).badger.heads = [] := by rw [badger]; exact queue
  have same : t.unreported = (submitRestores b (shedOver b vf s)).unreported := evaluate_unreported empty
  refine ⟨?_, Calm.latched (calm.keeps (evaluate_stays ..)) told, fun c => ?_⟩
  · have holm : t.holm b = (submitRestores b (shedOver b vf s)).holm b := (congrArg (·.holm b) same :)
    rw [holm, shed, shedOver, State.setHolm_holm_self]
  · have ch : t.ch c = (submitRestores b (shedOver b vf s)).ch c := (congrArg (·.ch c) same :)
    rw [ch, steady]
    rfl

/-! ### A restore (R252) -/

/-- A channel whose restore is done (R252). -/
def Chan.freed (ch : Chan) : Chan := { ch with restore := .none, presag := none }

/-- A channel that drives the alarm that it drove before, or none (R140). -/
def Chan.realarmed (ch : Chan) : Chan :=
  { ch with loop := { ch.loop with alarm := ch.loop.sagAlarm.isSome, fallback := ch.loop.sagAlarm.getD false, sagAlarm := none } }

/-- A channel that takes a state at level 5, with the alarm that it drove (R140). -/
def Chan.returned (d : Demand) (ch : Chan) : Chan := { ch with l5 := ch.putL5 d }.realarmed

/-- A channel whose level 5 takes its pre-sag state (R252). -/
def Chan.restored (d : Demand) (ch : Chan) : Chan := ch.freed.returned (normDemand ch.mode d)

/-- A restore has written level 5 and freed its internal slot; its evaluation follows. -/
def restoring (c : Ch) (d : Demand) (s : State) : State := endInternal (.restore c) (s.setCh c (Chan.restored d))

theorem restoring_ch (c : Ch) (d : Demand) (s : State) : (restoring c d s).ch c = (s.ch c).restored d := State.setCh_ch_self ..

/-- A restore that has freed its internal slot. -/
def freeing (c : Ch) (s : State) : State := endInternal (.restore c) (s.setCh c Chan.freed)

theorem freeing_ch (c : Ch) (s : State) : (freeing c s).ch c = (s.ch c).freed := State.setCh_ch_self ..

theorem restoreNow_eq {c : Ch} {d : Demand} {s : State} (admitted : (s.ch c).restore = .admitted) (kept : (s.ch c).presag = some d) :
    restoreNow c s = denEvent 1 0xFF (chObj c) []
      (evalOut c ((setL5 c (normDemand ((freeing c s).ch c).mode d) (freeing c s)).setCh c Chan.realarmed)) := by
  unfold restoreNow
  rw [admitted, kept]
  rfl

theorem restoreNow_lone {c : Ch} {d : Demand} {s : State} (admitted : (s.ch c).restore = .admitted) (kept : (s.ch c).presag = some d)
    (lone : (s.ch c).paired = false) : restoreNow c s = denEvent 1 0xFF (chObj c) [] (evalOne c (restoring c d s)) := by
  have alone : ((freeing c s).ch c).paired = false := by rw [freeing_ch]; exact lone
  have ready : (setL5 c (normDemand ((freeing c s).ch c).mode d) (freeing c s)).setCh c Chan.realarmed = restoring c d s := by
    have written : (s.setCh c Chan.freed).setCh c (Chan.returned (normDemand (s.ch c).mode d)) = s.setCh c (Chan.restored d) :=
      (setCh_setCh ..).trans (setCh_congr rfl)
    rw [setL5_lone alone, setCh_setCh, freeing_ch]
    exact congrArg (endInternal (.restore c)) written
  have still : ((restoring c d s).ch c).paired = false := by rw [restoring_ch]; exact lone
  rw [restoreNow_eq admitted kept, ready, evalOut_of_unpaired still]

/-- A restore of a lone channel that is not parked and holds nothing returns level 5 and its alarm, and frees its slot (R140, R252). -/
theorem restoreNow_spec {c : Ch} {d : Demand} {s : State} (idle : s.unheld) (admitted : (s.ch c).restore = .admitted)
    (kept : (s.ch c).presag = some d) (lone : (s.ch c).paired = false) (unparked : (s.ch c).parked = false) :
    let t := restoreNow c s
    (t.ch c).restore = .none ∧ (t.ch c).presag = none ∧ (t.ch c).l5 = normDemand (s.ch c).mode d ∧ t.settled c ∧
      (t.ch c).loop.alarm = (s.ch c).loop.sagAlarm.isSome ∧ (t.ch c).loop.fallback = (s.ch c).loop.sagAlarm.getD false ∧
      t.sys.internal = s.sys.internal.erase (.restore c) ∧ ∀ e : Ch, e ≠ c → t.ch e = s.ch e := by
  rw [restoreNow_lone admitted kept lone]
  intro t
  have own : (restoring c d s).ch c = (s.ch c).restored d := restoring_ch c d s
  have alone : ((restoring c d s).ch c).paired = false := by rw [own]; exact lone
  have unheld : ((restoring c d s).ch c).acts = [] := by rw [own]; exact idle c
  have free : ((restoring c d s).govern c).1 ≠ 4 := govern_ne_four <| by
    rw [actFor_eq, lead_of_unpaired alone, Chan.action, unheld]
    rfl
  have out := evalOne_outputs c (restoring c d s)
  have command := evalOne_command free c
  have records : RecordsOnly (evalOne c (restoring c d s)) t := denEvent_records ..
  have ch (e : Ch) : t.ch e = (evalOne c (restoring c d s)).ch e := congrArg (·[e]) records.chans
  have holm : t.holm (bankOf c) = (evalOne c (restoring c d s)).holm (bankOf c) := by simp only [State.holm, records.holms]
  refine ⟨?_, ?_, ?_, ?_, ?_, ?_, ?_, fun e he => ?_⟩
  · have restore : ((evalOne c (restoring c d s)).ch c).restore = ((restoring c d s).ch c).restore := (congrArg Chan.restore (out.chan c) :)
    rw [ch, restore, own]
    rfl
  · rw [ch, out.presag, own]
    rfl
  · rw [ch, command.l5, own]
    exact putL5_unparked unparked _
  · exact (standing_of_chans records.chans c).trans ((evalOne_settled alone free).trans
      (govern_of_chans records.chans (by rw [holm]; exact ⟨rfl, rfl, rfl, rfl, rfl⟩)).symm)
  · rw [ch, command.alarm, own]
    rfl
  · rw [ch, command.fallback, own]
    rfl
  · rw [records.sys, out.sys]
    rfl
  · rw [ch, evalOne_others alone he]
    exact State.setCh_ch_ne s c _ e he

/-! ### The obligation -/

/-- Settles O41: shedding is a sweep that keeps every channel it has shed, its end tells and drops pre-sag states, and a restore is one
write of level 5. -/
theorem sheddingTurnsOffByClassAndRestores : Obligations.SheddingTurnsOffByClassAndRestores := by
  intro s b x vf idle
  refine ⟨fun can up room low vfLow held => ⟨fun fresh => ?begins, fun shed due => ?steps, fun _ stepped early => ?early⟩,
    fun cannot up fresh low held => ?waits, fun h => congrArg Host.Outcome.next (shedState_idle h),
    fun high => congrArg Host.Outcome.next (shedStep_high high), fun can up shed steady => ⟨fun high held queue bare => ?ends, fun h => ?stays⟩,
    fun c d admitted kept lone _ _ unparked => ⟨_, rfl, restoreNow_spec idle admitted kept lone unparked⟩⟩
  case begins =>
    obtain ⟨-, shed, told⟩ := shedSteps_sheds (b := b) (vf := x.vf) 7 (s := shedBegun b s) idle
    obtain ⟨keeps, -⟩ := shedSteps_keeps (b := b) (vf := x.vf) 8 (s := shedBegun b s) idle
    refine ⟨shedSteps b x.vf 8 (shedBegun b s), congrArg Host.Outcome.next ?_, keeps.shed.trans (shedBegun_shed b s),
      fun c hc => ?_, told, keeps.others⟩
    · rw [shedState_begins up fresh vfLow held, if_pos can]
      exact shedNow_of_room room
    · exact ⟨(shed c hc).l5.trans (congrArg deenergised (keeps.chan c).mode), (shed c hc).presag⟩
  case steps =>
    obtain ⟨time, sheds, -⟩ := shedSteps_sheds (b := b) (vf := vf) 7 (s := s) idle
    obtain ⟨keeps, -⟩ := shedSteps_keeps (b := b) (vf := vf) 8 (s := s) idle
    refine ⟨shedSteps b vf 8 s, congrArg Host.Outcome.next ?_, keeps.shed.trans shed, time, fun c hc => ?_, keeps.others⟩
    · rw [shedStep_steps can shed low due]
      exact shedNow_of_room room
    · exact ⟨(sheds c hc).l5.trans (congrArg deenergised (keeps.chan c).mode), (sheds c hc).presag⟩
  case early => exact congrArg Host.Outcome.next (shedStep_early stepped early)
  case waits =>
    refine ⟨shedBegun b s, congrArg Host.Outcome.next ?_, shedBegun_shed b s, rfl⟩
    rw [shedState_begins up fresh low held, if_neg (by simp [cannot])]
  case ends =>
    obtain ⟨ended, told, stands⟩ := shedEnd_spec (vf := x.vf) can queue bare
    refine ⟨_, congrArg Host.Outcome.next (shedEnd_ends up shed steady high held), ended, told, fun c => ?_⟩
    have same := stands c
    exact ⟨(congrArg (·.1) same :), (congrArg (·.2.1) same :), (congrArg (·.2.2) same :)⟩
  case stays => exact congrArg Host.Outcome.next (shedEnd_idle h)

end Sys2Proof.Machine
end
